-- ==== Sys2Proof/Word.lean ====
section
/-! DEFINITION. The words of the machine: bytes, 16-bit words, 20-bit physical addresses, 80-bit temporary reals, and the
operand width. spec/00_scope.md rules R8, R10, R11. -/

namespace Sys2Proof

/-- A byte, 8 bits (R10). -/
abbrev Byte := BitVec 8
/-- A word, 16 bits (R10). -/
abbrev Word := BitVec 16
/-- A physical address, 20 bits (R8, R30). -/
abbrev Phys := BitVec 20
/-- The bits of an 8087 stack register, 80 bits (R320). -/
abbrev TempReal := BitVec 80

/-- The operand width that the `w` bit of an opcode selects (30_encoding.md R53). -/
inductive Width where
  | byte
  | word
deriving DecidableEq, Repr

/-- The number of bits of a width. -/
@[reducible] def Width.bits : Width → Nat
  | .byte => 8
  | .word => 16

/-- The number of bytes of a width. -/
def Width.bytes : Width → Nat
  | .byte => 1
  | .word => 2

/-- The word with the given high and low byte (R10: `hi ++ lo`). -/
def Word.mk (hi lo : Byte) : Word := hi ++ lo
/-- Bits 7 to 0 of a word. -/
def Word.lo (w : Word) : Byte := w.setWidth 8
/-- Bits 15 to 8 of a word. -/
def Word.hi (w : Word) : Byte := (w >>> 8).setWidth 8

end Sys2Proof
end

