-- ==== Sys2Proof/Syntax.lean ====
section
/-! DEFINITION. The syntax of the instruction set: operand forms and the one inductive `Instr`, a constructor for each of the
273 rows of spec/opcode_table.json (30_encoding.md rules R50 to R71). The three kinds of prefix are rows of the table and
constructors too. -/

namespace Sys2Proof

/-- The eight 16-bit general registers, in the order of the reg field (30_encoding.md R54). -/
inductive Reg where
  | ax | cx | dx | bx | sp | bp | si | di
deriving DecidableEq, Repr

/-- The eight 8-bit registers, in the order of the reg field (R54). -/
inductive Reg8 where
  | al | cl | dl | bl | ah | ch | dh | bh
deriving DecidableEq, Repr

/-- The 8-bit register that a reg field names when w = 0, by the 16-bit register it names when w = 1 (R54). -/
def Reg.half : Reg → Reg8
  | .ax => .al
  | .cx => .cl
  | .dx => .dl
  | .bx => .bl
  | .sp => .ah
  | .bp => .ch
  | .si => .dh
  | .di => .bh

/-- The segment registers, in the order of the sreg field (R54). -/
inductive SReg where
  | es | cs | ss | ds
deriving DecidableEq, Repr

/-- The eight base and index sums of the r/m field when mod is not 11, in the order of the field (R55). -/
inductive Base where
  | bxsi | bxdi | bpsi | bpdi | si | di | bp | bx
deriving DecidableEq, Repr

/-- The operand a mod and r/m field select (R55): a register, a memory operand with no, a one-byte or a two-byte
displacement, or a direct address. `ind .bp` has no encoding (mod 00, r/m 110 is the direct address). -/
inductive Rm where
  | reg (r : Reg)
  | ind (b : Base)
  | disp8 (b : Base) (d : Byte)
  | disp16 (b : Base) (d : Word)
  | direct (a : Word)
deriving DecidableEq, Repr

/-- The `d` bit of the two-operand forms (R53). -/
inductive Dir where
  | toRm
  | toReg
deriving DecidableEq, Repr

/-- An immediate with its width: `data`, `data if w = 1` (R60). -/
inductive Imm where
  | byte (b : Byte)
  | word (v : Word)
deriving DecidableEq, Repr

/-- The width of an immediate. -/
def Imm.width : Imm → Width
  | .byte _ => .byte
  | .word _ => .word

/-- An immediate of the `100000sw` forms (R60): opcodes 80H, 81H, 82H and 83H. -/
inductive ImmS where
  | byte (b : Byte)       -- 80H: byte operation
  | word (v : Word)       -- 81H: word operation
  | byteAlias (b : Byte)  -- 82H: byte operation (U5)
  | sext (b : Byte)       -- 83H: word operation, the byte sign-extended
deriving DecidableEq, Repr

/-- The `v` bit of the shift forms: a count of 1 or the count in CL (R53). -/
inductive ShiftCount where
  | one
  | cl
deriving DecidableEq, Repr

/-- One instruction item: an instruction or a prefix byte. The items with operands come first (the compiler allows no more
than 244 constructor tags with fields). -/
inductive Instr where
  -- Data transfer (40_data_transfer.md)
  | movRmReg (dir : Dir) (w : Width) (rm : Rm) (r : Reg)
  | movRmImm (rm : Rm) (imm : Imm)
  | movRegImm (r : Reg) (imm : Imm)
  | movAccAddr (w : Width) (addr : Word)
  | movAddrAcc (w : Width) (addr : Word)
  | movSregRm (sr : SReg) (rm : Rm)
  | movRmSreg (rm : Rm) (sr : SReg)
  | pushRm (rm : Rm)
  | pushReg (r : Reg)
  | pushSreg (sr : SReg)
  | pushImm16 (imm : Word)
  | pushImm8 (imm : Byte)
  | popRm (rm : Rm)
  | popReg (r : Reg)
  | popSreg (sr : SReg)
  | xchgRmReg (w : Width) (rm : Rm) (r : Reg)
  | xchgAxReg (r : Reg)
  | inAccPort (w : Width) (port : Byte)
  | inAccDx (w : Width)
  | outPortAcc (w : Width) (port : Byte)
  | outDxAcc (w : Width)
  | lea (r : Reg) (rm : Rm)
  | lds (r : Reg) (rm : Rm)
  | les (r : Reg) (rm : Rm)
  -- Arithmetic and logic with two operands (41_arithmetic.md, 42_bit_manipulation.md)
  | addRmReg (dir : Dir) (w : Width) (rm : Rm) (r : Reg)
  | addRmImm (rm : Rm) (imm : ImmS)
  | addAccImm (imm : Imm)
  | orRmReg (dir : Dir) (w : Width) (rm : Rm) (r : Reg)
  | orRmImm (rm : Rm) (imm : Imm)
  | orAccImm (imm : Imm)
  | adcRmReg (dir : Dir) (w : Width) (rm : Rm) (r : Reg)
  | adcRmImm (rm : Rm) (imm : ImmS)
  | adcAccImm (imm : Imm)
  | sbbRmReg (dir : Dir) (w : Width) (rm : Rm) (r : Reg)
  | sbbRmImm (rm : Rm) (imm : ImmS)
  | sbbAccImm (imm : Imm)
  | andRmReg (dir : Dir) (w : Width) (rm : Rm) (r : Reg)
  | andRmImm (rm : Rm) (imm : Imm)
  | andAccImm (imm : Imm)
  | subRmReg (dir : Dir) (w : Width) (rm : Rm) (r : Reg)
  | subRmImm (rm : Rm) (imm : ImmS)
  | subAccImm (imm : Imm)
  | xorRmReg (dir : Dir) (w : Width) (rm : Rm) (r : Reg)
  | xorRmImm (rm : Rm) (imm : Imm)
  | xorAccImm (imm : Imm)
  | cmpRmReg (dir : Dir) (w : Width) (rm : Rm) (r : Reg)
  | cmpRmImm (rm : Rm) (imm : ImmS)
  | cmpAccImm (imm : Imm)
  -- Arithmetic (41_arithmetic.md)
  | incRm (w : Width) (rm : Rm)
  | incReg (r : Reg)
  | decRm (w : Width) (rm : Rm)
  | decReg (r : Reg)
  | negRm (w : Width) (rm : Rm)
  | mulRm (w : Width) (rm : Rm)
  | imulRm (w : Width) (rm : Rm)
  | divRm (w : Width) (rm : Rm)
  | idivRm (w : Width) (rm : Rm)
  | imulImm16 (r : Reg) (rm : Rm) (imm : Word)
  | imulImm8 (r : Reg) (rm : Rm) (imm : Byte)
  -- Bit manipulation (42_bit_manipulation.md)
  | notRm (w : Width) (rm : Rm)
  | testRmReg (w : Width) (rm : Rm) (r : Reg)
  | testRmImm (rm : Rm) (imm : Imm)
  | testAccImm (imm : Imm)
  | rolRm (c : ShiftCount) (w : Width) (rm : Rm)
  | rolRmImm (w : Width) (rm : Rm) (count : Byte)
  | rorRm (c : ShiftCount) (w : Width) (rm : Rm)
  | rorRmImm (w : Width) (rm : Rm) (count : Byte)
  | rclRm (c : ShiftCount) (w : Width) (rm : Rm)
  | rclRmImm (w : Width) (rm : Rm) (count : Byte)
  | rcrRm (c : ShiftCount) (w : Width) (rm : Rm)
  | rcrRmImm (w : Width) (rm : Rm) (count : Byte)
  | shlRm (c : ShiftCount) (w : Width) (rm : Rm)
  | shlRmImm (w : Width) (rm : Rm) (count : Byte)
  | shrRm (c : ShiftCount) (w : Width) (rm : Rm)
  | shrRmImm (w : Width) (rm : Rm) (count : Byte)
  | sarRm (c : ShiftCount) (w : Width) (rm : Rm)
  | sarRmImm (w : Width) (rm : Rm) (count : Byte)
  -- String instructions and the repeat prefix (43_string.md)
  | repPrefix (z : Bool)
  | movs (w : Width)
  | cmps (w : Width)
  | scas (w : Width)
  | lods (w : Width)
  | stos (w : Width)
  | ins (w : Width)
  | outs (w : Width)
  -- Control transfer (44_control_transfer.md)
  | callNear (disp : Word)
  | callNearRm (rm : Rm)
  | callFar (off : Word) (seg : Word)
  | callFarRm (rm : Rm)
  | retNearImm (imm : Word)
  | retFarImm (imm : Word)
  | jmpNear (disp : Word)
  | jmpShort (disp : Byte)
  | jmpNearRm (rm : Rm)
  | jmpFar (off : Word) (seg : Word)
  | jmpFarRm (rm : Rm)
  | jo (disp : Byte)
  | jno (disp : Byte)
  | jb (disp : Byte)
  | jae (disp : Byte)
  | je (disp : Byte)
  | jne (disp : Byte)
  | jbe (disp : Byte)
  | ja (disp : Byte)
  | js (disp : Byte)
  | jns (disp : Byte)
  | jp (disp : Byte)
  | jnp (disp : Byte)
  | jl (disp : Byte)
  | jge (disp : Byte)
  | jle (disp : Byte)
  | jg (disp : Byte)
  | loop (disp : Byte)
  | loope (disp : Byte)
  | loopne (disp : Byte)
  | jcxz (disp : Byte)
  | intType (t : Byte)
  -- High-level instructions of the 80186,188 (45_high_level_186.md)
  | enter (size : Word) (level : Byte)
  | bound (r : Reg) (rm : Rm)
  -- Processor control (46_processor_control.md)
  | esc (x : BitVec 6) (rm : Rm)
  -- Segment override prefix and unused opcodes (30_encoding.md R57, R64)
  | segPrefix (sr : SReg)
  | unusedFE7 (rm : Rm)
  | unusedFF7 (rm : Rm)
  -- 8087 (48_npx_8087_instructions.md)
  | faddM32 (rm : Rm)
  | faddM64 (rm : Rm)
  | faddStSti (i : BitVec 3)
  | fmulM32 (rm : Rm)
  | fmulM64 (rm : Rm)
  | fmulStSti (i : BitVec 3)
  | fcomM32 (rm : Rm)
  | fcomM64 (rm : Rm)
  | fcomSti (i : BitVec 3)
  | fcompM32 (rm : Rm)
  | fcompM64 (rm : Rm)
  | fcompSti (i : BitVec 3)
  | fsubM32 (rm : Rm)
  | fsubM64 (rm : Rm)
  | fsubStSti (i : BitVec 3)
  | fsubrM32 (rm : Rm)
  | fsubrM64 (rm : Rm)
  | fsubrStSti (i : BitVec 3)
  | fdivM32 (rm : Rm)
  | fdivM64 (rm : Rm)
  | fdivStSti (i : BitVec 3)
  | fdivrM32 (rm : Rm)
  | fdivrM64 (rm : Rm)
  | fdivrStSti (i : BitVec 3)
  | fiaddI32 (rm : Rm)
  | fiaddI16 (rm : Rm)
  | fimulI32 (rm : Rm)
  | fimulI16 (rm : Rm)
  | ficomI32 (rm : Rm)
  | ficomI16 (rm : Rm)
  | ficompI32 (rm : Rm)
  | ficompI16 (rm : Rm)
  | fisubI32 (rm : Rm)
  | fisubI16 (rm : Rm)
  | fisubrI32 (rm : Rm)
  | fisubrI16 (rm : Rm)
  | fidivI32 (rm : Rm)
  | fidivI16 (rm : Rm)
  | fidivrI32 (rm : Rm)
  | fidivrI16 (rm : Rm)
  | faddStiSt (i : BitVec 3)
  | fmulStiSt (i : BitVec 3)
  | fsubrStiSt (i : BitVec 3)
  | fsubStiSt (i : BitVec 3)
  | fdivrStiSt (i : BitVec 3)
  | fdivStiSt (i : BitVec 3)
  | faddpStiSt (i : BitVec 3)
  | fmulpStiSt (i : BitVec 3)
  | fsubrpStiSt (i : BitVec 3)
  | fsubpStiSt (i : BitVec 3)
  | fdivrpStiSt (i : BitVec 3)
  | fdivpStiSt (i : BitVec 3)
  | fldM32 (rm : Rm)
  | fstM32 (rm : Rm)
  | fstpM32 (rm : Rm)
  | fldenv (rm : Rm)
  | fldcw (rm : Rm)
  | fstenv (rm : Rm)
  | fstcw (rm : Rm)
  | fildI32 (rm : Rm)
  | fistI32 (rm : Rm)
  | fistpI32 (rm : Rm)
  | fldM80 (rm : Rm)
  | fstpM80 (rm : Rm)
  | fldM64 (rm : Rm)
  | fstM64 (rm : Rm)
  | fstpM64 (rm : Rm)
  | frstor (rm : Rm)
  | fsave (rm : Rm)
  | fstsw (rm : Rm)
  | fildI16 (rm : Rm)
  | fistI16 (rm : Rm)
  | fistpI16 (rm : Rm)
  | fbld (rm : Rm)
  | fildI64 (rm : Rm)
  | fbstp (rm : Rm)
  | fistpI64 (rm : Rm)
  | fldSti (i : BitVec 3)
  | fxchSti (i : BitVec 3)
  | ffreeSti (i : BitVec 3)
  | fstSti (i : BitVec 3)
  | fstpSti (i : BitVec 3)
  -- Items without operands, in the same order of families
  -- Data transfer (40_data_transfer.md)
  | pusha
  | popa
  | xlat
  | lahf
  | sahf
  | pushf
  | popf
  -- Arithmetic (41_arithmetic.md)
  | aaa
  | daa
  | aas
  | das
  | aam
  | aad
  | cbw
  | cwd
  -- Control transfer (44_control_transfer.md)
  | retNear
  | retFar
  | int3
  | into
  | iret
  -- High-level instructions of the 80186,188 (45_high_level_186.md)
  | leave
  -- Processor control (46_processor_control.md)
  | clc
  | cmc
  | stc
  | cld
  | std
  | cli
  | sti
  | hlt
  | wait
  | lockPrefix
  | nop
  -- Segment override prefix and unused opcodes (30_encoding.md R57, R64)
  | unused63
  | unused64
  | unused65
  | unused66
  | unused67
  | unusedF1
  -- 8087 (48_npx_8087_instructions.md)
  | fcompp
  | fnop
  | fchs
  | fabs
  | ftst
  | fxam
  | fld1
  | fldl2t
  | fldl2e
  | fldpi
  | fldlg2
  | fldln2
  | fldz
  | f2xm1
  | fyl2x
  | fptan
  | fpatan
  | fxtract
  | fdecstp
  | fincstp
  | fprem
  | fyl2xp1
  | fsqrt
  | frndint
  | fscale
  | feni
  | fdisi
  | fclex
  | finit
  | fwait
deriving DecidableEq, Repr

/-- Why a byte sequence is no instruction: the encodings 93_implementation_defined.md Part 1 treats with "refuse". -/
inductive DecodeError where
  /-- fewer bytes than the instruction needs (never at a fetch, which supplies six) -/
  | tooShort
  /-- LEA, LDS, LES, BOUND, far CALL or JMP through mod = 11 (U1, U3, U4) -/
  | registerOperand
  /-- MOV to CS, or a segment register number above 3 (U2) -/
  | segmentNumber
  /-- 82H or 83H with /1, /4 or /6 (U5) -/
  | immediateGroup
  /-- opcode D6H (U6) -/
  | opcodeD6
  /-- a group slot with no instruction (U7) -/
  | groupSlot
  /-- AAM or AAD with a second byte other than 0AH (U14) -/
  | adjustByte
deriving DecidableEq, Repr

end Sys2Proof
end

