-- ==== Sys2Proof/Decode.lean ====
section
/-! DEFINITION. The decoder and the encoder, both written from 30_encoding.md (the opcode map R62, the groups R63, the mod byte
R55, the ESC rows of spec/opcode_table.json and 48_npx_8087_instructions.md R424), and `decodeTableWord`. A prefix byte decodes to an item of its
own; the prefix latches of R56 are kept by the machine. -/

namespace Sys2Proof

/-! ## Fields -/

/-- R54, w = 1 column. -/
def Reg.ofBits (n : BitVec 3) : Reg :=
  match n.toNat with
  | 0 => .ax
  | 1 => .cx
  | 2 => .dx
  | 3 => .bx
  | 4 => .sp
  | 5 => .bp
  | 6 => .si
  | _ => .di

/-- R54. -/
def Reg.bits : Reg → BitVec 3
  | .ax => 0
  | .cx => 1
  | .dx => 2
  | .bx => 3
  | .sp => 4
  | .bp => 5
  | .si => 6
  | .di => 7

/-- R54, segment registers. -/
def SReg.ofBits (n : BitVec 2) : SReg :=
  match n.toNat with
  | 0 => .es
  | 1 => .cs
  | 2 => .ss
  | _ => .ds

/-- R54, segment registers. -/
def SReg.bits : SReg → BitVec 2
  | .es => 0
  | .cs => 1
  | .ss => 2
  | .ds => 3

/-- The r/m field for mod other than 11 (R55). -/
def Base.ofBits (n : BitVec 3) : Base :=
  match n.toNat with
  | 0 => .bxsi
  | 1 => .bxdi
  | 2 => .bpsi
  | 3 => .bpdi
  | 4 => .si
  | 5 => .di
  | 6 => .bp
  | _ => .bx

/-- The r/m field for mod other than 11 (R55). -/
def Base.bits : Base → BitVec 3
  | .bxsi => 0
  | .bxdi => 1
  | .bpsi => 2
  | .bpdi => 3
  | .si => 4
  | .di => 5
  | .bp => 6
  | .bx => 7

/-- The w bit (R53). -/
def Width.ofBit (b : Bool) : Width := if b then .word else .byte
/-- The w bit (R53). -/
def Width.bit : Width → BitVec 1
  | .byte => 0
  | .word => 1

/-- The d bit (R53). -/
def Dir.ofBit (b : Bool) : Dir := if b then .toReg else .toRm
/-- The d bit (R53). -/
def Dir.bit : Dir → BitVec 1
  | .toRm => 0
  | .toReg => 1

/-- The v bit (R53). -/
def ShiftCount.ofBit (b : Bool) : ShiftCount := if b then .cl else .one
/-- The v bit (R53). -/
def ShiftCount.bit : ShiftCount → BitVec 1
  | .one => 0
  | .cl => 1

/-- Is the operand a memory operand (mod not 11)? -/
def Rm.isMem : Rm → Bool
  | .reg _ => false
  | .ind _ => true
  | .disp8 _ _ => true
  | .disp16 _ _ => true
  | .direct _ => true

/-! ## Forms -/

/-- What follows the opcode (and mod byte): nothing, or bytes the instruction takes (R50, R60). -/
inductive Tail where
  | ok (i : Instr)
  | bad (e : DecodeError)
  | b (f : Byte → Instr)
  | bCheck (f : Byte → Except DecodeError Instr)
  | w (f : Word → Instr)
  | ww (f : Word → Word → Instr)
  | wb (f : Word → Byte → Instr)

/-- The shape of an instruction by its first byte: with or without a mod byte. -/
inductive Form where
  | plain (t : Tail)
  | modrm (f : BitVec 3 → Rm → Tail)

/-- A tail for an instruction whose r/m operand must be memory (U1, U3, U4). -/
def Tail.memOnly (rm : Rm) (t : Tail) : Tail :=
  if rm.isMem then t else .bad .registerOperand

/-- The mod byte and its displacement (R55): reg field, operand, bytes used. -/
def decodeModRm : List Byte → Option (BitVec 3 × Rm × List Byte × Nat)
  | [] => none
  | m :: rest =>
    let reg := m.extractLsb' 3 3
    let rm := m.extractLsb' 0 3
    match (m.extractLsb' 6 2).toNat with
    | 0 =>
      if rm = 6 then
        match rest with
        | lo :: hi :: r => some (reg, .direct (Word.mk hi lo), r, 3)
        | _ => none
      else some (reg, .ind (Base.ofBits rm), rest, 1)
    | 1 =>
      match rest with
      | d :: r => some (reg, .disp8 (Base.ofBits rm) d, r, 2)
      | _ => none
    | 2 =>
      match rest with
      | lo :: hi :: r => some (reg, .disp16 (Base.ofBits rm) (Word.mk hi lo), r, 3)
      | _ => none
    | _ => some (reg, .reg (Reg.ofBits rm), rest, 1)

/-- Take the bytes a tail asks for, low byte first (R52); `n` bytes came before. -/
def Tail.run (t : Tail) (n : Nat) (bs : List Byte) : Except DecodeError (Instr × Nat) :=
  match t with
  | .ok i => .ok (i, n)
  | .bad e => .error e
  | .b f =>
    match bs with
    | x :: _ => .ok (f x, n + 1)
    | _ => .error .tooShort
  | .bCheck f =>
    match bs with
    | x :: _ =>
      match f x with
      | .ok i => .ok (i, n + 1)
      | .error e => .error e
    | _ => .error .tooShort
  | .w f =>
    match bs with
    | lo :: hi :: _ => .ok (f (Word.mk hi lo), n + 2)
    | _ => .error .tooShort
  | .ww f =>
    match bs with
    | b0 :: b1 :: b2 :: b3 :: _ => .ok (f (Word.mk b1 b0) (Word.mk b3 b2), n + 4)
    | _ => .error .tooShort
  | .wb f =>
    match bs with
    | b0 :: b1 :: b2 :: _ => .ok (f (Word.mk b1 b0) b2, n + 3)
    | _ => .error .tooShort

/-- An immediate of the given width after the rest of the instruction (R60: `data`, `data if w = 1`). -/
def immTail (w : Width) (f : Imm → Instr) : Tail :=
  match w with
  | .byte => .b fun x => f (.byte x)
  | .word => .w fun x => f (.word x)

/-! ## The opcode map, R62 and R63 -/

/-- The six opcodes `00xxx0dw`, `00xxx10w` of one two-operand instruction (R62). -/
def aluForm (rr : Dir → Width → Rm → Reg → Instr) (ai : Imm → Instr) (low : BitVec 3) : Form :=
  match low.toNat with
  | 0 => .modrm fun r rm => .ok (rr .toRm .byte rm (Reg.ofBits r))
  | 1 => .modrm fun r rm => .ok (rr .toRm .word rm (Reg.ofBits r))
  | 2 => .modrm fun r rm => .ok (rr .toReg .byte rm (Reg.ofBits r))
  | 3 => .modrm fun r rm => .ok (rr .toReg .word rm (Reg.ofBits r))
  | 4 => .plain (immTail .byte ai)
  | _ => .plain (immTail .word ai)

/-- Opcodes 80H and 81H (R60, R63): byte or word immediate, all eight operations. -/
def groupImm (w : Width) (reg : BitVec 3) (rm : Rm) : Tail :=
  let s : (ImmS → Instr) → Tail := fun f =>
    match w with
    | .byte => .b fun x => f (.byte x)
    | .word => .w fun x => f (.word x)
  match reg.toNat with
  | 0 => s (.addRmImm rm)
  | 1 => immTail w (.orRmImm rm)
  | 2 => s (.adcRmImm rm)
  | 3 => s (.sbbRmImm rm)
  | 4 => immTail w (.andRmImm rm)
  | 5 => s (.subRmImm rm)
  | 6 => immTail w (.xorRmImm rm)
  | _ => s (.cmpRmImm rm)

/-- Opcodes 82H and 83H (R60, U5): only the `100000sw` instructions have them. -/
def groupImmS (k : Byte → ImmS) (reg : BitVec 3) (rm : Rm) : Tail :=
  match reg.toNat with
  | 0 => .b fun x => .addRmImm rm (k x)
  | 2 => .b fun x => .adcRmImm rm (k x)
  | 3 => .b fun x => .sbbRmImm rm (k x)
  | 5 => .b fun x => .subRmImm rm (k x)
  | 7 => .b fun x => .cmpRmImm rm (k x)
  | _ => .bad .immediateGroup

/-- Opcodes D0H to D3H (R63). -/
def groupShift (c : ShiftCount) (w : Width) (reg : BitVec 3) (rm : Rm) : Tail :=
  match reg.toNat with
  | 0 => .ok (.rolRm c w rm)
  | 1 => .ok (.rorRm c w rm)
  | 2 => .ok (.rclRm c w rm)
  | 3 => .ok (.rcrRm c w rm)
  | 4 => .ok (.shlRm c w rm)
  | 5 => .ok (.shrRm c w rm)
  | 7 => .ok (.sarRm c w rm)
  | _ => .bad .groupSlot

/-- Opcodes C0H and C1H (R63, R69; PRESUMED, log 23). -/
def groupShiftImm (w : Width) (reg : BitVec 3) (rm : Rm) : Tail :=
  match reg.toNat with
  | 0 => .b (.rolRmImm w rm)
  | 1 => .b (.rorRmImm w rm)
  | 2 => .b (.rclRmImm w rm)
  | 3 => .b (.rcrRmImm w rm)
  | 4 => .b (.shlRmImm w rm)
  | 5 => .b (.shrRmImm w rm)
  | 7 => .b (.sarRmImm w rm)
  | _ => .bad .groupSlot

/-- Opcodes F6H and F7H (R63). -/
def groupUnary (w : Width) (reg : BitVec 3) (rm : Rm) : Tail :=
  match reg.toNat with
  | 0 => immTail w (.testRmImm rm)
  | 2 => .ok (.notRm w rm)
  | 3 => .ok (.negRm w rm)
  | 4 => .ok (.mulRm w rm)
  | 5 => .ok (.imulRm w rm)
  | 6 => .ok (.divRm w rm)
  | 7 => .ok (.idivRm w rm)
  | _ => .bad .groupSlot

/-- Opcode FEH (R63, R64). -/
def groupFE (reg : BitVec 3) (rm : Rm) : Tail :=
  match reg.toNat with
  | 0 => .ok (.incRm .byte rm)
  | 1 => .ok (.decRm .byte rm)
  | 7 => .ok (.unusedFE7 rm)
  | _ => .bad .groupSlot

/-- Opcode FFH (R62, R64). -/
def groupFF (reg : BitVec 3) (rm : Rm) : Tail :=
  match reg.toNat with
  | 0 => .ok (.incRm .word rm)
  | 1 => .ok (.decRm .word rm)
  | 2 => .ok (.callNearRm rm)
  | 3 => .memOnly rm (.ok (.callFarRm rm))
  | 4 => .ok (.jmpNearRm rm)
  | 5 => .memOnly rm (.ok (.jmpFarRm rm))
  | 6 => .ok (.pushRm rm)
  | _ => .ok (.unusedFF7 rm)

/-- An 8087 instruction with a memory operand, by the low three bits of the opcode and the reg field (R424); an encoding the
table does not name is a plain ESC (U37). PRESUMED (D30, log 39). -/
def escMem (lo reg : BitVec 3) (rm : Rm) : Instr :=
  match lo.toNat, reg.toNat with
  | 0, 0 => .faddM32 rm
  | 0, 1 => .fmulM32 rm
  | 0, 2 => .fcomM32 rm
  | 0, 3 => .fcompM32 rm
  | 0, 4 => .fsubM32 rm
  | 0, 5 => .fsubrM32 rm
  | 0, 6 => .fdivM32 rm
  | 0, 7 => .fdivrM32 rm
  | 1, 0 => .fldM32 rm
  | 1, 2 => .fstM32 rm
  | 1, 3 => .fstpM32 rm
  | 1, 4 => .fldenv rm
  | 1, 5 => .fldcw rm
  | 1, 6 => .fstenv rm
  | 1, 7 => .fstcw rm
  | 2, 0 => .fiaddI32 rm
  | 2, 1 => .fimulI32 rm
  | 2, 2 => .ficomI32 rm
  | 2, 3 => .ficompI32 rm
  | 2, 4 => .fisubI32 rm
  | 2, 5 => .fisubrI32 rm
  | 2, 6 => .fidivI32 rm
  | 2, 7 => .fidivrI32 rm
  | 3, 0 => .fildI32 rm
  | 3, 2 => .fistI32 rm
  | 3, 3 => .fistpI32 rm
  | 3, 5 => .fldM80 rm
  | 3, 7 => .fstpM80 rm
  | 4, 0 => .faddM64 rm
  | 4, 1 => .fmulM64 rm
  | 4, 2 => .fcomM64 rm
  | 4, 3 => .fcompM64 rm
  | 4, 4 => .fsubM64 rm
  | 4, 5 => .fsubrM64 rm
  | 4, 6 => .fdivM64 rm
  | 4, 7 => .fdivrM64 rm
  | 5, 0 => .fldM64 rm
  | 5, 2 => .fstM64 rm
  | 5, 3 => .fstpM64 rm
  | 5, 4 => .frstor rm
  | 5, 6 => .fsave rm
  | 5, 7 => .fstsw rm
  | 6, 0 => .fiaddI16 rm
  | 6, 1 => .fimulI16 rm
  | 6, 2 => .ficomI16 rm
  | 6, 3 => .ficompI16 rm
  | 6, 4 => .fisubI16 rm
  | 6, 5 => .fisubrI16 rm
  | 6, 6 => .fidivI16 rm
  | 6, 7 => .fidivrI16 rm
  | 7, 0 => .fildI16 rm
  | 7, 2 => .fistI16 rm
  | 7, 3 => .fistpI16 rm
  | 7, 4 => .fbld rm
  | 7, 5 => .fildI64 rm
  | 7, 6 => .fbstp rm
  | 7, 7 => .fistpI64 rm
  | _, _ => .esc (lo ++ reg) rm

/-- An 8087 instruction of the register forms (mod = 11), by the low three bits of the opcode, the reg field and the r/m
field (R424). PRESUMED (D30, log 39). -/
def escReg (lo reg i : BitVec 3) : Instr :=
  match lo.toNat, reg.toNat, i.toNat with
  | 0, 0, _ => .faddStSti i
  | 0, 1, _ => .fmulStSti i
  | 0, 2, _ => .fcomSti i
  | 0, 3, _ => .fcompSti i
  | 0, 4, _ => .fsubStSti i
  | 0, 5, _ => .fsubrStSti i
  | 0, 6, _ => .fdivStSti i
  | 0, 7, _ => .fdivrStSti i
  | 1, 0, _ => .fldSti i
  | 1, 1, _ => .fxchSti i
  | 1, 2, 0 => .fnop
  | 1, 4, 0 => .fchs
  | 1, 4, 1 => .fabs
  | 1, 4, 4 => .ftst
  | 1, 4, 5 => .fxam
  | 1, 5, 0 => .fld1
  | 1, 5, 1 => .fldl2t
  | 1, 5, 2 => .fldl2e
  | 1, 5, 3 => .fldpi
  | 1, 5, 4 => .fldlg2
  | 1, 5, 5 => .fldln2
  | 1, 5, 6 => .fldz
  | 1, 6, 0 => .f2xm1
  | 1, 6, 1 => .fyl2x
  | 1, 6, 2 => .fptan
  | 1, 6, 3 => .fpatan
  | 1, 6, 4 => .fxtract
  | 1, 6, 6 => .fdecstp
  | 1, 6, 7 => .fincstp
  | 1, 7, 0 => .fprem
  | 1, 7, 1 => .fyl2xp1
  | 1, 7, 2 => .fsqrt
  | 1, 7, 4 => .frndint
  | 1, 7, 5 => .fscale
  | 3, 4, 0 => .feni
  | 3, 4, 1 => .fdisi
  | 3, 4, 2 => .fclex
  | 3, 4, 3 => .finit
  | 4, 0, _ => .faddStiSt i
  | 4, 1, _ => .fmulStiSt i
  | 4, 4, _ => .fsubrStiSt i
  | 4, 5, _ => .fsubStiSt i
  | 4, 6, _ => .fdivrStiSt i
  | 4, 7, _ => .fdivStiSt i
  | 5, 0, _ => .ffreeSti i
  | 5, 2, _ => .fstSti i
  | 5, 3, _ => .fstpSti i
  | 6, 0, _ => .faddpStiSt i
  | 6, 1, _ => .fmulpStiSt i
  | 6, 3, 1 => .fcompp
  | 6, 4, _ => .fsubrpStiSt i
  | 6, 5, _ => .fsubpStiSt i
  | 6, 6, _ => .fdivrpStiSt i
  | 6, 7, _ => .fdivpStiSt i
  | _, _, _ => .esc (lo ++ reg) (.reg (Reg.ofBits i))

/-- The ESC opcodes D8H to DFH (R71). -/
def escForm (lo : BitVec 3) : Form :=
  .modrm fun reg rm =>
    match rm with
    | .reg r => .ok (escReg lo reg r.bits)
    | m => .ok (escMem lo reg m)

/-- The conditional jumps 70H to 7FH (R62). -/
def jccForm (n : BitVec 4) : Form :=
  match n.toNat with
  | 0 => .plain (.b .jo)
  | 1 => .plain (.b .jno)
  | 2 => .plain (.b .jb)
  | 3 => .plain (.b .jae)
  | 4 => .plain (.b .je)
  | 5 => .plain (.b .jne)
  | 6 => .plain (.b .jbe)
  | 7 => .plain (.b .ja)
  | 8 => .plain (.b .js)
  | 9 => .plain (.b .jns)
  | 10 => .plain (.b .jp)
  | 11 => .plain (.b .jnp)
  | 12 => .plain (.b .jl)
  | 13 => .plain (.b .jge)
  | 14 => .plain (.b .jle)
  | _ => .plain (.b .jg)

/-- Opcodes 60H to 67H (R62). -/
def row60 (low : BitVec 3) : Form :=
  match low.toNat with
  | 0 => .plain (.ok .pusha)
  | 1 => .plain (.ok .popa)
  | 2 => .modrm fun r rm => .memOnly rm (.ok (.bound (Reg.ofBits r) rm))
  | 3 => .plain (.ok .unused63)
  | 4 => .plain (.ok .unused64)
  | 5 => .plain (.ok .unused65)
  | 6 => .plain (.ok .unused66)
  | _ => .plain (.ok .unused67)

/-- Opcodes 68H to 6FH (R62). -/
def row68 (low : BitVec 3) : Form :=
  match low.toNat with
  | 0 => .plain (.w .pushImm16)
  | 1 => .modrm fun r rm => .w (.imulImm16 (Reg.ofBits r) rm)
  | 2 => .plain (.b .pushImm8)
  | 3 => .modrm fun r rm => .b (.imulImm8 (Reg.ofBits r) rm)
  | 4 => .plain (.ok (.ins .byte))
  | 5 => .plain (.ok (.ins .word))
  | 6 => .plain (.ok (.outs .byte))
  | _ => .plain (.ok (.outs .word))

/-- Opcodes 80H to 87H (R62). -/
def row80 (low : BitVec 3) : Form :=
  match low.toNat with
  | 0 => .modrm (groupImm .byte)
  | 1 => .modrm (groupImm .word)
  | 2 => .modrm (groupImmS .byteAlias)
  | 3 => .modrm (groupImmS .sext)
  | 4 => .modrm fun r rm => .ok (.testRmReg .byte rm (Reg.ofBits r))
  | 5 => .modrm fun r rm => .ok (.testRmReg .word rm (Reg.ofBits r))
  | 6 => .modrm fun r rm => .ok (.xchgRmReg .byte rm (Reg.ofBits r))
  | _ => .modrm fun r rm => .ok (.xchgRmReg .word rm (Reg.ofBits r))

/-- Opcodes 88H to 8FH (R62). -/
def row88 (low : BitVec 3) : Form :=
  match low.toNat with
  | 0 => .modrm fun r rm => .ok (.movRmReg .toRm .byte rm (Reg.ofBits r))
  | 1 => .modrm fun r rm => .ok (.movRmReg .toRm .word rm (Reg.ofBits r))
  | 2 => .modrm fun r rm => .ok (.movRmReg .toReg .byte rm (Reg.ofBits r))
  | 3 => .modrm fun r rm => .ok (.movRmReg .toReg .word rm (Reg.ofBits r))
  | 4 => .modrm fun r rm => if r.msb then .bad .segmentNumber else .ok (.movRmSreg rm (SReg.ofBits (r.setWidth 2)))
  | 5 => .modrm fun r rm => .memOnly rm (.ok (.lea (Reg.ofBits r) rm))
  | 6 => .modrm fun r rm => if r.msb || r == 1 then .bad .segmentNumber else .ok (.movSregRm (SReg.ofBits (r.setWidth 2)) rm)
  | _ => .modrm fun r rm => if r = 0 then .ok (.popRm rm) else .bad .groupSlot

/-- Opcodes 98H to 9FH (R62). -/
def row98 (low : BitVec 3) : Form :=
  match low.toNat with
  | 0 => .plain (.ok .cbw)
  | 1 => .plain (.ok .cwd)
  | 2 => .plain (.ww .callFar)
  | 3 => .plain (.ok .wait)
  | 4 => .plain (.ok .pushf)
  | 5 => .plain (.ok .popf)
  | 6 => .plain (.ok .sahf)
  | _ => .plain (.ok .lahf)

/-- Opcodes A0H to A7H (R62). -/
def rowA0 (low : BitVec 3) : Form :=
  match low.toNat with
  | 0 => .plain (.w (.movAccAddr .byte))
  | 1 => .plain (.w (.movAccAddr .word))
  | 2 => .plain (.w (.movAddrAcc .byte))
  | 3 => .plain (.w (.movAddrAcc .word))
  | 4 => .plain (.ok (.movs .byte))
  | 5 => .plain (.ok (.movs .word))
  | 6 => .plain (.ok (.cmps .byte))
  | _ => .plain (.ok (.cmps .word))

/-- Opcodes A8H to AFH (R62). -/
def rowA8 (low : BitVec 3) : Form :=
  match low.toNat with
  | 0 => .plain (immTail .byte .testAccImm)
  | 1 => .plain (immTail .word .testAccImm)
  | 2 => .plain (.ok (.stos .byte))
  | 3 => .plain (.ok (.stos .word))
  | 4 => .plain (.ok (.lods .byte))
  | 5 => .plain (.ok (.lods .word))
  | 6 => .plain (.ok (.scas .byte))
  | _ => .plain (.ok (.scas .word))

/-- Opcodes C0H to C7H (R62). -/
def rowC0 (low : BitVec 3) : Form :=
  match low.toNat with
  | 0 => .modrm (groupShiftImm .byte)
  | 1 => .modrm (groupShiftImm .word)
  | 2 => .plain (.w .retNearImm)
  | 3 => .plain (.ok .retNear)
  | 4 => .modrm fun r rm => .memOnly rm (.ok (.les (Reg.ofBits r) rm))
  | 5 => .modrm fun r rm => .memOnly rm (.ok (.lds (Reg.ofBits r) rm))
  | 6 => .modrm fun r rm => if r = 0 then immTail .byte (.movRmImm rm) else .bad .groupSlot
  | _ => .modrm fun r rm => if r = 0 then immTail .word (.movRmImm rm) else .bad .groupSlot

/-- Opcodes C8H to CFH (R62). -/
def rowC8 (low : BitVec 3) : Form :=
  match low.toNat with
  | 0 => .plain (.wb .enter)
  | 1 => .plain (.ok .leave)
  | 2 => .plain (.w .retFarImm)
  | 3 => .plain (.ok .retFar)
  | 4 => .plain (.ok .int3)
  | 5 => .plain (.b .intType)
  | 6 => .plain (.ok .into)
  | _ => .plain (.ok .iret)

/-- Opcodes D0H to D7H (R62). -/
def rowD0 (low : BitVec 3) : Form :=
  match low.toNat with
  | 0 => .modrm (groupShift .one .byte)
  | 1 => .modrm (groupShift .one .word)
  | 2 => .modrm (groupShift .cl .byte)
  | 3 => .modrm (groupShift .cl .word)
  | 4 => .plain (.bCheck fun x => if x = 10 then .ok .aam else .error .adjustByte)
  | 5 => .plain (.bCheck fun x => if x = 10 then .ok .aad else .error .adjustByte)
  | 6 => .plain (.bad .opcodeD6)
  | _ => .plain (.ok .xlat)

/-- Opcodes E0H to E7H (R62). -/
def rowE0 (low : BitVec 3) : Form :=
  match low.toNat with
  | 0 => .plain (.b .loopne)
  | 1 => .plain (.b .loope)
  | 2 => .plain (.b .loop)
  | 3 => .plain (.b .jcxz)
  | 4 => .plain (.b (.inAccPort .byte))
  | 5 => .plain (.b (.inAccPort .word))
  | 6 => .plain (.b (.outPortAcc .byte))
  | _ => .plain (.b (.outPortAcc .word))

/-- Opcodes E8H to EFH (R62). -/
def rowE8 (low : BitVec 3) : Form :=
  match low.toNat with
  | 0 => .plain (.w .callNear)
  | 1 => .plain (.w .jmpNear)
  | 2 => .plain (.ww .jmpFar)
  | 3 => .plain (.b .jmpShort)
  | 4 => .plain (.ok (.inAccDx .byte))
  | 5 => .plain (.ok (.inAccDx .word))
  | 6 => .plain (.ok (.outDxAcc .byte))
  | _ => .plain (.ok (.outDxAcc .word))

/-- Opcodes F0H to F7H (R62). -/
def rowF0 (low : BitVec 3) : Form :=
  match low.toNat with
  | 0 => .plain (.ok .lockPrefix)
  | 1 => .plain (.ok .unusedF1)
  | 2 => .plain (.ok (.repPrefix false))
  | 3 => .plain (.ok (.repPrefix true))
  | 4 => .plain (.ok .hlt)
  | 5 => .plain (.ok .cmc)
  | 6 => .modrm (groupUnary .byte)
  | _ => .modrm (groupUnary .word)

/-- Opcodes F8H to FFH (R62). -/
def rowF8 (low : BitVec 3) : Form :=
  match low.toNat with
  | 0 => .plain (.ok .clc)
  | 1 => .plain (.ok .stc)
  | 2 => .plain (.ok .cli)
  | 3 => .plain (.ok .sti)
  | 4 => .plain (.ok .cld)
  | 5 => .plain (.ok .std)
  | 6 => .modrm groupFE
  | _ => .modrm groupFF

/-- The opcode map (R62): the form of an instruction by its first byte, by its high five and low three bits. -/
def opcodeForm (b : Byte) : Form :=
  let low := b.extractLsb' 0 3
  let reg := Reg.ofBits low
  match (b.extractLsb' 3 5).toNat with
  | 0 =>
    match low.toNat with
    | 6 => .plain (.ok (.pushSreg .es))
    | 7 => .plain (.ok (.popSreg .es))
    | _ => aluForm .addRmReg .addAccImm low
  | 1 =>
    match low.toNat with
    | 6 => .plain (.ok (.pushSreg .cs))
    | 7 => .plain (.ok (.popSreg .cs))
    | _ => aluForm .orRmReg .orAccImm low
  | 2 =>
    match low.toNat with
    | 6 => .plain (.ok (.pushSreg .ss))
    | 7 => .plain (.ok (.popSreg .ss))
    | _ => aluForm .adcRmReg .adcAccImm low
  | 3 =>
    match low.toNat with
    | 6 => .plain (.ok (.pushSreg .ds))
    | 7 => .plain (.ok (.popSreg .ds))
    | _ => aluForm .sbbRmReg .sbbAccImm low
  | 4 =>
    match low.toNat with
    | 6 => .plain (.ok (.segPrefix .es))
    | 7 => .plain (.ok .daa)
    | _ => aluForm .andRmReg .andAccImm low
  | 5 =>
    match low.toNat with
    | 6 => .plain (.ok (.segPrefix .cs))
    | 7 => .plain (.ok .das)
    | _ => aluForm .subRmReg .subAccImm low
  | 6 =>
    match low.toNat with
    | 6 => .plain (.ok (.segPrefix .ss))
    | 7 => .plain (.ok .aaa)
    | _ => aluForm .xorRmReg .xorAccImm low
  | 7 =>
    match low.toNat with
    | 6 => .plain (.ok (.segPrefix .ds))
    | 7 => .plain (.ok .aas)
    | _ => aluForm .cmpRmReg .cmpAccImm low
  | 8 => .plain (.ok (.incReg reg))
  | 9 => .plain (.ok (.decReg reg))
  | 10 => .plain (.ok (.pushReg reg))
  | 11 => .plain (.ok (.popReg reg))
  | 12 => row60 low
  | 13 => row68 low
  | 14 => jccForm (b.setWidth 4)
  | 15 => jccForm (b.setWidth 4)
  | 16 => row80 low
  | 17 => row88 low
  | 18 => if low = 0 then .plain (.ok .nop) else .plain (.ok (.xchgAxReg reg))
  | 19 => row98 low
  | 20 => rowA0 low
  | 21 => rowA8 low
  | 22 => .plain (.b fun x => .movRegImm reg (.byte x))
  | 23 => .plain (.w fun x => .movRegImm reg (.word x))
  | 24 => rowC0 low
  | 25 => rowC8 low
  | 26 => rowD0 low
  | 27 => escForm low
  | 28 => rowE0 low
  | 29 => rowE8 low
  | 30 => rowF0 low
  | _ => rowF8 low

/-- Decode one item (an instruction or a prefix byte) at the head of a byte list: the item and the number of its bytes (R67). -/
def decode (bs : List Byte) : Except DecodeError (Instr × Nat) :=
  match bs with
  | [] => .error .tooShort
  | b :: rest =>
    match opcodeForm b with
    | .plain t => t.run 1 rest
    | .modrm f =>
      match decodeModRm rest with
      | none => .error .tooShort
      | some (reg, rm, rest', n) => (f reg rm).run (1 + n) rest'

/-- The bytes of the instruction whose bits are `w`, numbered as the opcode table numbers them: `nbits` bits, the first byte in the
high-order position (R73, log 63). Zeros follow, up to the six bytes of the longest instruction (R50). -/
def tableBytes (nbits w : Nat) : List Byte :=
  let n := (nbits + 7) / 8
  [0, 1, 2, 3, 4, 5].map fun k => if k < n then BitVec.ofNat 8 (w / 2 ^ (8 * (n - 1 - k))) else 0

/-- The item the decoder reads from an opcode-table word. -/
def decodeTableWord (nbits w : Nat) : Option Instr :=
  match decode (tableBytes nbits w) with
  | .ok (i, _) => some i
  | .error _ => none

/-! ## The encoder -/

/-- A word, low byte first (R52). -/
def encWord (v : Word) : List Byte := [v.lo, v.hi]

/-- The mod byte and displacement (R55). -/
def encodeModRm (reg : BitVec 3) : Rm → List Byte
  | .reg r => [(3 : BitVec 2) ++ reg ++ r.bits]
  | .ind b => [(0 : BitVec 2) ++ reg ++ b.bits]
  | .disp8 b d => [(1 : BitVec 2) ++ reg ++ b.bits, d]
  | .disp16 b d => ((2 : BitVec 2) ++ reg ++ b.bits) :: encWord d
  | .direct a => ((0 : BitVec 2) ++ reg ++ (6 : BitVec 3)) :: encWord a

/-- The bytes of an immediate (R60). -/
def Imm.bytes : Imm → List Byte
  | .byte b => [b]
  | .word v => encWord v

/-- Opcode with a w bit in bit 0. -/
def opW (op : BitVec 7) (w : Width) : Byte := op ++ w.bit
/-- Opcode with d and w bits. -/
def opDW (op : BitVec 6) (d : Dir) (w : Width) : Byte := op ++ d.bit ++ w.bit
/-- Opcode with a register field in bits 2 to 0. -/
def opReg (op : BitVec 5) (r : Reg) : Byte := op ++ r.bits
/-- The two-operand form. -/
def encRR (op : BitVec 6) (d : Dir) (w : Width) (rm : Rm) (r : Reg) : List Byte :=
  opDW op d w :: encodeModRm r.bits rm
/-- The immediate form of AND, OR and XOR: 80H, 81H. -/
def encRI (n : BitVec 3) (rm : Rm) (imm : Imm) : List Byte :=
  opW 0x40 imm.width :: (encodeModRm n rm ++ imm.bytes)
/-- The immediate form `100000sw`: 80H to 83H. -/
def encRS (n : BitVec 3) (rm : Rm) : ImmS → List Byte
  | .byte x => 0x80 :: (encodeModRm n rm ++ [x])
  | .word x => 0x81 :: (encodeModRm n rm ++ encWord x)
  | .byteAlias x => 0x82 :: (encodeModRm n rm ++ [x])
  | .sext x => 0x83 :: (encodeModRm n rm ++ [x])
/-- A shift by 1 or CL: `110100vw`. -/
def encShift (n : BitVec 3) (c : ShiftCount) (w : Width) (rm : Rm) : List Byte :=
  ((0x34 : BitVec 6) ++ c.bit ++ w.bit) :: encodeModRm n rm
/-- A shift by an immediate: `1100000w`. -/
def encShiftImm (n : BitVec 3) (w : Width) (rm : Rm) (count : Byte) : List Byte :=
  opW 0x60 w :: (encodeModRm n rm ++ [count])
/-- An 8087 instruction with a memory operand. -/
def encEscMem (lo reg : BitVec 3) (rm : Rm) : List Byte := ((0x1B : BitVec 5) ++ lo) :: encodeModRm reg rm
/-- An 8087 instruction with a stack element. -/
def encEscSti (lo reg i : BitVec 3) : List Byte := [(0x1B : BitVec 5) ++ lo, (3 : BitVec 2) ++ reg ++ i]

/-- The words of a well-formed instruction. -/
def encode : Instr → List Byte
  | .movRmReg dir w rm r => encRR 0x22 dir w rm r
  | .movRmImm rm imm => opW 0x63 imm.width :: (encodeModRm 0 rm ++ imm.bytes)
  | .movRegImm r imm => ((0xB : BitVec 4) ++ imm.width.bit ++ r.bits) :: imm.bytes
  | .movAccAddr w addr => opW 0x50 w :: encWord addr
  | .movAddrAcc w addr => opW 0x51 w :: encWord addr
  | .movSregRm sr rm => 0x8E :: encodeModRm ((0 : BitVec 1) ++ sr.bits) rm
  | .movRmSreg rm sr => 0x8C :: encodeModRm ((0 : BitVec 1) ++ sr.bits) rm
  | .pushRm rm => 0xFF :: encodeModRm 6 rm
  | .pushReg r => [opReg 0xA r]
  | .pushSreg sr => [(0 : BitVec 3) ++ sr.bits ++ (6 : BitVec 3)]
  | .pushImm16 imm => 0x68 :: encWord imm
  | .pushImm8 imm => [0x6A, imm]
  | .popRm rm => 0x8F :: encodeModRm 0 rm
  | .popReg r => [opReg 0xB r]
  | .popSreg sr => [(0 : BitVec 3) ++ sr.bits ++ (7 : BitVec 3)]
  | .pusha => [0x60]
  | .popa => [0x61]
  | .xchgRmReg w rm r => opW 0x43 w :: encodeModRm r.bits rm
  | .xchgAxReg r => [opReg 0x12 r]
  | .xlat => [0xD7]
  | .inAccPort w port => [opW 0x72 w, port]
  | .inAccDx w => [opW 0x76 w]
  | .outPortAcc w port => [opW 0x73 w, port]
  | .outDxAcc w => [opW 0x77 w]
  | .lea r rm => 0x8D :: encodeModRm r.bits rm
  | .lds r rm => 0xC5 :: encodeModRm r.bits rm
  | .les r rm => 0xC4 :: encodeModRm r.bits rm
  | .lahf => [0x9F]
  | .sahf => [0x9E]
  | .pushf => [0x9C]
  | .popf => [0x9D]
  | .addRmReg dir w rm r => encRR 0x00 dir w rm r
  | .addRmImm rm imm => encRS 0 rm imm
  | .addAccImm imm => opW 0x02 imm.width :: imm.bytes
  | .orRmReg dir w rm r => encRR 0x02 dir w rm r
  | .orRmImm rm imm => encRI 1 rm imm
  | .orAccImm imm => opW 0x06 imm.width :: imm.bytes
  | .adcRmReg dir w rm r => encRR 0x04 dir w rm r
  | .adcRmImm rm imm => encRS 2 rm imm
  | .adcAccImm imm => opW 0x0A imm.width :: imm.bytes
  | .sbbRmReg dir w rm r => encRR 0x06 dir w rm r
  | .sbbRmImm rm imm => encRS 3 rm imm
  | .sbbAccImm imm => opW 0x0E imm.width :: imm.bytes
  | .andRmReg dir w rm r => encRR 0x08 dir w rm r
  | .andRmImm rm imm => encRI 4 rm imm
  | .andAccImm imm => opW 0x12 imm.width :: imm.bytes
  | .subRmReg dir w rm r => encRR 0x0A dir w rm r
  | .subRmImm rm imm => encRS 5 rm imm
  | .subAccImm imm => opW 0x16 imm.width :: imm.bytes
  | .xorRmReg dir w rm r => encRR 0x0C dir w rm r
  | .xorRmImm rm imm => encRI 6 rm imm
  | .xorAccImm imm => opW 0x1A imm.width :: imm.bytes
  | .cmpRmReg dir w rm r => encRR 0x0E dir w rm r
  | .cmpRmImm rm imm => encRS 7 rm imm
  | .cmpAccImm imm => opW 0x1E imm.width :: imm.bytes
  | .incRm w rm => opW 0x7F w :: encodeModRm 0 rm
  | .incReg r => [opReg 0x8 r]
  | .decRm w rm => opW 0x7F w :: encodeModRm 1 rm
  | .decReg r => [opReg 0x9 r]
  | .aaa => [0x37]
  | .daa => [0x27]
  | .aas => [0x3F]
  | .das => [0x2F]
  | .negRm w rm => opW 0x7B w :: encodeModRm 3 rm
  | .mulRm w rm => opW 0x7B w :: encodeModRm 4 rm
  | .imulRm w rm => opW 0x7B w :: encodeModRm 5 rm
  | .divRm w rm => opW 0x7B w :: encodeModRm 6 rm
  | .idivRm w rm => opW 0x7B w :: encodeModRm 7 rm
  | .imulImm16 r rm imm => 0x69 :: (encodeModRm r.bits rm ++ encWord imm)
  | .imulImm8 r rm imm => 0x6B :: (encodeModRm r.bits rm ++ [imm])
  | .aam => [0xD4, 0x0A]
  | .aad => [0xD5, 0x0A]
  | .cbw => [0x98]
  | .cwd => [0x99]
  | .notRm w rm => opW 0x7B w :: encodeModRm 2 rm
  | .testRmReg w rm r => opW 0x42 w :: encodeModRm r.bits rm
  | .testRmImm rm imm => opW 0x7B imm.width :: (encodeModRm 0 rm ++ imm.bytes)
  | .testAccImm imm => opW 0x54 imm.width :: imm.bytes
  | .rolRm c w rm => encShift 0 c w rm
  | .rolRmImm w rm count => encShiftImm 0 w rm count
  | .rorRm c w rm => encShift 1 c w rm
  | .rorRmImm w rm count => encShiftImm 1 w rm count
  | .rclRm c w rm => encShift 2 c w rm
  | .rclRmImm w rm count => encShiftImm 2 w rm count
  | .rcrRm c w rm => encShift 3 c w rm
  | .rcrRmImm w rm count => encShiftImm 3 w rm count
  | .shlRm c w rm => encShift 4 c w rm
  | .shlRmImm w rm count => encShiftImm 4 w rm count
  | .shrRm c w rm => encShift 5 c w rm
  | .shrRmImm w rm count => encShiftImm 5 w rm count
  | .sarRm c w rm => encShift 7 c w rm
  | .sarRmImm w rm count => encShiftImm 7 w rm count
  | .repPrefix z => [if z then 0xF3 else 0xF2]
  | .movs w => [opW 0x52 w]
  | .cmps w => [opW 0x53 w]
  | .scas w => [opW 0x57 w]
  | .lods w => [opW 0x56 w]
  | .stos w => [opW 0x55 w]
  | .ins w => [opW 0x36 w]
  | .outs w => [opW 0x37 w]
  | .callNear disp => 0xE8 :: encWord disp
  | .callNearRm rm => 0xFF :: encodeModRm 2 rm
  | .callFar off seg => 0x9A :: (encWord off ++ encWord seg)
  | .callFarRm rm => 0xFF :: encodeModRm 3 rm
  | .retNear => [0xC3]
  | .retNearImm imm => 0xC2 :: encWord imm
  | .retFar => [0xCB]
  | .retFarImm imm => 0xCA :: encWord imm
  | .jmpNear disp => 0xE9 :: encWord disp
  | .jmpShort disp => [0xEB, disp]
  | .jmpNearRm rm => 0xFF :: encodeModRm 4 rm
  | .jmpFar off seg => 0xEA :: (encWord off ++ encWord seg)
  | .jmpFarRm rm => 0xFF :: encodeModRm 5 rm
  | .jo disp => [0x70, disp]
  | .jno disp => [0x71, disp]
  | .jb disp => [0x72, disp]
  | .jae disp => [0x73, disp]
  | .je disp => [0x74, disp]
  | .jne disp => [0x75, disp]
  | .jbe disp => [0x76, disp]
  | .ja disp => [0x77, disp]
  | .js disp => [0x78, disp]
  | .jns disp => [0x79, disp]
  | .jp disp => [0x7A, disp]
  | .jnp disp => [0x7B, disp]
  | .jl disp => [0x7C, disp]
  | .jge disp => [0x7D, disp]
  | .jle disp => [0x7E, disp]
  | .jg disp => [0x7F, disp]
  | .loop disp => [0xE2, disp]
  | .loope disp => [0xE1, disp]
  | .loopne disp => [0xE0, disp]
  | .jcxz disp => [0xE3, disp]
  | .intType t => [0xCD, t]
  | .int3 => [0xCC]
  | .into => [0xCE]
  | .iret => [0xCF]
  | .enter size level => 0xC8 :: (encWord size ++ [level])
  | .leave => [0xC9]
  | .bound r rm => 0x62 :: encodeModRm r.bits rm
  | .clc => [0xF8]
  | .cmc => [0xF5]
  | .stc => [0xF9]
  | .cld => [0xFC]
  | .std => [0xFD]
  | .cli => [0xFA]
  | .sti => [0xFB]
  | .hlt => [0xF4]
  | .wait => [0x9B]
  | .esc x rm => ((0x1B : BitVec 5) ++ x.extractLsb' 3 3) :: encodeModRm (x.extractLsb' 0 3) rm
  | .lockPrefix => [0xF0]
  | .nop => [0x90]
  | .segPrefix sr => [(1 : BitVec 3) ++ sr.bits ++ (6 : BitVec 3)]
  | .unused63 => [0x63]
  | .unused64 => [0x64]
  | .unused65 => [0x65]
  | .unused66 => [0x66]
  | .unused67 => [0x67]
  | .unusedF1 => [0xF1]
  | .unusedFE7 rm => 0xFE :: encodeModRm 7 rm
  | .unusedFF7 rm => 0xFF :: encodeModRm 7 rm
  | .faddM32 rm => encEscMem 0 0 rm
  | .faddM64 rm => encEscMem 4 0 rm
  | .faddStSti i => encEscSti 0 0 i
  | .fmulM32 rm => encEscMem 0 1 rm
  | .fmulM64 rm => encEscMem 4 1 rm
  | .fmulStSti i => encEscSti 0 1 i
  | .fcomM32 rm => encEscMem 0 2 rm
  | .fcomM64 rm => encEscMem 4 2 rm
  | .fcomSti i => encEscSti 0 2 i
  | .fcompM32 rm => encEscMem 0 3 rm
  | .fcompM64 rm => encEscMem 4 3 rm
  | .fcompSti i => encEscSti 0 3 i
  | .fsubM32 rm => encEscMem 0 4 rm
  | .fsubM64 rm => encEscMem 4 4 rm
  | .fsubStSti i => encEscSti 0 4 i
  | .fsubrM32 rm => encEscMem 0 5 rm
  | .fsubrM64 rm => encEscMem 4 5 rm
  | .fsubrStSti i => encEscSti 0 5 i
  | .fdivM32 rm => encEscMem 0 6 rm
  | .fdivM64 rm => encEscMem 4 6 rm
  | .fdivStSti i => encEscSti 0 6 i
  | .fdivrM32 rm => encEscMem 0 7 rm
  | .fdivrM64 rm => encEscMem 4 7 rm
  | .fdivrStSti i => encEscSti 0 7 i
  | .fiaddI32 rm => encEscMem 2 0 rm
  | .fiaddI16 rm => encEscMem 6 0 rm
  | .fimulI32 rm => encEscMem 2 1 rm
  | .fimulI16 rm => encEscMem 6 1 rm
  | .ficomI32 rm => encEscMem 2 2 rm
  | .ficomI16 rm => encEscMem 6 2 rm
  | .ficompI32 rm => encEscMem 2 3 rm
  | .ficompI16 rm => encEscMem 6 3 rm
  | .fisubI32 rm => encEscMem 2 4 rm
  | .fisubI16 rm => encEscMem 6 4 rm
  | .fisubrI32 rm => encEscMem 2 5 rm
  | .fisubrI16 rm => encEscMem 6 5 rm
  | .fidivI32 rm => encEscMem 2 6 rm
  | .fidivI16 rm => encEscMem 6 6 rm
  | .fidivrI32 rm => encEscMem 2 7 rm
  | .fidivrI16 rm => encEscMem 6 7 rm
  | .faddStiSt i => encEscSti 4 0 i
  | .fmulStiSt i => encEscSti 4 1 i
  | .fsubrStiSt i => encEscSti 4 4 i
  | .fsubStiSt i => encEscSti 4 5 i
  | .fdivrStiSt i => encEscSti 4 6 i
  | .fdivStiSt i => encEscSti 4 7 i
  | .faddpStiSt i => encEscSti 6 0 i
  | .fmulpStiSt i => encEscSti 6 1 i
  | .fsubrpStiSt i => encEscSti 6 4 i
  | .fsubpStiSt i => encEscSti 6 5 i
  | .fdivrpStiSt i => encEscSti 6 6 i
  | .fdivpStiSt i => encEscSti 6 7 i
  | .fcompp => encEscSti 6 3 1
  | .fldM32 rm => encEscMem 1 0 rm
  | .fstM32 rm => encEscMem 1 2 rm
  | .fstpM32 rm => encEscMem 1 3 rm
  | .fldenv rm => encEscMem 1 4 rm
  | .fldcw rm => encEscMem 1 5 rm
  | .fstenv rm => encEscMem 1 6 rm
  | .fstcw rm => encEscMem 1 7 rm
  | .fildI32 rm => encEscMem 3 0 rm
  | .fistI32 rm => encEscMem 3 2 rm
  | .fistpI32 rm => encEscMem 3 3 rm
  | .fldM80 rm => encEscMem 3 5 rm
  | .fstpM80 rm => encEscMem 3 7 rm
  | .fldM64 rm => encEscMem 5 0 rm
  | .fstM64 rm => encEscMem 5 2 rm
  | .fstpM64 rm => encEscMem 5 3 rm
  | .frstor rm => encEscMem 5 4 rm
  | .fsave rm => encEscMem 5 6 rm
  | .fstsw rm => encEscMem 5 7 rm
  | .fildI16 rm => encEscMem 7 0 rm
  | .fistI16 rm => encEscMem 7 2 rm
  | .fistpI16 rm => encEscMem 7 3 rm
  | .fbld rm => encEscMem 7 4 rm
  | .fildI64 rm => encEscMem 7 5 rm
  | .fbstp rm => encEscMem 7 6 rm
  | .fistpI64 rm => encEscMem 7 7 rm
  | .fldSti i => encEscSti 1 0 i
  | .fxchSti i => encEscSti 1 1 i
  | .fnop => encEscSti 1 2 0
  | .fchs => encEscSti 1 4 0
  | .fabs => encEscSti 1 4 1
  | .ftst => encEscSti 1 4 4
  | .fxam => encEscSti 1 4 5
  | .fld1 => encEscSti 1 5 0
  | .fldl2t => encEscSti 1 5 1
  | .fldl2e => encEscSti 1 5 2
  | .fldpi => encEscSti 1 5 3
  | .fldlg2 => encEscSti 1 5 4
  | .fldln2 => encEscSti 1 5 5
  | .fldz => encEscSti 1 5 6
  | .f2xm1 => encEscSti 1 6 0
  | .fyl2x => encEscSti 1 6 1
  | .fptan => encEscSti 1 6 2
  | .fpatan => encEscSti 1 6 3
  | .fxtract => encEscSti 1 6 4
  | .fdecstp => encEscSti 1 6 6
  | .fincstp => encEscSti 1 6 7
  | .fprem => encEscSti 1 7 0
  | .fyl2xp1 => encEscSti 1 7 1
  | .fsqrt => encEscSti 1 7 2
  | .frndint => encEscSti 1 7 4
  | .fscale => encEscSti 1 7 5
  | .feni => encEscSti 3 4 0
  | .fdisi => encEscSti 3 4 1
  | .fclex => encEscSti 3 4 2
  | .finit => encEscSti 3 4 3
  | .ffreeSti i => encEscSti 5 0 i
  | .fstSti i => encEscSti 5 2 i
  | .fstpSti i => encEscSti 5 3 i
  | .fwait => [0x9B]

/-- The item that an encoding stands for: FWAIT is the byte of WAIT (R423), XCHG AX,AX the byte of NOP (R70). DEDUCED (log 61). -/
def canonical : Instr → Instr
  | .fwait => .wait
  | .xchgAxReg .ax => .nop
  | i => i

end Sys2Proof
end

