-- ==== Sys2Proof/Config.lean ====
section
/-! DEFINITION. The implementation and platform parameters of spec/00_scope.md rules R7 and R9, as plain data held in the
state (`Config`), and the free values: constants without a body, one for each kind of value the spec leaves open. -/

namespace Sys2Proof

/-- The CPU part (R7). -/
inductive CpuKind where
  | i8086 | i8088 | i80186 | i80188
deriving DecidableEq, Repr

/-- `is186` of R7. -/
def CpuKind.is186 : CpuKind → Bool
  | .i8086 => false
  | .i8088 => false
  | .i80186 => true
  | .i80188 => true

/-- A 16-bit data bus: the 8086 and the 80186 (20_memory.md R32). -/
def CpuKind.wide : CpuKind → Bool
  | .i8086 => true
  | .i8088 => false
  | .i80186 => true
  | .i80188 => false

/-- What a range of the memory space holds when it is not plain RAM (20_memory.md R45, R49; D7). -/
inductive RegionKind where
  | rom     -- reads its bytes, ignores writes
  | absent  -- nothing answers: a read gives any value, a write has no effect
  | device  -- a memory-mapped device: a read gives any value, a write is an event
deriving DecidableEq, Repr

/-- One range of the memory map, `base ≤ a < base + size`. -/
structure Region where
  base : Nat
  size : Nat
  kind : RegionKind
deriving DecidableEq, Repr

/-- How an 8089 is wired (49_iop_8089.md R450): local (shares the CPU's buses) or remote (a private I/O bus, whose ranges that are
not plain memory are `regions`, R464), and where the CPU raises its channel attentions (R456): `caMemory` says in which space,
`caBase` the lower of the two addresses. -/
structure IopWiring where
  remote   : Bool
  regions  : List Region
  caMemory : Bool
  caBase   : Nat
deriving DecidableEq, Repr

/-- The parameters of one machine. They never change while it runs. -/
structure Config where
  /-- the CPU part, R7 -/
  cpu        : CpuKind
  /-- an 8087 is attached, R9 -/
  hasNpx     : Bool
  /-- an 8089 is attached, R9 -/
  hasIop     : Bool
  /-- an 80130 is attached, R9 (changes no CPU behaviour, D43) -/
  hasOsf     : Bool
  /-- the MN/MX strap of the 8086,88, R9: true = maximum mode -/
  maxMode    : Bool
  /-- the ranges that are not plain RAM, R45; the first that contains an address decides -/
  regions    : List Region
  /-- true: a numeric 8087 instruction is left running at its ESC and completed later (47_npx_8087_state.md R315) -/
  npxOverlap : Bool
  /-- the 8089's wiring -/
  iop        : IopWiring
deriving DecidableEq, Repr

def Config.is186 (c : Config) : Bool := c.cpu.is186
def Config.wide (c : Config) : Bool := c.cpu.wide

/-! ## Free values (DESIGN CHOICE, log 5)

Each is a function without a body, of the draw number `State.fresh` (a new value for each use) or of the operands it depends
on: nothing can be proved of its value. -/

/-- Five undefined status flags drawn at once: carry, parity, auxiliary, zero, sign, overflow bits in that order (U9, U15). -/
opaque Config.freeFlags : Nat → BitVec 6
/-- The seven undefined bits of a flag image, as a word of which only those bits are used (`flag_image_fill`, D1). -/
opaque Config.freeFill : Nat → Word
/-- A byte that nothing fixes: absent memory, a port that presents nothing, a device (D7, R47, U17). -/
opaque Config.freeByte : Nat → Byte
/-- A word that nothing fixes: an undefined register or an unlisted control block word (U10, U17). -/
opaque Config.freeWord : Nat → Word
/-- A bit that nothing fixes. -/
opaque Config.freeBit : Nat → Bool
/-- An instruction byte fetched from an address that is not plain memory (D7), by draw number and address. -/
opaque Config.freeFetch : Nat → Nat → Byte
/-- An 80-bit temporary real that nothing fixes (U28, U35, U36). -/
opaque Config.freeReal : Nat → TempReal
/-- The result of a transcendental 8087 instruction (`npx_fn`, U33): by a number naming the function and its operands. -/
opaque Config.npxFn : Nat → TempReal → TempReal → TempReal
/-- Whether FBSTP rounds a non-integer magnitude up (`fbstp_round`, D35), by the operand. -/
opaque Config.fbstpRoundUp : TempReal → Bool
/-- The number of leading zeros wanted in an unnormal result (U30), by the two operands. -/
opaque Config.unnormalShift : TempReal → TempReal → Nat
/-- Is mid-range chip-select line `k` active at an address, when MPCS has no or several of M6 to M0 set (61_186_peripherals.md R537):
by MPCS, MMCS, line and address. -/
opaque Config.midSelect : BitVec 16 → BitVec 16 → Nat → Nat → Bool
/-- Is the upper-memory chip-select line active at an address, when UMCS holds no legal value (61_186_peripherals.md R535, undefined
operation): by the register and the address. -/
opaque Config.upperSelect : BitVec 16 → Nat → Bool
/-- Is the lower-memory chip-select line active at an address, when LMCS holds no legal value (61_186_peripherals.md R536, undefined
operation): by the register and the address. -/
opaque Config.lowerSelect : BitVec 16 → Nat → Bool
/-- Does a DMA channel with SYN = 11 run unsynchronized (true) or on requests (61_186_peripherals.md R546): by its control word. -/
opaque Config.dmaUnusedSyn : BitVec 16 → Bool
/-- Which of two NaNs equal in magnitude is taken (U31): true = the first. -/
opaque Config.nanPick : TempReal → TempReal → Bool

end Sys2Proof
end

