-- ==== Sys2Proof/Machine/State.lean ====
section
/-! DEFINITION. The state of the machine, as plain data: every piece of state spec/ names (INVENTORY.md, '## State'), the
outcomes' reasons, the moves of the environment and the other agents, and the state after reset. -/

namespace Sys2Proof.Machine

/-! ## Why a step stops -/

/-- A fault of the SCHEDULE, not of the machine: the machine of spec/ has no memory fault and no stopping fault
(60_exceptions.md R274). -/
inductive Fault where
  /-- raised by a move that names an agent the configuration does not have (an 8089 or an integrated peripheral); safe -/
  | noSuchAgent
deriving DecidableEq, Repr

/-- A case that spec/93_implementation_defined.md treats with "refuse": the spec gives it no effect. All are safe. -/
inductive Refusal where
  /-- an arm of `exec` without a meaning; raised by Dispatch only; safe -/
  | notModelled (mnemonic : String)
  /-- the bytes at CS:IP are no instruction (U1 to U7, U14); raised by the fetch; safe -/
  | undefinedEncoding (e : DecodeError)
  /-- an 80186,188 instruction on an 8086 or 8088 (U8, D11); safe -/
  | opcodeOf80186
  /-- 63H to 67H, F1H, FE /7, FF /7 on an 8086 or 8088 (U7, D11); safe -/
  | unusedOpcode
  /-- a repeat latch in front of an instruction that is no string instruction (U12); raised by the cycle; safe -/
  | repeatBeforeNonString
  /-- an ESC other than a no-wait control form reached the 8087 while it was busy, or FNCLEX while it was executing (U22, D25);
  safe -/
  | npxBusy
  /-- an ESC the 8087 table does not define reached an 8087 (U37); safe -/
  | npxUndefinedEscape
  /-- the relocation register was written with M/IO = 0 and bits 11 to 8 not 0 (U18); safe -/
  | relocationReservedBits
  /-- RMX was changed while a request or in-service bit was set (U20); safe -/
  | interruptModeChange
  /-- 8089: the instruction after XFER altered GA, GB or CC (U40); safe -/
  | iopAfterXfer
  /-- 8089: MOVP or CALL saved to an odd address (U41); safe -/
  | iopOddSave
  /-- 8089: a program modified its next instruction at an odd address on a 16-bit bus (U42); safe -/
  | iopSelfModify
  /-- 8089: CC.SYN = 11 at a transfer (U43); safe -/
  | iopSyncReserved
  /-- 8089: WID set a logical width above the physical width (U44); safe -/
  | iopWidth
  /-- 8089: a translate transfer with a 16-bit logical width (U46); safe -/
  | iopTranslateWord
  /-- 8089: CC written by an instruction other than MOV or MOVI (U47); safe -/
  | iopChannelControl
  /-- 8089: bytes that are not in the 8089 opcode table (U51); safe -/
  | iopUndefinedOpcode
deriving DecidableEq, Repr

/-! ## CPU -/

/-- The general registers (10_state.md R14). -/
structure Regs where
  ax : Word
  cx : Word
  dx : Word
  bx : Word
  sp : Word
  bp : Word
  si : Word
  di : Word
deriving DecidableEq, Repr

/-- The segment registers (R16). -/
structure Segs where
  es : Word
  cs : Word
  ss : Word
  ds : Word
deriving DecidableEq, Repr

/-- The nine defined flags (R18); the seven undefined bits are no state (R19, D1). -/
structure Flags where
  cf : Bool
  pf : Bool
  af : Bool
  zf : Bool
  sf : Bool
  tf : Bool
  ie : Bool
  df : Bool
  of : Bool
deriving DecidableEq, Repr

/-- The latches the prefix bytes of one instruction set (30_encoding.md R56): segment override, LOCK, repeat with its z bit. -/
structure Latches where
  seg  : Option SReg
  lock : Bool
  rep  : Option Bool
deriving DecidableEq, Repr

/-- Where the CPU stands between two items (60_exceptions.md R259). -/
inductive Phase where
  | fresh      -- at an instruction's first byte
  | prefixed   -- after one or more prefix bytes
  | repeating  -- between two repetitions of a string instruction
  | waiting    -- between two test cycles of a WAIT
  | halted     -- after HLT
deriving DecidableEq, Repr

/-- The hidden state of R28: latches, prefix state, and the offsets of the first byte, of the last segment override byte and of
the opcode byte of the instruction in progress (R254). The last three fields are the model's own: the opcode byte as it was
decoded (20_memory.md R44, D6), and whether `int_inhibit` and `intr_delay` held the last boundary, for the first test inside the
instruction that follows it (R259). -/
structure Control where
  nmiPending : Bool
  intInhibit : Bool
  intrDelay  : Bool
  tfSampled  : Bool
  phase      : Phase
  latches    : Latches
  firstIp    : Word
  segIp      : Word
  opIp       : Word
  opByte     : Byte
  heldAll    : Bool
  heldIntr   : Bool
deriving DecidableEq, Repr

/-- The platform's inputs to the CPU (R9): TEST (active or not), the INTR level and the type bytes the external controllers
return on their acknowledge lines (60_exceptions.md R262, 61_186_peripherals.md R588). -/
structure Pins where
  test      : Bool
  intr      : Bool
  intrType  : Byte
  inta0Type : Byte
  inta1Type : Byte
deriving DecidableEq, Repr

/-- Memory: the bytes that differ from 00H, by strictly rising address (20_memory.md R30; log 3). -/
abbrev Memory := List Host.Cell

/-- What the platform sees of the buses (20_memory.md R47, R49; the remote ones: of the 8089's private I/O bus, 49_iop_8089.md
R464). -/
inductive BusEvent where
  | portRead (port : Nat) (v : Byte)
  | portWrite (port : Nat) (v : Byte)
  | deviceRead (addr : Nat) (v : Byte)
  | deviceWrite (addr : Nat) (v : Byte)
  | remoteRead (addr : Nat) (v : Byte)
  | remoteWrite (addr : Nat) (v : Byte)
  | intAck (line : Nat)
deriving DecidableEq, Repr

/-- The I/O space (R46, R47): the byte each port presents (none listed: any value), and the events so far, the latest first. -/
structure IoSpace where
  inputs : List Host.Cell
  trace  : List BusEvent
deriving DecidableEq, Repr

/-! ## Integrated peripherals of the 80186,188 (61_186_peripherals.md) -/

/-- One DMA channel (R545 to R549): pointers, count, control word (bit 2 always 0), the DRQ pin, the latched request of timer 2. -/
structure DmaChan where
  src    : Phys
  dst    : Phys
  count  : Word
  ctl    : Word
  drq    : Bool
  tmrReq : Bool
deriving DecidableEq, Repr

/-- One timer (R561 to R564): count, max counts, mode word (bit 14 always 0), the input pin, "started by a retrigger", "the output
is LOW for the clock after the maximum count" (R563). -/
structure Timer where
  count   : Word
  maxA    : Word
  maxB    : Word
  mode    : Word
  pin     : Bool
  started : Bool
  pulse   : Bool
deriving DecidableEq, Repr

/-- The interrupt controller (R575 to R595). The control registers stand by their place in the block (32H, 34H, ...): in iRMX 86
mode `int0` serves timer 1 and `int1` timer 2 (R592). Pins, edge latches and timer requests by number. -/
structure Ic where
  timer : Word
  dma0  : Word
  dma1  : Word
  int0  : Word
  int1  : Word
  int2  : Word
  int3  : Word
  prm   : BitVec 3
  isr   : Byte
  reqDma : BitVec 2
  irt    : BitVec 3
  edge   : BitVec 4
  pin    : BitVec 4
  dhlt   : Bool
  vector : BitVec 5
deriving DecidableEq, Repr

/-- The chip-select registers and their "accessed" latches (R534 to R540). -/
structure ChipSelects where
  umcs : Word
  lmcs : Word
  mmcs : Word
  pacs : Word
  mpcs : Word
  lmcsUsed : Bool
  mmcsUsed : Bool
  pacsUsed : Bool
  mpcsUsed : Bool
deriving DecidableEq, Repr

/-- The peripheral control block (R533); `dmaLast`: which DMA channel made the last transfer, for taking turns (R546, P). -/
structure Pcb where
  reloc : Word
  cs    : ChipSelects
  dma0  : DmaChan
  dma1  : DmaChan
  dmaLast : Bool
  tmr0  : Timer
  tmr1  : Timer
  tmr2  : Timer
  ic    : Ic
deriving DecidableEq, Repr

/-! ## 8087 (47_npx_8087_state.md) -/

/-- A memory operand format of the 8087 (R326). -/
inductive NpxFmt where
  | real32 | real64 | real80 | int16 | int32 | int64 | bcd
deriving DecidableEq, Repr

/-- The six arithmetic operations (48_npx_8087_instructions.md R360). -/
inductive NpxArith where
  | add | sub | subr | mul | div | divr
deriving DecidableEq, Repr

/-- The seven constants (48_npx_8087_instructions.md R399). -/
inductive NpxConst where
  | zero | one | pi | l2t | l2e | lg2 | ln2
deriving DecidableEq, Repr

/-- What the 8087 is asked to do (48_npx_8087_instructions.md), decoded. -/
inductive NpxOp where
  | load (f : NpxFmt)
  | loadSt (i : BitVec 3)
  | store (f : NpxFmt) (pop : Bool)
  | storeSt (i : BitVec 3) (pop : Bool)
  | exchange (i : BitVec 3)
  | arithMem (op : NpxArith) (f : NpxFmt)
  | arithSt (op : NpxArith) (i : BitVec 3)
  | arithSti (op : NpxArith) (i : BitVec 3) (pop : Bool)
  | compareMem (f : NpxFmt) (pop : Bool)
  | compareSt (i : BitVec 3) (pops : Nat)
  | test
  | examine
  | const (c : NpxConst)
  | sqrt
  | scale
  | prem
  | rndint
  | xtract
  | abs
  | chs
  | ptan
  | patan
  | f2xm1
  | yl2x
  | yl2xp1
  | init
  | disi
  | eni
  | ldcw
  | stcw
  | stsw
  | clex
  | save
  | rstor
  | stenv
  | ldenv
  | incstp
  | decstp
  | free (i : BitVec 3)
  | nop
deriving DecidableEq, Repr

/-- What an ESC hands to the 8087 (R311): the operation, the 11 opcode bits, the address of the ESC opcode byte, the operand
address if it has one, the operand bytes captured for a load (low-order byte first, as a number; the first word is the CPU's
dummy read), and whether another agent has touched the operand since (U21). -/
structure NpxJob where
  op     : NpxOp
  opcode : BitVec 11
  ip     : Phys
  addr   : Option Phys
  data   : TempReal
  raced  : Bool
deriving DecidableEq, Repr

/-- The 8087 (R314): register stack, SW, CW, TW, exception pointers, the running and the queued job. -/
structure Npx where
  r       : Vector TempReal 8
  sw      : Word
  cw      : Word
  tw      : Word
  xip     : Phys
  xop     : Phys
  xopc    : BitVec 11
  running : Option NpxJob
  queued  : Option NpxJob
deriving DecidableEq, Repr

/-! ## 8089 (49_iop_8089.md) -/

/-- A tagged pointer register (R458, R459): tag true = I/O space. -/
structure IopPtr where
  addr : Phys
  tag  : Bool
deriving DecidableEq, Repr

/-- What a channel is doing (R450, R509): nothing, its program, its program with XFER just executed, a transfer. -/
inductive IopActivity where
  | idle
  | program
  | armed
  | transfer
deriving DecidableEq, Repr

/-- How the bytes of a transfer cycle are fetched and stored (R516, Table 7-8). -/
inductive IopCycle where
  | byteByte    -- B→B
  | bytesWord   -- B/B→W
  | wordBytes   -- W→B/B
  | wordWord    -- W→W
deriving DecidableEq, Repr

/-- What a transfer cycle under way does next (R515): the second of two fetches, a store, or, a store being made, the tests for
termination. -/
inductive IopStage where
  | fetch
  | store
  | check
deriving DecidableEq, Repr

/-- A transfer cycle under way (R515): the bytes fetched, the first to store being the low one, and how many of them; the kind of the
cycle; whether EXT was recognized after one of its bus cycles; its next part. -/
structure IopHold where
  value : Word
  count : Nat
  kind  : IopCycle
  ext   : Bool
  stage : IopStage
deriving DecidableEq, Repr

/-- One channel (R458, R461); `hold`: the transfer cycle under way; `locked`: a transfer holds LOCK (R521). -/
structure IopChan where
  ga  : IopPtr
  gb  : IopPtr
  gc  : IopPtr
  tp  : IopPtr
  pp  : Phys
  ix  : Word
  bc  : Word
  mc  : Word
  cc  : Word
  psw : Byte
  ca  : Bool
  activity : IopActivity
  hold : Option IopHold
  locked : Bool
  drq  : Bool
  ext  : Bool
deriving DecidableEq, Repr

/-- The 8089: initialization results (R452), the channel whose attention was the first since RESET while that one still waits
(R451), the two channels, which channel ran last (R463), and its private I/O space in the remote configuration (R464): the bytes of
its memory, and the byte each device address there presents. -/
structure Iop where
  initialized : Bool
  cb       : Phys
  sysWord  : Bool
  ioWord   : Bool
  rqMode   : Bool
  master   : Bool
  initCa   : Option Bool
  lastTwo  : Bool
  ch1      : IopChan
  ch2      : IopChan
  remoteIo : Memory
  remoteIn : List Host.Cell
deriving DecidableEq, Repr

/-! ## The schedule -/

/-- A bus access of a master that is no part of the model: a byte of memory, at an address modulo 2^20, or a port, modulo 2^16
(70_reset_and_hazards.md R307). -/
inductive BusAccess where
  | read (addr : Nat)
  | write (addr : Nat) (v : Byte)
  | portRead (port : Nat)
  | portWrite (port : Nat) (v : Byte)
deriving DecidableEq, Repr

/-- One turn of another master on the bus, between two bus cycles of the CPU, a DMA channel or the 8089 (R307, 20_memory.md R41): how it asks for the bus, `hold` true
by HOLD or RQ/GT, false by an arbiter between the buses of two processors; and its accesses, none or some (log 7). -/
structure BusTurn where
  hold     : Bool
  accesses : List BusAccess
deriving DecidableEq, Repr

/-- An agent that makes bus cycles: the CPU, an integrated DMA channel, a channel of the 8089, the 8087. -/
inductive BusAgent where
  | cpu
  | dma (ch : Bool)
  | iop (ch : Bool)
  | npx
deriving DecidableEq, Repr

/-- What the platform or another agent does before the next step of the CPU (70_reset_and_hazards.md R307; log 7). Channel and
pin numbers: false = 0 (or channel 1 of the 8089), true = 1 (or channel 2). -/
inductive Move where
  /-- one step of the CPU -/
  | cpu
  /-- RESET (R290, R291) -/
  | reset
  /-- RESET in the middle of what an agent is doing: its step is abandoned with some of its memory effects made (R290) -/
  | resetDuring (a : BusAgent)
  /-- an NMI edge (60_exceptions.md R257) -/
  | nmi
  /-- the INTR level and the type its controller would return (R256) -/
  | intr (level : Bool) (type : Byte)
  /-- the type the 8259A on INTA0 (false) or INTA1 (true) would return (61_186_peripherals.md R588) -/
  | cascadeType (line : Bool) (type : Byte)
  /-- the TEST level, true = active (46_processor_control.md R238) -/
  | test (level : Bool)
  /-- another bus master reads or writes a byte of memory or a port, between two steps (R307; 20_memory.md R42) -/
  | busAccess (c : BusAccess)
  /-- from now on other bus masters ask for the bus between bus cycles of a step: a turn before each of the next (R307) -/
  | busTurns (turns : List BusTurn)
  /-- a device presents a byte at a port (R47) -/
  | portInput (port : Nat) (v : Byte)
  /-- a device on the 8089's private I/O bus presents a byte (49_iop_8089.md R464) -/
  | remoteInput (port : Nat) (v : Byte)
  /-- the level of DRQ0 or DRQ1 (61_186_peripherals.md R549) -/
  | drq (ch : Bool) (level : Bool)
  /-- the level of the input pin of timer 0 or 1 (R561) -/
  | timerPin (t : Bool) (level : Bool)
  /-- every fourth CPU clock (R561) -/
  | clock
  /-- the level of INT0 to INT3 (R578) -/
  | intPin (k : BitVec 2) (level : Bool)
  /-- one transfer of an integrated DMA channel (R550) -/
  | dma (ch : Bool)
  /-- a channel attention raised by other hardware (49_iop_8089.md R456) -/
  | ca (ch : Bool)
  /-- one instruction, transfer cycle or attention sequence of an 8089 channel (R463) -/
  | iop (ch : Bool)
  /-- the level of DRQ1 or DRQ2 of the 8089 (R518) -/
  | iopDrq (ch : Bool) (level : Bool)
  /-- the level of EXT1 or EXT2 (R518) -/
  | iopExt (ch : Bool) (level : Bool)
  /-- the 8087 completes its running job (47_npx_8087_state.md R315) -/
  | npx
deriving DecidableEq, Repr

/-! ## The machine -/

/-- The whole machine. `fresh` numbers the draws of free values, `stop` holds a refusal raised inside a bus access (the step
answers with it), `moves` is the schedule, `turns` the turns of other masters that wait for the next bus cycles: these four are the
model's own. -/
structure State where
  cfg   : Config
  regs  : Regs
  segs  : Segs
  ip    : Word
  flags : Flags
  ctl   : Control
  pins  : Pins
  mem   : Memory
  io    : IoSpace
  pcb   : Pcb
  npx   : Npx
  iop   : Iop
  fresh : Nat
  stop  : Option Refusal
  moves : List Move
  turns : List BusTurn
deriving DecidableEq, Repr

/-! ## Reset -/

/-- DESIGN CHOICE (log 1): an 80186 with an 8087 and an 8089, all memory RAM, so that every row of the table runs. -/
def defaultConfig : Config where
  cpu := .i80186
  hasNpx := true
  hasIop := true
  hasOsf := false
  maxMode := true
  regions := []
  npxOverlap := false
  iop := { remote := false, regions := [], caMemory := false, caBase := 0xFFE0 }

def Flags.clear : Flags := ⟨false, false, false, false, false, false, false, false, false⟩

def Latches.none : Latches := ⟨.none, false, .none⟩

/-- DESIGN CHOICE 0 (log 2): R29 gives no value. -/
def Regs.reset : Regs := ⟨0, 0, 0, 0, 0, 0, 0, 0⟩

/-- R29. -/
def Segs.reset : Segs := { es := 0, cs := 0xFFFF, ss := 0, ds := 0 }

/-- R29, D2: the latches. DESIGN CHOICE (log 67): what the rules do not list, TF as it was sampled and the offsets and bytes of the
instruction in progress, is clear; an instruction's first item writes each before anything reads it. -/
def Control.reset : Control where
  nmiPending := false
  intInhibit := false
  intrDelay := false
  tfSampled := false
  phase := .fresh
  latches := .none
  firstIp := 0
  segIp := 0
  opIp := 0
  opByte := 0
  heldAll := false
  heldIntr := false

/-- DESIGN CHOICE (log 7): every input level inactive, and 0 for the type byte each acknowledge line would return before a move sets
it. R9 and R26 leave both to the platform. -/
def Pins.idle : Pins := ⟨false, false, 0, 0, 0⟩

/-- R291: ST/STOP = 0; the rest DESIGN CHOICE 0 (log 29). -/
def DmaChan.reset : DmaChan := ⟨0, 0, 0, 0, false, false⟩

/-- DESIGN CHOICE 0 (log 29, U19). -/
def Timer.reset : Timer := ⟨0, 0, 0, 0, false, false, false⟩

/-- R595. -/
def Ic.reset : Ic where
  timer := 0x000F
  dma0 := 0x000F
  dma1 := 0x000F
  int0 := 0x000F
  int1 := 0x000F
  int2 := 0x000F
  int3 := 0x000F
  prm := 7
  isr := 0
  reqDma := 0
  irt := 0
  edge := 0
  pin := 0
  dhlt := false
  vector := 0

/-- R540: UMCS = FFFBH; the other four DESIGN CHOICE 0 under their fixed bits (log 29). -/
def ChipSelects.reset : ChipSelects := ⟨0xFFFB, 0x0038, 0x01F8, 0x0038, 0x8038, false, false, false, false⟩

/-- R291, R532: the relocation register 20FFH. DESIGN CHOICE (log 34): with `dmaLast` = false channel 0 counts as the one that went
last, so that at equal priority channel 1 goes first; R546 and R551 say only that the channels alternate. -/
def Pcb.reset : Pcb where
  reloc := 0x20FF
  cs := .reset
  dma0 := .reset
  dma1 := .reset
  dmaLast := false
  tmr0 := .reset
  tmr1 := .reset
  tmr2 := .reset
  ic := .reset

/-- R317, D26; the data registers and pointers DESIGN CHOICE 0 (log 36). -/
def Npx.reset : Npx where
  r := Vector.replicate 8 0
  sw := 0
  cw := 0x03FF
  tw := 0xFFFF
  xip := 0
  xop := 0
  xopc := 0
  running := none
  queued := none

/-- R451, D41; the registers DESIGN CHOICE 0 (log 52). -/
def IopChan.reset : IopChan where
  ga := ⟨0, false⟩
  gb := ⟨0, false⟩
  gc := ⟨0, false⟩
  tp := ⟨0, false⟩
  pp := 0
  ix := 0
  bc := 0
  mc := 0
  cc := 0
  psw := 0
  ca := false
  activity := .idle
  hold := none
  locked := false
  drq := false
  ext := false

/-- R451, D41. DESIGN CHOICE (log 54): with `lastTwo` = false channel 1 counts as the one that ran last, so that at equal priority
and equal P bits channel 2 goes first; R463 says only that the channels alternate. -/
def Iop.reset : Iop where
  initialized := false
  cb := 0
  sysWord := false
  ioWord := false
  rqMode := false
  master := false
  initCa := none
  lastTwo := false
  ch1 := .reset
  ch2 := .reset
  remoteIo := []
  remoteIn := []

/-- The machine right after RESET (R29, R290, R291, R317, R451, R595): every value spec/ gives; the others as the log names. -/
def State.reset : State where
  cfg := defaultConfig
  regs := .reset
  segs := .reset
  ip := 0
  flags := .clear
  ctl := .reset
  pins := .idle
  mem := []
  io := ⟨[], []⟩
  pcb := .reset
  npx := .reset
  iop := .reset
  fresh := 0
  stop := none
  moves := []
  turns := []

end Sys2Proof.Machine
end

