-- ==== Sys2Proof/Machine/NpxNum.lean ====
section
/-! DEFINITION. Numbers of the 8087: the temporary real format and its classes (47_npx_8087_state.md R323, R330), exact values,
rounding (R332), conversions from the memory formats (R331), and the footprint of an operation in memory (R312). -/

namespace Sys2Proof.Machine

/-! ## The temporary real format, R330 -/

/-- The sign bit. -/
def realNeg (v : TempReal) : Bool := v.getLsbD 79
/-- The biased exponent field. -/
def realField (v : TempReal) : Nat := v.toNat / 2 ^ 64 % 2 ^ 15
/-- The 64-bit significand. -/
def realSig (v : TempReal) : Nat := v.toNat % 2 ^ 64
/-- The 80 bits with a sign, an exponent field and a significand. -/
def packReal (neg : Bool) (field sig : Nat) : TempReal :=
  BitVec.ofNat 80 (neg.toNat * 2 ^ 79 + field * 2 ^ 64 + sig)
/-- The 79 bits below the sign (R344). -/
def realMag (v : TempReal) : Nat := v.toNat % 2 ^ 79

/-- The classes of R330, an unnormal with significand 0 being a pseudo-zero (R341). -/
inductive NpxClass where
  | nan | infinity | normal | unnormal | denormal | zero
deriving DecidableEq, Repr

/-- The class of 80 bits: exponent 7FFFH is a NaN unless it is infinity (C53); exponent 0 with integer bit 1 is of the denormal
class (U29, log 46). -/
def realClass (v : TempReal) : NpxClass :=
  if realField v = 0x7FFF then (if realSig v = 2 ^ 63 then .infinity else .nan)
  else if realField v = 0 then (if realSig v = 0 then .zero else .denormal)
  else if realSig v < 2 ^ 63 then .unnormal else .normal

/-- `tag_of` (R323): 00 valid, 01 zero, 10 special. -/
def tagOf (v : TempReal) : BitVec 2 :=
  match realClass v with
  | .zero => 1
  | .denormal => 2
  | .infinity => 2
  | .nan => 2
  | .normal => 0
  | .unnormal => 0

/-- Signed infinity. -/
def npxInf (neg : Bool) : TempReal := packReal neg 0x7FFF (2 ^ 63)
/-- Signed zero. -/
def npxZero (neg : Bool) : TempReal := packReal neg 0 0
/-- Real indefinite (R344). -/
def npxIndef : TempReal := packReal true 0x7FFF (3 * 2 ^ 62)

/-! ## Exact values -/

/-- The number (−1)^neg × mant × 2^exp. -/
structure Exact where
  neg  : Bool
  mant : Nat
  exp  : Int
deriving DecidableEq, Repr

/-- `exponent(v)`: the e with 2^e ≤ |v| < 2^(e+1), for a nonzero number (R335). -/
def Exact.exponent (x : Exact) : Int := x.exp + x.mant.log2

/-- The value of a finite temporary real; a field of 0 has the true exponent −16382 (R330, C52). -/
def realValue (v : TempReal) : Exact := ⟨realNeg v, realSig v, (max (realField v) 1 : Nat) - 16383 - 63⟩

/-- Compare magnitudes. -/
def Exact.absCompare (x y : Exact) : Ordering :=
  if x.exp ≤ y.exp then compare x.mant (y.mant <<< (y.exp - x.exp).toNat)
  else compare (x.mant <<< (x.exp - y.exp).toNat) y.mant

/-- The sign and magnitude of a signed sum of magnitudes. -/
def Exact.ofInt (i : Int) (e : Int) : Exact := ⟨i < 0, i.natAbs, e⟩

/-- The signed mantissa. -/
def Exact.signed (x : Exact) : Int := if x.neg then -(x.mant : Int) else x.mant

/-- The exact sum. -/
def Exact.add (x y : Exact) : Exact :=
  if x.exp ≤ y.exp then .ofInt (x.signed + y.signed * 2 ^ (y.exp - x.exp).toNat) x.exp
  else .ofInt (x.signed * 2 ^ (x.exp - y.exp).toNat + y.signed) y.exp

/-- The exact product. -/
def Exact.mul (x y : Exact) : Exact := ⟨x.neg != y.neg, x.mant * y.mant, x.exp + y.exp⟩

/-- The quotient to more than 66 bits, its lowest bit saying that more bits follow: it rounds as the exact quotient does. -/
def Exact.div (x y : Exact) : Exact :=
  let q := (x.mant <<< 130) / y.mant
  let more := if (x.mant <<< 130) % y.mant = 0 then 0 else 1
  ⟨x.neg != y.neg, 2 * q + more, x.exp - y.exp - 131⟩

/-- The largest number of at most `i` bits over `r` whose square is at most `n`. -/
def isqrtBits (n : Nat) : (i r : Nat) → Nat
  | 0, r => r
  | i + 1, r => isqrtBits n i (if (r + 2 ^ i) * (r + 2 ^ i) ≤ n then r + 2 ^ i else r)

/-- The square root of a positive number to more than 66 bits, its lowest bit saying that more bits follow. -/
def Exact.sqrt (x : Exact) : Exact :=
  let odd := x.exp % 2 = 1
  let m := x.mant <<< (if odd then 141 else 140)
  let r := isqrtBits m 104 0
  ⟨false, 2 * r + (if r * r = m then 0 else 1), (x.exp - (if odd then 141 else 140)) / 2 - 1⟩

/-! ## Rounding, R332 -/

/-- The rounding modes of the RC field. -/
inductive Rounding where
  | nearest | down | up | chop
deriving DecidableEq, Repr

/-- RC of a control word (R322). -/
def rounding (cw : Word) : Rounding :=
  match cw.getLsbD 11, cw.getLsbD 10 with
  | false, false => .nearest
  | false, true => .down
  | true, false => .up
  | true, true => .chop

/-- The precision in bits of the PC field (R322); PC = 01 is taken as 64 (U26, log 38). -/
def precision (cw : Word) : Nat :=
  match cw.getLsbD 9, cw.getLsbD 8 with
  | false, false => 24
  | true, false => 53
  | _, true => 64

/-- IC = 1 (R334). -/
def affine (cw : Word) : Bool := cw.getLsbD 12

/-- Drop the `d` low bits of a magnitude: the rounded magnitude and whether anything was lost. -/
def roundDrop (rc : Rounding) (neg : Bool) (m d : Nat) : Nat × Bool :=
  let q := m >>> d
  let r := m % 2 ^ d
  let up := match rc with
    | .nearest => decide (2 ^ d < 2 * r) || (2 * r == 2 ^ d && q % 2 == 1)
    | .down => neg
    | .up => !neg
    | .chop => false
  (if r ≠ 0 ∧ up = true then q + 1 else q, r != 0)

/-- Round to a multiple of 2^lsb: the multiple and whether anything was lost. -/
def Exact.round (rc : Rounding) (x : Exact) (lsb : Int) : Nat × Bool :=
  if lsb ≤ x.exp then (x.mant <<< (x.exp - lsb).toNat, false)
  else roundDrop rc x.neg x.mant (lsb - x.exp).toNat

/-- A number of at most 64 significant bits and in range as a normal temporary real, or a zero. -/
def Exact.toReal (x : Exact) : TempReal :=
  if x.mant = 0 then npxZero x.neg
  else packReal x.neg (x.exponent + 16383).toNat (x.round .chop (x.exponent - 63)).1

/-! ## Conversions on load, R331 -/

/-- `FromInt` (R331): the low `n` bits in two's complement. -/
def fromInt (n : Nat) (d : TempReal) : TempReal :=
  let u := d.toNat % 2 ^ n
  if u < 2 ^ (n - 1) then Exact.toReal ⟨false, u, 0⟩ else Exact.toReal ⟨true, 2 ^ n - u, 0⟩

/-- The eighteen decimal digits of a packed decimal, if each is 0 to 9 (R328). -/
def bcdDigits (u : Nat) : Nat → Option Nat
  | 0 => some 0
  | k + 1 =>
    if u % 16 < 10 then (bcdDigits (u / 16) k).map (fun rest => 10 * rest + u % 16) else none

/-- `FromBCD` (R331); an invalid digit gives the free value `fr` (U28). -/
def fromBcd (fr d : TempReal) : TempReal :=
  match bcdDigits d.toNat 18 with
  | some m => Exact.toReal ⟨(realNeg d), m, 0⟩
  | none => fr

/-- A source operand: its value, a denormal already as its equivalent unnormal, and whether it was a denormal (R340). -/
structure NpxOperand where
  v   : TempReal
  den : Bool
deriving DecidableEq, Repr

/-- An operand in a register: a denormal becomes the unnormal with exponent field 1 (R340). -/
def regOperand (v : TempReal) : NpxOperand :=
  if realClass v = .denormal then ⟨packReal (realNeg v) 1 (realSig v), true⟩ else ⟨v, false⟩

/-- `FromShort` and `FromLong` (R331) for a format with `e` exponent and `f` fraction bits. -/
def fromReal (e f : Nat) (d : TempReal) : NpxOperand :=
  let u := d.toNat
  let neg := u / 2 ^ (e + f) % 2 = 1
  let field := u / 2 ^ f % 2 ^ e
  let frac := (u % 2 ^ f) * 2 ^ (63 - f)
  let bias := 16383 - (2 ^ (e - 1) - 1)
  if field = 2 ^ e - 1 then ⟨packReal neg 0x7FFF (2 ^ 63 + frac), false⟩
  else if field ≠ 0 then ⟨packReal neg (field + bias) (2 ^ 63 + frac), false⟩
  else if frac = 0 then ⟨npxZero neg, false⟩
  else ⟨packReal neg (1 + bias) frac, true⟩

/-- The operand an operation loads, from the bytes captured (R326, R331). -/
def loadOperand (fr : TempReal) (f : NpxFmt) (d : TempReal) : NpxOperand :=
  match f with
  | .real32 => fromReal 8 23 d
  | .real64 => fromReal 11 52 d
  | .real80 => regOperand d
  | .int16 => ⟨fromInt 16 d, false⟩
  | .int32 => ⟨fromInt 32 d, false⟩
  | .int64 => ⟨fromInt 64 d, false⟩
  | .bcd => ⟨fromBcd fr d, false⟩

/-! ## Footprints in memory, R312 -/

/-- The size of a memory operand (R312). -/
def NpxFmt.bytes : NpxFmt → Nat
  | .real32 => 4
  | .real64 => 8
  | .real80 => 10
  | .int16 => 2
  | .int32 => 4
  | .int64 => 8
  | .bcd => 10

/-- Is a memory format an integer (R327)? -/
def NpxFmt.isInt : NpxFmt → Bool
  | .int16 => true
  | .int32 => true
  | .int64 => true
  | _ => false

/-- The bytes an operation captures at its ESC. FLDENV and FRSTOR capture the first word and read the rest when they run. -/
def NpxOp.loads : NpxOp → Nat
  | .load f => f.bytes
  | .arithMem _ f => f.bytes
  | .compareMem f _ => f.bytes
  | .ldcw => 2
  | .ldenv => 2
  | .rstor => 2
  | _ => 0

/-- The bytes an operation stores. -/
def NpxOp.stores : NpxOp → Nat
  | .store f _ => f.bytes
  | .stcw => 2
  | .stsw => 2
  | .stenv => 14
  | .save => 94
  | _ => 0

/-- Is an address among the `n` bytes from `base` on (R311: modulo 2^20)? -/
def within (n : Nat) (base a : Phys) : Bool := (a - base).toNat < n

/-- Does an address belong to the memory operand of a job? -/
def NpxJob.touches (j : NpxJob) (a : Phys) : Bool :=
  match j.addr with
  | none => false
  | some b => within (max j.op.loads j.op.stores) b a

/-- Does an address belong to the destination of a job? -/
def NpxJob.storesTo (j : NpxJob) (a : Phys) : Bool :=
  match j.addr with
  | none => false
  | some b => within j.op.stores b a

end Sys2Proof.Machine
end

