-- ==== Sys2Proof/Machine/Memory.lean ====
section
/-! DEFINITION. The memory as a list of cells in one canonical form (20_memory.md R30; log 3): addresses strictly rising, and no
cell equal to `unlistedByte`, what an unlisted address reads as. The same form serves the 8089's private I/O space. -/

namespace Sys2Proof.Machine

/-- What an address that is not listed reads as. DESIGN CHOICE, unsafe (log 3): D7 leaves the contents at power-on open. -/
def unlistedByte : Byte := 0

/-- The byte at an address. -/
def Memory.read (m : Memory) (a : Nat) : Byte :=
  match m with
  | [] => unlistedByte
  | (b, v) :: rest => if a = b then v else Memory.read rest a

/-- Store a byte, keeping the canonical form. -/
def Memory.write (m : Memory) (a : Nat) (v : Byte) : Memory :=
  match m with
  | [] => if v = unlistedByte then [] else [(a, v)]
  | (b, w) :: rest =>
    if a < b then
      if v = unlistedByte then (b, w) :: rest else (a, v) :: (b, w) :: rest
    else if a = b then
      if v = unlistedByte then rest else (a, v) :: rest
    else (b, w) :: Memory.write rest a v

/-- Every listed address is above `n`. -/
def Memory.above (n : Nat) (m : Memory) : Bool :=
  match m with
  | [] => true
  | (b, _) :: _ => n < b

/-- The canonical form: addresses strictly rise, no cell holds `unlistedByte`. -/
def Memory.wf (m : Memory) : Bool :=
  match m with
  | [] => true
  | (b, v) :: rest => v != unlistedByte && Memory.above b rest && Memory.wf rest

/-- The byte a port presents, if any (R47): the cells of `IoSpace.inputs`. -/
def presented (cells : List Host.Cell) (p : Nat) : Option Byte :=
  match cells with
  | [] => none
  | (q, v) :: rest => if p = q then some v else presented rest p

/-- Let a port present a byte, by rising port number. -/
def present (cells : List Host.Cell) (p : Nat) (v : Byte) : List Host.Cell :=
  match cells with
  | [] => [(p, v)]
  | (q, w) :: rest =>
    if p < q then (p, v) :: (q, w) :: rest
    else if p = q then (p, v) :: rest
    else (q, w) :: present rest p v

/-! ## Draws of free values (log 5) -/

/-- Count one draw. -/
def State.draw (s : State) : State := { s with fresh := s.fresh + 1 }

/-- A free byte. -/
def drawByte (s : State) : Byte × State := (Config.freeByte s.fresh, s.draw)
/-- A free word. -/
def drawWord (s : State) : Word × State := (Config.freeWord s.fresh, s.draw)
/-- A free bit. -/
def drawBit (s : State) : Bool × State := (Config.freeBit s.fresh, s.draw)
/-- A free temporary real. -/
def drawReal (s : State) : TempReal × State := (Config.freeReal s.fresh, s.draw)

/-- Record a bus event (R47). -/
def State.event (e : BusEvent) (s : State) : State :=
  { s with io := { s.io with trace := e :: s.io.trace } }

/-- Raise a refusal from inside a bus access: the first one stands. -/
def State.refuse (r : Refusal) (s : State) : State :=
  { s with stop := s.stop.or (some r) }

/-- `is186` of 00_scope.md R7. -/
def State.is186 (s : State) : Bool := s.cfg.is186

end Sys2Proof.Machine
end

