-- ==== Sys2Proof/Machine/IntCtl.lean ====
section
/-! DEFINITION. The integrated interrupt controller of the 80186,188 (61_186_peripherals.md R575 to R596): sources, priority,
acknowledge, EOI. `rmx` is the mode bit of the relocation register (R532): false = master mode, true = iRMX 86 mode. -/

namespace Sys2Proof.Machine

/-- A source by the place of its control register (R577), in the default priority order of R585. In iRMX 86 mode `int0` is timer 1
and `int1` is timer 2 (R592); `int2` and `int3` are no sources there. -/
inductive IcSrc where
  | timer | dma0 | dma1 | int0 | int1 | int2 | int3
deriving DecidableEq, Repr

/-- The seven sources in default order (Table 5-2, R585; Table 5-12, R591). -/
def IcSrc.all : List IcSrc := [.timer, .dma0, .dma1, .int0, .int1, .int2, .int3]

/-- The bit of the source in the request, mask and in-service registers (R578). -/
def IcSrc.bit : IcSrc → Nat
  | .timer => 0
  | .dma0 => 2
  | .dma1 => 3
  | .int0 => 4
  | .int1 => 5
  | .int2 => 6
  | .int3 => 7

/-- Set or clear one bit of a bit vector. -/
def putBit {n : Nat} (v : BitVec n) (k : Nat) (b : Bool) : BitVec n :=
  if b then v ||| BitVec.ofNat n (2 ^ k) else v &&& ~~~ BitVec.ofNat n (2 ^ k)

/-- The control register of a source (R577). -/
def Ic.ctl (ic : Ic) : IcSrc → Word
  | .timer => ic.timer
  | .dma0 => ic.dma0
  | .dma1 => ic.dma1
  | .int0 => ic.int0
  | .int1 => ic.int1
  | .int2 => ic.int2
  | .int3 => ic.int3

/-- Replace the control register of a source. -/
def Ic.setCtl (ic : Ic) (s : IcSrc) (v : Word) : Ic :=
  match s with
  | .timer => { ic with timer := v }
  | .dma0 => { ic with dma0 := v }
  | .dma1 => { ic with dma1 := v }
  | .int0 => { ic with int0 := v }
  | .int1 => { ic with int1 := v }
  | .int2 => { ic with int2 := v }
  | .int3 => { ic with int3 := v }

/-- The bits a control register has in a mode (R577); the others read 0. -/
def IcSrc.ctlMask (rmx : Bool) : IcSrc → Word
  | .timer => 0x000F
  | .dma0 => 0x000F
  | .dma1 => 0x000F
  | .int0 => if rmx then 0x000F else 0x007F
  | .int1 => if rmx then 0x000F else 0x007F
  | .int2 => 0x001F
  | .int3 => 0x001F

/-- Is it a source in this mode (R585, R592)? -/
def IcSrc.present (rmx : Bool) : IcSrc → Bool
  | .int2 => !rmx
  | .int3 => !rmx
  | _ => true

/-- MSK, bit 3. -/
def Ic.masked (ic : Ic) (s : IcSrc) : Bool := (ic.ctl s).getLsbD 3
/-- PR, bits 2 to 0. -/
def Ic.priority (ic : Ic) (s : IcSrc) : BitVec 3 := (ic.ctl s).setWidth 3
/-- LTM, bit 4. -/
def Ic.levelMode (ic : Ic) (s : IcSrc) : Bool := (ic.ctl s).getLsbD 4
/-- C, bit 5 of INT0 and INT1 control, master mode only. -/
def Ic.cascade (ic : Ic) (s : IcSrc) : Bool :=
  (s == .int0 || s == .int1) && (ic.ctl s).getLsbD 5
/-- SFNM, bit 6 of INT0 and INT1 control. -/
def Ic.nested (ic : Ic) (s : IcSrc) : Bool :=
  (s == .int0 || s == .int1) && (ic.ctl s).getLsbD 6
/-- The in-service bit (R581). -/
def Ic.inService (ic : Ic) (s : IcSrc) : Bool := ic.isr.getLsbD s.bit

/-- The request of external pin k in master mode (R578): its level, or its edge latch. -/
def Ic.pinRequest (ic : Ic) (s : IcSrc) (k : Nat) : Bool :=
  if ic.levelMode s then ic.pin.getLsbD k else ic.edge.getLsbD k

/-- The request bit of a source (R578). DESIGN CHOICE (log 33): the bit of a pin that serves as an acknowledge output (R588) still shows
what the pin or its latch says; no request comes of it (R585). -/
def Ic.request (rmx : Bool) (ic : Ic) : IcSrc → Bool
  | .timer => if rmx then ic.irt.getLsbD 0 else ic.irt != 0
  | .dma0 => ic.reqDma.getLsbD 0
  | .dma1 => ic.reqDma.getLsbD 1
  | .int0 => if rmx then ic.irt.getLsbD 1 else ic.pinRequest .int0 0
  | .int1 => if rmx then ic.irt.getLsbD 2 else ic.pinRequest .int1 1
  | .int2 => if rmx then false else ic.pinRequest .int2 2
  | .int3 => if rmx then false else ic.pinRequest .int3 3

/-- A pin that serves as an acknowledge output in cascade mode (R588). -/
def Ic.isAckPin (ic : Ic) : IcSrc → Bool
  | .int2 => ic.cascade .int0
  | .int3 => ic.cascade .int1
  | _ => false

/-- `eligible` of R585. -/
def Ic.eligible (rmx : Bool) (ic : Ic) (s : IcSrc) : Bool :=
  s.present rmx && ic.request rmx s && !ic.masked s && (ic.priority s ≤ ic.prm)
    && (!ic.inService s || (!rmx && ic.nested s))
    && IcSrc.all.all (fun u => u == s || !(u.present rmx && ic.inService u && ic.priority u < ic.priority s))
    && (rmx || !ic.isAckPin s)

/-- The first source of a list with the smallest priority number among those `p` admits. -/
def Ic.bestOf (ic : Ic) (p : IcSrc → Bool) : List IcSrc → Option IcSrc
  | [] => none
  | s :: rest =>
    match ic.bestOf p rest with
    | none => if p s then some s else none
    | some t => if p s && (ic.priority s ≤ ic.priority t) then some s else some t

/-- `IcBest` (R585) and `IcBest_iRMX` (R593). -/
def Ic.best (rmx : Bool) (ic : Ic) : Option IcSrc := ic.bestOf (ic.eligible rmx) IcSrc.all

/-- The lowest-numbered timer with a pending request (R586). -/
def Ic.firstTimer (ic : Ic) : Nat :=
  if ic.irt.getLsbD 0 then 0 else if ic.irt.getLsbD 1 then 1 else 2

/-- The vector type of a source in master mode (Table 5-2, R585). -/
def Ic.masterType (ic : Ic) : IcSrc → Byte
  | .timer =>
    match ic.firstTimer with
    | 0 => 8
    | 1 => 18
    | _ => 19
  | .dma0 => 10
  | .dma1 => 11
  | .int0 => 12
  | .int1 => 13
  | .int2 => 14
  | .int3 => 15

/-- The vector type in iRMX 86 mode (R593). -/
def Ic.rmxType (ic : Ic) (s : IcSrc) : Byte := ic.vector ++ ic.priority s

/-- Clear the edge latch of a pin unless the pin is level-triggered (R586). -/
def Ic.clearEdge (ic : Ic) (s : IcSrc) (k : Nat) : Ic :=
  if ic.levelMode s then ic else { ic with edge := putBit ic.edge k false }

/-- Clear the request that an acknowledge takes (R586, R593). -/
def Ic.clearRequest (rmx : Bool) (ic : Ic) : IcSrc → Ic
  | .timer => { ic with irt := putBit ic.irt (if rmx then 0 else ic.firstTimer) false }
  | .dma0 => { ic with reqDma := putBit ic.reqDma 0 false }
  | .dma1 => { ic with reqDma := putBit ic.reqDma 1 false }
  | .int0 => if rmx then { ic with irt := putBit ic.irt 1 false } else ic.clearEdge .int0 0
  | .int1 => if rmx then { ic with irt := putBit ic.irt 2 false } else ic.clearEdge .int1 1
  | .int2 => ic.clearEdge .int2 2
  | .int3 => ic.clearEdge .int3 3

/-- `IcAck(s)` (R586; R593 in iRMX 86 mode): in-service bit, priority mask, request. -/
def Ic.ack (rmx : Bool) (ic : Ic) (s : IcSrc) : Ic :=
  let ic' := ic.clearRequest rmx s
  { ic' with isr := putBit ic'.isr s.bit true, prm := ic.priority s }

/-- PRM after an EOI (D23, log 32): the priority of the highest-priority source in service, or 7. -/
def Ic.prmAfterEoi (rmx : Bool) (ic : Ic) : BitVec 3 :=
  match ic.bestOf (fun u => u.present rmx && ic.inService u) IcSrc.all with
  | none => 7
  | some u => ic.priority u

/-- The source whose master-mode vector type is `t` (R583; types 8, 18, 19 name the timer bit). -/
def IcSrc.ofType (t : Nat) : Option IcSrc :=
  match t with
  | 8 => some .timer
  | 18 => some .timer
  | 19 => some .timer
  | 10 => some .dma0
  | 11 => some .dma1
  | 12 => some .int0
  | 13 => some .int1
  | 14 => some .int2
  | 15 => some .int3
  | _ => none

/-- The source an EOI command names (R583). DESIGN CHOICE (log 33): of several in service at the level that an iRMX 86 command gives,
which Table 5-12 excludes, the first in default order. -/
def Ic.eoiSource (rmx : Bool) (ic : Ic) (w : Word) : Option IcSrc :=
  if rmx then
    IcSrc.all.find? fun u => u.present true && ic.inService u && ic.priority u == w.setWidth 3
  else if w.getLsbD 15 then ic.bestOf ic.inService IcSrc.all
  else IcSrc.ofType (w.toNat % 32)

/-- A write to the EOI register (R583). -/
def Ic.eoi (rmx : Bool) (ic : Ic) (w : Word) : Ic :=
  let ic' :=
    match ic.eoiSource rmx w with
    | none => ic
    | some s => { ic with isr := putBit ic.isr s.bit false }
  { ic' with prm := ic'.prmAfterEoi rmx }

/-- The bits of the request, mask and in-service registers that exist in a mode (R578). -/
def icBits (rmx : Bool) : Word := if rmx then 0x003D else 0x00FD

/-- Bit k of a register built from the sources. -/
def icCollect (p : IcSrc → Bool) : Word :=
  IcSrc.all.foldl (fun w u => putBit w u.bit (p u)) 0

/-- The request register (R578). -/
def Ic.requestReg (rmx : Bool) (ic : Ic) : Word := icCollect (ic.request rmx) &&& icBits rmx

/-- The mask register (R579): the MSK bits of the control registers. -/
def Ic.maskReg (rmx : Bool) (ic : Ic) : Word := icCollect ic.masked &&& icBits rmx

/-- A write to the mask register (R579) changes the MSK bits of the sources of the mode. -/
def Ic.setMaskReg (rmx : Bool) (ic : Ic) (w : Word) : Ic :=
  IcSrc.all.foldl
    (fun ic u => if u.present rmx then ic.setCtl u (putBit (ic.ctl u) 3 (w.getLsbD u.bit)) else ic) ic

/-- The level of pin INTk (R578): a rising edge sets the latch, a low level clears it. DESIGN CHOICE (log 33): a rising edge seen while
LTM = 1 sets the latch too, and what an acknowledge in level mode then does not clear is a request once LTM becomes 0 with the line still
HIGH; R578 speaks of the latch for LTM = 0 alone. DESIGN CHOICE (log 28): the latches follow the pins while RMX = 1 too, where INT0 is the
CPU's interrupt input and INT1 the slave select (R593), so that such an edge is a request once RMX is 0 again; R594 does not describe it. -/
def Ic.setPin (ic : Ic) (k : Nat) (level : Bool) : Ic :=
  let edge := if level then (if ic.pin.getLsbD k then ic.edge else putBit ic.edge k true) else putBit ic.edge k false
  { ic with pin := putBit ic.pin k level, edge := edge }

/-- `IcRequest` (R585) or the INT0 pin in iRMX 86 mode (R593). -/
def Ic.cpuRequest (rmx : Bool) (ic : Ic) : Bool :=
  if rmx then ic.pin.getLsbD 0 else (ic.best false).isSome

/-- The slave request driven on INT3 in iRMX 86 mode (R593). -/
def Ic.slaveRequest (ic : Ic) : Bool := (ic.best true).isSome

/-- Is any request or in-service bit set (U20)? -/
def Ic.busy (rmx : Bool) (ic : Ic) : Bool := ic.isr != 0 || ic.requestReg rmx != 0

end Sys2Proof.Machine
end

