-- ==== Sys2Proof/Machine/TimerUnit.lean ====
section
/-! DEFINITION. The timer unit of the 80186,188 (61_186_peripherals.md R560 to R565). -/

namespace Sys2Proof.Machine

/-- EN, bit 15 of the mode word (R563). -/
def Timer.en (t : Timer) : Bool := t.mode.getLsbD 15
/-- INT, bit 13. -/
def Timer.int (t : Timer) : Bool := t.mode.getLsbD 13
/-- RIU, bit 12. -/
def Timer.riu (t : Timer) : Bool := t.mode.getLsbD 12
/-- RTG, bit 4. -/
def Timer.rtg (t : Timer) : Bool := t.mode.getLsbD 4
/-- P, bit 3. -/
def Timer.prescale (t : Timer) : Bool := t.mode.getLsbD 3
/-- EXT, bit 2. -/
def Timer.ext (t : Timer) : Bool := t.mode.getLsbD 2
/-- ALT, bit 1. -/
def Timer.alt (t : Timer) : Bool := t.mode.getLsbD 1
/-- CONT, bit 0. -/
def Timer.cont (t : Timer) : Bool := t.mode.getLsbD 0

/-- Set a bit of the mode word. -/
def Timer.setMode (t : Timer) (k : Nat) (b : Bool) : Timer := { t with mode := putBit t.mode k b }

/-- Clear EN; a retriggered start does not survive it (DESIGN CHOICE, log 31). -/
def Timer.disable (t : Timer) : Timer := { t.setMode 15 false with started := false }

/-- The max count register in use (R562, R563). -/
def Timer.limit (t : Timer) : Word := if t.riu then t.maxB else t.maxA

/-- `MaxCountReached`, the timer's own part (R564); with ALT = 0 the output goes LOW for a clock (R563). -/
def Timer.reached (t : Timer) : Timer :=
  let t := t.setMode 5 true
  if t.alt then
    if t.riu then
      let t := t.setMode 12 false
      if t.cont then t else t.disable
    else t.setMode 12 true
  else
    let t := { t with pulse := true }
    if t.cont then t else t.disable

/-- `TimerEvent` (R562): the timer after one event, and whether a maximum count was reached. -/
def Timer.event (t : Timer) : Timer × Bool :=
  let n := t.count + 1
  if n = t.limit then ({ t with count := 0 }.reached, true) else ({ t with count := n }, false)

/-- Does the input pin let an internal clock through (R563, RTG)? -/
def Timer.gate (t : Timer) : Bool := if t.rtg then t.started else t.pin

/-- Bits of a mode word that a write stores directly: INT, MC, RTG, P, EXT, ALT, CONT (R563). -/
def timerModeBits : Word := 0x203F
/-- The same for timer 2, whose ALT, EXT, P, RTG are hardwired 0. -/
def timer2ModeBits : Word := 0x2021

/-- A write of the mode word (R563): EN only with INH, RIU cleared with ALT = 0. DESIGN CHOICE (log 31): a retriggered start is dropped
when RTG or EN becomes 0, so that a later RTG = 1 waits for a new edge. -/
def Timer.writeMode (bits : Word) (t : Timer) (w : Word) : Timer :=
  let en := if w.getLsbD 14 then w.getLsbD 15 else t.en
  let m := (w &&& bits) ||| (t.mode &&& 0x1000)
  let m := putBit m 15 en
  let m := if m.getLsbD 1 then m else putBit m 12 false
  { t with mode := m, started := t.started && en && m.getLsbD 4 }

/-- The timer 0 or 1. -/
def Pcb.tmr (p : Pcb) (k : Bool) : Timer := if k then p.tmr1 else p.tmr0

/-- Replace timer 0 or 1. -/
def Pcb.setTmr (p : Pcb) (k : Bool) (t : Timer) : Pcb :=
  if k then { p with tmr1 := t } else { p with tmr0 := t }

/-- Set the request bit IRTt (R584). -/
def Pcb.raiseTimer (p : Pcb) (t : Nat) : Pcb := { p with ic := { p.ic with irt := putBit p.ic.irt t true } }

/-- An event of timer 0 or 1 with its interrupt (R562, R564). -/
def Pcb.timerEvent (p : Pcb) (k : Bool) : Pcb :=
  let (t, hit) := (p.tmr k).event
  let p' := p.setTmr k t
  if hit && t.int then p'.raiseTimer (if k then 1 else 0) else p'

/-- The internal clock of timer 0 or 1, from the CPU clock (`presc` false) or from timer 2 (`presc` true) (R561). -/
def Pcb.timerClock (p : Pcb) (k presc : Bool) : Pcb :=
  let t := p.tmr k
  if t.en && !t.ext && t.prescale == presc && t.gate then p.timerEvent k else p

/-- The DMA request that timer 2 latches for a channel with TDRQ = 1 (R549, R564). -/
def DmaChan.timerRequest (c : DmaChan) : DmaChan := { c with tmrReq := c.tmrReq || c.ctl.getLsbD 4 }

/-- An event of timer 2 with everything it signals (R564). -/
def Pcb.timer2Event (p : Pcb) : Pcb :=
  let (t, hit) := p.tmr2.event
  let p := { p with tmr2 := t }
  if hit then
    let p := if t.int then p.raiseTimer 2 else p
    let p := (p.timerClock false true).timerClock true true
    { p with dma0 := p.dma0.timerRequest, dma1 := p.dma1.timerRequest }
  else p

/-- The clock after a maximum count is over (R563; log 31). -/
def Timer.endPulse (t : Timer) : Timer := { t with pulse := false }

/-- Every fourth CPU clock (R561). -/
def Pcb.clock (p : Pcb) : Pcb :=
  let p := { p with tmr0 := p.tmr0.endPulse, tmr1 := p.tmr1.endPulse, tmr2 := p.tmr2.endPulse }
  let p := (p.timerClock false false).timerClock true false
  if p.tmr2.en then p.timer2Event else p

/-- The level of a timer input pin (R561, R563): a rising edge is an event with EXT = 1, a retrigger with EXT = 0 and RTG = 1. DESIGN CHOICE
(log 31): the count is 0 at the edge itself, as R564 says, and the next clock counts to 1; R563 has it cleared on the first clock. -/
def Pcb.timerPin (p : Pcb) (k level : Bool) : Pcb :=
  let t := p.tmr k
  let rising := level && !t.pin && t.en
  let p := p.setTmr k { t with pin := level }
  if rising && t.ext then p.timerEvent k
  else if rising && t.rtg then p.setTmr k { t with pin := level, count := 0, started := true }
  else p

/-- The output pin of timer 0 or 1 (R563): with ALT = 1 it is 0 while max count B is in use and 1 while A is; with ALT = 0 it is LOW
for the clock after the maximum count. -/
def Timer.output (t : Timer) : Bool := if t.alt then !t.riu else !t.pulse

end Sys2Proof.Machine
end

