-- ==== Sys2Proof/Machine/Pcb.lean ====
section
/-! DEFINITION. The peripheral control block of the 80186,188 (61_186_peripherals.md R530 to R533, R540): where it lies, and what a
read or a write of each of its registers does. -/

namespace Sys2Proof.Machine

/-- RMX, bit 14 of the relocation register (R532). -/
def Pcb.rmx (p : Pcb) : Bool := p.reloc.getLsbD 14
/-- ET, bit 15 (R532): the ESC trap. -/
def Pcb.escTrap (p : Pcb) : Bool := p.reloc.getLsbD 15
/-- M/IO, bit 12 (R532): the block is in memory space. -/
def Pcb.inMemory (p : Pcb) : Bool := p.reloc.getLsbD 12
/-- The base address (R532). -/
def Pcb.base (p : Pcb) : Phys := p.reloc.setWidth 12 ++ (0 : Byte)

/-- A memory cycle that belongs to the block (R531). -/
def State.pcbMem (s : State) (a : Phys) : Bool :=
  s.is186 && s.pcb.inMemory && ((a &&& 0xFFF00) == s.pcb.base)

/-- An I/O cycle that belongs to the block (R531). -/
def State.pcbIo (s : State) (p : Word) : Bool :=
  s.is186 && !s.pcb.inMemory && (((p &&& 0xFF00).setWidth 20) == s.pcb.base)

/-- Replace the interrupt controller. -/
def State.setIc (s : State) (ic : Ic) : State := { s with pcb := { s.pcb with ic := ic } }

/-! ## DMA registers, R546 to R548, R553 -/

/-- A write of the control word (R553): ST/STOP only with CHG/NOCHG. -/
def DmaChan.writeCtl (c : DmaChan) (w : Word) : DmaChan :=
  let v := w &&& 0xFFF9
  { c with ctl := if w.getLsbD 2 then putBit v 1 (w.getLsbD 1) else putBit v 1 (c.ctl.getLsbD 1) }

/-- The lower 16 bits of a pointer (R547). -/
def setPtrLow (p : Phys) (w : Word) : Phys := p.extractLsb' 16 4 ++ w
/-- The upper four bits of a pointer (R547); bits 15 to 4 of the register are don't-care. -/
def setPtrHigh (p : Phys) (w : Word) : Phys := w.setWidth 4 ++ p.setWidth 16

/-- A read of the upper pointer register: what its don't-care bits read is not stated (R547): free. -/
def readPtrHigh (p : Phys) (s : State) : Word × State :=
  let (f, s) := drawWord s
  (f.extractLsb' 4 12 ++ p.extractLsb' 16 4, s)

/-- A read of one of the six registers of a DMA channel, by the low nibble of its offset (R533). -/
def dmaRead (c : DmaChan) (n : Nat) (s : State) : Word × State :=
  match n with
  | 0 => (c.src.setWidth 16, s)
  | 2 => readPtrHigh c.src s
  | 4 => (c.dst.setWidth 16, s)
  | 6 => readPtrHigh c.dst s
  | 8 => (c.count, s)
  | 10 => (c.ctl, s)
  | _ => drawWord s

/-- A write of one of them. -/
def dmaWrite (c : DmaChan) (n : Nat) (w : Word) : DmaChan :=
  match n with
  | 0 => { c with src := setPtrLow c.src w }
  | 2 => { c with src := setPtrHigh c.src w }
  | 4 => { c with dst := setPtrLow c.dst w }
  | 6 => { c with dst := setPtrHigh c.dst w }
  | 8 => { c with count := w }
  | 10 => c.writeCtl w
  | _ => c

/-! ## Interrupt controller registers, R576, R592 -/

/-- The source of a control register offset. -/
def ctlSource (off : Nat) : Option IcSrc :=
  match off with
  | 0x32 => some .timer
  | 0x34 => some .dma0
  | 0x36 => some .dma1
  | 0x38 => some .int0
  | 0x3A => some .int1
  | 0x3C => some .int2
  | 0x3E => some .int3
  | _ => none

/-- The value of the poll registers (R582): INTREQ and the type; the S bits are free when nothing is pending. DESIGN CHOICE (log 33): a
pin in cascade mode polls as its fixed type of Table 5-2, since no INTA cycle asks the controller outside. -/
def pollValue (s : State) : Word × State :=
  match s.pcb.ic.best false with
  | some u => (0x8000 ||| (s.pcb.ic.masterType u).setWidth 16, s)
  | none =>
    let (f, s) := drawWord s
    (f &&& 0x001F, s)

/-- Acknowledge the best source of the mode, if any (R582). -/
def pollAck (s : State) : State :=
  match s.pcb.ic.best s.pcb.rmx with
  | some u => s.setIc (s.pcb.ic.ack s.pcb.rmx u)
  | none => s

/-- A read of an interrupt controller register (R576 to R584, R592, R593). -/
def icRead (off : Nat) (s : State) : Word × State :=
  let ic := s.pcb.ic
  let rmx := s.pcb.rmx
  match off with
  | 0x30 => if rmx then drawWord s else (putBit (ic.irt.setWidth 16) 15 ic.dhlt, s)
  | 0x2E => (ic.requestReg rmx, s)
  | 0x2C => (ic.isr.setWidth 16 &&& icBits rmx, s)
  | 0x2A => (ic.prm.setWidth 16, s)
  | 0x28 => (ic.maskReg rmx, s)
  | 0x26 => if rmx then drawWord s else pollValue s
  | 0x24 =>
    if rmx then drawWord (pollAck s)
    else
      let (v, s) := pollValue s
      (v, pollAck s)
  | 0x20 => if rmx then ((ic.vector ++ (0 : BitVec 3)).setWidth 16, s) else drawWord s
  | _ =>
    match ctlSource off with
    | some u => if u.present rmx then (ic.ctl u &&& u.ctlMask rmx, s) else drawWord s
    | none => drawWord s

/-- The timer request bit of the request register in master mode is the OR of the IRT bits (R578): writing 0 clears them; writing 1
with none set sets one, which one is free (DESIGN CHOICE, log 33). -/
def writeTimerRequest (b : Bool) (s : State) : State :=
  if b then
    if s.pcb.ic.irt = 0 then
      let (f, s) := drawWord s
      s.setIc { s.pcb.ic with irt := putBit 0 (f.toNat % 3) true }
    else s
  else s.setIc { s.pcb.ic with irt := 0 }

/-- A write to the request register (R578): the internal sources only. -/
def writeRequest (w : Word) (s : State) : State :=
  let ic := s.pcb.ic
  let s := s.setIc { ic with reqDma := w.extractLsb' 2 2 }
  if s.pcb.rmx then
    s.setIc { s.pcb.ic with
      irt := putBit (putBit (putBit 0 0 (w.getLsbD 0)) 1 (w.getLsbD 4)) 2 (w.getLsbD 5) }
  else writeTimerRequest (w.getLsbD 0) s

/-- A write to an interrupt controller register. DESIGN CHOICE (log 28): in iRMX 86 mode a write of 38H or 3AH clears SFNM, C and LTM of
that register, the bits that only master mode shows; R594 does not describe what they hold when RMX is 0 again. -/
def icWrite (off : Nat) (w : Word) (s : State) : State :=
  let ic := s.pcb.ic
  let rmx := s.pcb.rmx
  match off with
  | 0x30 => if rmx then s else s.setIc { ic with irt := w.setWidth 3, dhlt := w.getLsbD 15 }
  | 0x2E => writeRequest w s
  | 0x2C => s.setIc { ic with isr := (w &&& icBits rmx).setWidth 8 }
  | 0x2A => s.setIc { ic with prm := w.setWidth 3 }
  | 0x28 => s.setIc (ic.setMaskReg rmx w)
  | 0x24 => if rmx then pollAck s else s
  | 0x22 => s.setIc (ic.eoi rmx w)
  | 0x20 => if rmx then s.setIc { ic with vector := w.extractLsb' 3 5 } else s
  | _ =>
    match ctlSource off with
    | some u => if u.present rmx then s.setIc (ic.setCtl u (w &&& u.ctlMask rmx)) else s
    | none => s

/-! ## The block, R533 -/

/-- A word access of the block marks a chip-select register as accessed (R540). -/
def touchChipSelect (off : Nat) (s : State) : State :=
  let cs := s.pcb.cs
  match off with
  | 0xA2 => { s with pcb := { s.pcb with cs := { cs with lmcsUsed := true } } }
  | 0xA4 => { s with pcb := { s.pcb with cs := { cs with pacsUsed := true } } }
  | 0xA6 => { s with pcb := { s.pcb with cs := { cs with mmcsUsed := true } } }
  | 0xA8 => { s with pcb := { s.pcb with cs := { cs with mpcsUsed := true } } }
  | _ => s

/-- A read of the word register at an even offset (R533); an offset without a register reads any value (U17, log 27). -/
def State.pcbRead (off : Nat) (s : State) : Word × State :=
  let p := s.pcb
  match off with
  | 0xFE => (p.reloc, s)
  | 0xA8 => (p.cs.mpcs, touchChipSelect off s)
  | 0xA6 => (p.cs.mmcs, touchChipSelect off s)
  | 0xA4 => (p.cs.pacs, touchChipSelect off s)
  | 0xA2 => (p.cs.lmcs, touchChipSelect off s)
  | 0xA0 => (p.cs.umcs, s)
  | 0x66 => (p.tmr2.mode, s)
  | 0x62 => (p.tmr2.maxA, s)
  | 0x60 => (p.tmr2.count, s)
  | 0x5E => (p.tmr1.mode, s)
  | 0x5C => (p.tmr1.maxB, s)
  | 0x5A => (p.tmr1.maxA, s)
  | 0x58 => (p.tmr1.count, s)
  | 0x56 => (p.tmr0.mode, s)
  | 0x54 => (p.tmr0.maxB, s)
  | 0x52 => (p.tmr0.maxA, s)
  | 0x50 => (p.tmr0.count, s)
  | _ =>
    if 0xD0 ≤ off ∧ off ≤ 0xDF then dmaRead p.dma1 (off - 0xD0) s
    else if 0xC0 ≤ off ∧ off ≤ 0xCF then dmaRead p.dma0 (off - 0xC0) s
    else if 0x20 ≤ off ∧ off ≤ 0x3F then icRead off s
    else drawWord s

/-- A write of the relocation register (R532): takes effect with the write; U18 and U20 refuse (log 28). What the mode-dependent
registers hold after a change of RMX is not described (R594): DESIGN CHOICE (log 28), they keep their contents. -/
def writeReloc (w : Word) (s : State) : State :=
  if !w.getLsbD 12 && (w &&& 0x0F00) != 0 then s.refuse .relocationReservedBits
  else if w.getLsbD 14 != s.pcb.rmx && s.pcb.ic.busy s.pcb.rmx then s.refuse .interruptModeChange
  else { s with pcb := { s.pcb with reloc := w } }

/-- A write of the word register at an even offset (R533); other offsets ignore it (U17, log 27). A count written equal to its maximum
is not compared before the next event (R565 leaves it open; DESIGN CHOICE, log 31). -/
def State.pcbWrite (off : Nat) (w : Word) (s : State) : State :=
  let p := s.pcb
  match off with
  | 0xFE => writeReloc w s
  | 0xA8 => touchChipSelect off { s with pcb := { p with cs := { p.cs with mpcs := w ||| 0x8038 } } }
  | 0xA6 => touchChipSelect off { s with pcb := { p with cs := { p.cs with mmcs := w ||| 0x01F8 } } }
  | 0xA4 => touchChipSelect off { s with pcb := { p with cs := { p.cs with pacs := w ||| 0x0038 } } }
  | 0xA2 => touchChipSelect off { s with pcb := { p with cs := { p.cs with lmcs := (w &&& 0x3FFF) ||| 0x0038 } } }
  | 0xA0 => { s with pcb := { p with cs := { p.cs with umcs := w ||| 0xC038 } } }
  | 0x66 => { s with pcb := { p with tmr2 := p.tmr2.writeMode timer2ModeBits w } }
  | 0x62 => { s with pcb := { p with tmr2 := { p.tmr2 with maxA := w } } }
  | 0x60 => { s with pcb := { p with tmr2 := { p.tmr2 with count := w } } }
  | 0x5E => { s with pcb := { p with tmr1 := p.tmr1.writeMode timerModeBits w } }
  | 0x5C => { s with pcb := { p with tmr1 := { p.tmr1 with maxB := w } } }
  | 0x5A => { s with pcb := { p with tmr1 := { p.tmr1 with maxA := w } } }
  | 0x58 => { s with pcb := { p with tmr1 := { p.tmr1 with count := w } } }
  | 0x56 => { s with pcb := { p with tmr0 := p.tmr0.writeMode timerModeBits w } }
  | 0x54 => { s with pcb := { p with tmr0 := { p.tmr0 with maxB := w } } }
  | 0x52 => { s with pcb := { p with tmr0 := { p.tmr0 with maxA := w } } }
  | 0x50 => { s with pcb := { p with tmr0 := { p.tmr0 with count := w } } }
  | _ =>
    if 0xD0 ≤ off ∧ off ≤ 0xDF then { s with pcb := { p with dma1 := dmaWrite p.dma1 (off - 0xD0) w } }
    else if 0xC0 ≤ off ∧ off ≤ 0xCF then { s with pcb := { p with dma0 := dmaWrite p.dma0 (off - 0xC0) w } }
    else if 0x20 ≤ off ∧ off ≤ 0x3F then icWrite off w s
    else s

/-! ## Chip-select outputs, R534 to R538 (pins: no effect on what a program reads or writes)

Each line is decoded by itself. R540 excludes overlapping ranges and does not say what happens then: DESIGN CHOICE (log 68), every line
whose range contains the address is active. -/

/-- Are the programmable bits 13 to 6 of UMCS among the values of Table 5-3 (R535)? -/
def ChipSelects.upperLegal (c : ChipSelects) : Bool :=
  [0xFF, 0xFE, 0xFC, 0xF8, 0xF0, 0xE0, 0xC0, 0x80, 0x00].contains (c.umcs.extractLsb' 6 8).toNat
/-- UCS (R535); for a register value outside Table 5-3, "undefined operation", the line is free (log 68). -/
def ChipSelects.ucs (c : ChipSelects) (a : Phys) : Bool :=
  if c.upperLegal then (c.umcs &&& 0xFFC0).toNat ≤ a.toNat / 16 else Config.upperSelect c.umcs a.toNat
/-- Are bits 15 to 6 of LMCS among the values of Table 5-4 (R536)? -/
def ChipSelects.lowerLegal (c : ChipSelects) : Bool :=
  [0x00, 0x01, 0x03, 0x07, 0x0F, 0x1F, 0x3F, 0x7F, 0xFF].contains (c.lmcs.extractLsb' 6 10).toNat
/-- LCS (R536), once LMCS was accessed; for a register value outside Table 5-4, "undefined operation", the line is free (log 68). -/
def ChipSelects.lcs (c : ChipSelects) (a : Phys) : Bool :=
  c.lmcsUsed &&
    if c.lowerLegal then a.toNat / 16 ≤ (c.lmcs ||| 0x003F).toNat else Config.lowerSelect c.lmcs a.toNat
/-- The size of the mid-range block (Table 5-5, R537), M6 to M0 as a number, of which one bit is set. -/
def ChipSelects.midSize (c : ChipSelects) : Nat := 8192 * (c.mpcs.extractLsb' 8 7).toNat
/-- Is one, and only one, of M6 to M0 set (R537)? -/
def ChipSelects.midOneHot (c : ChipSelects) : Bool :=
  [1, 2, 4, 8, 16, 32, 64].contains (c.mpcs.extractLsb' 8 7).toNat
/-- The base of the mid-range block (R537). DESIGN CHOICE (log 68): a base that is no multiple of the block's size is taken as it is. -/
def ChipSelects.midBase (c : ChipSelects) : Nat := (c.mmcs &&& 0xFE00).toNat * 16
/-- MCSk (R537); with no or several of M6 to M0 set the lines are unpredictable: free (log 68). -/
def ChipSelects.mcs (c : ChipSelects) (k : Nat) (a : Phys) : Bool :=
  c.mmcsUsed && c.mpcsUsed &&
    if c.midOneHot then
      c.midBase ≤ a.toNat && a.toNat < c.midBase + c.midSize && (a.toNat - c.midBase) / (c.midSize / 4) == k
    else Config.midSelect c.mpcs c.mmcs k a.toNat
/-- The peripheral base address (R538). -/
def ChipSelects.peripheralBase (c : ChipSelects) : Nat := (c.pacs &&& 0xFFC0).toNat * 16
/-- PCSk for a cycle in memory (`mem` true) or I/O space (R538): PCS5 and PCS6 only with EX = 1. -/
def ChipSelects.pcs (c : ChipSelects) (k : Nat) (mem : Bool) (a : Nat) : Bool :=
  c.pacsUsed && c.mpcsUsed && c.mpcs.getLsbD 6 == mem && (k < 5 || (c.mpcs.getLsbD 7 && k < 7))
    && c.peripheralBase + 128 * k ≤ a && a < c.peripheralBase + 128 * (k + 1)
/-- With EX = 0 PCS5 and PCS6 are no selects: they output the latched address bits A1 and A2 (R538, Table 5-7), once both PACS and
MPCS were accessed; until then they are HIGH as the other lines are (R540). -/
def ChipSelects.latchedAddress (c : ChipSelects) (k : Nat) (a : Phys) : Option Bool :=
  if c.mpcs.getLsbD 7 || !c.pacsUsed || !c.mpcsUsed then none
  else if k = 5 then some (a.getLsbD 1)
  else if k = 6 then some (a.getLsbD 2)
  else none
/-- Wait states of a selected cycle from its ready bits and the external ones (R539). -/
def readyWaits (r : Word) (external : Nat) : Nat :=
  if r.getLsbD 2 then r.toNat % 4 else max (r.toNat % 4) external

end Sys2Proof.Machine
end

