-- ==== Sys2Proof/Machine/Bus.lean ====
section
/-! DEFINITION. Bus cycles: the physical memory and I/O primitives of 00_scope.md R11, 20_memory.md R31 and R47. Reads pass the state
because a control block register, a device, absent memory or the 8089's attention addresses make a read more than a look-up. -/

namespace Sys2Proof.Machine

/-- What a physical address holds: the first region that contains it, or RAM (20_memory.md R45). -/
def regionAt (rs : List Region) (a : Nat) : Option RegionKind :=
  match rs with
  | [] => none
  | r :: rest => if r.base ≤ a ∧ a < r.base + r.size then some r.kind else regionAt rest a

/-- Does an access of the CPU to an address raise a channel attention (49_iop_8089.md R456)? `mem`: a memory cycle. DESIGN CHOICE
(log 55): one of an integrated DMA channel, whose cycles are like the CPU's, does too. -/
def State.caHit (s : State) (mem : Bool) (a : Nat) : Bool :=
  s.cfg.hasIop && s.cfg.iop.caMemory == mem && (a == s.cfg.iop.caBase || a == s.cfg.iop.caBase + 1)

/-- Which attention was the first since RESET, one for channel `ch` having come (49_iop_8089.md R451, R452). -/
def Iop.firstCa (ch : Bool) (p : Iop) : Option Bool := if p.initialized then p.initCa else some (p.initCa.getD ch)

/-- Latch a channel attention: false = channel 1; a second one is absorbed (R456, U49). -/
def State.latchCa (ch : Bool) (s : State) : State :=
  if ch then { s with iop := { s.iop with ch2 := { s.iop.ch2 with ca := true }, initCa := s.iop.firstCa ch } }
  else { s with iop := { s.iop with ch1 := { s.iop.ch1 with ca := true }, initCa := s.iop.firstCa ch } }

/-- The attention an access raises, if any. -/
def State.touchCa (mem : Bool) (a : Nat) (s : State) : State :=
  if s.caHit mem a then s.latchCa (a != s.cfg.iop.caBase) else s

/-- Is an address in the destination of a store the 8087 has not finished, running or queued (47_npx_8087_state.md R312, U21)? -/
def State.npxStoring (s : State) (a : Phys) : Bool :=
  match s.npx.running with
  | none => false
  | some j => j.storesTo a || s.npx.queued.any fun q => q.storesTo a

/-- A job after a write to an address: a write to its operand is a race, which it remembers (R312, U21). -/
def NpxJob.touch (a : Phys) (j : NpxJob) : NpxJob := { j with raced := j.raced || j.touches a }

/-- A write to an address races with the running 8087 operation and with the queued one (R312, U21). -/
def State.npxTouch (a : Phys) (s : State) : State :=
  match s.npx.running with
  | none => s
  | some j => { s with npx := { s.npx with running := some (j.touch a), queued := s.npx.queued.map (NpxJob.touch a) } }

/-- A byte read of the memory space by any bus master: RAM and ROM give their byte, absent memory and a device any value (D7); so
does the destination of an unfinished 8087 store (U21). -/
def busRead8 (a : Phys) (s : State) : Byte × State :=
  match regionAt s.cfg.regions a.toNat with
  | some .absent => drawByte s
  | some .device =>
    let (v, s) := drawByte s
    (v, s.event (.deviceRead a.toNat v))
  | _ => if s.npxStoring a then drawByte s else (s.mem.read a.toNat, s)

/-- A byte write of the memory space by any bus master: ROM and absent memory ignore it (D7). -/
def busWrite8 (a : Phys) (v : Byte) (s : State) : State :=
  match regionAt s.cfg.regions a.toNat with
  | some .rom => s
  | some .absent => s
  | some .device => s.event (.deviceWrite a.toNat v)
  | none => { s.npxTouch a with mem := s.mem.write a.toNat v }

/-- A byte read of a port by any bus master: what the device presents, else any value (R47, log 10). -/
def portRead8 (p : Word) (s : State) : Byte × State :=
  match presented s.io.inputs p.toNat with
  | some v => (v, s.event (.portRead p.toNat v))
  | none =>
    let (v, s) := drawByte s
    (v, s.event (.portRead p.toNat v))

/-- A byte write of a port by any bus master: an event for the platform (R47). -/
def portWrite8 (p : Word) (v : Byte) (s : State) : State := s.event (.portWrite p.toNat v)

/-! ## Other masters, 70_reset_and_hazards.md R307 -/

/-- A channel of the 8089 in a locked transfer keeps the processor and the bus (49_iop_8089.md R463 override 3, R521). -/
def IopChan.holdsBus (c : IopChan) : Bool := c.activity == .transfer && c.locked

/-- A channel of the 8089 holds the bus in a locked transfer (R521). -/
def State.iopHolds (s : State) : Bool := s.cfg.hasIop && (s.iop.ch1.holdsBus || s.iop.ch2.holdsBus)

/-- May another master make a bus cycle: no LOCK of the CPU, no locked transfer (20_memory.md R43, log 60)? -/
def State.busFree (s : State) : Bool := !s.ctl.latches.lock && !s.iopHolds

/-- An access of another master: it reaches memory and the devices, not the control block inside the 80186,188, and raises no attention of
the 8089 (the move `ca` does; log 7). -/
def busAccess (c : BusAccess) (s : State) : State :=
  match c with
  | .read a => (busRead8 (BitVec.ofNat 20 a) s).2
  | .write a v => busWrite8 (BitVec.ofNat 20 a) v s
  | .portRead p => (portRead8 (BitVec.ofNat 16 p) s).2
  | .portWrite p v => portWrite8 (BitVec.ofNat 16 p) v s

/-- Before a bus cycle of the CPU, of a DMA channel or of the 8089 another master takes its turn (R307, 20_memory.md R41, 49_iop_8089.md
R529). Under LOCK it waits (R43, R521). A cycle `joined` to the one before it, the second half of a word of the CPU at an odd address,
keeps out a master that asks by HOLD or RQ/GT (60_exceptions.md R276), not one behind a bus arbiter (R41; DEDUCED, log 7). -/
def State.yieldBus (joined : Bool) (s : State) : State :=
  match s.turns with
  | [] => s
  | t :: rest =>
    if !s.busFree || (joined && t.hold) then s
    else t.accesses.foldl (fun u c => busAccess c u) { s with turns := rest }

/-- Between the halves of a word whose first byte is at an odd address or not: a word at an even address is one cycle on a 16-bit bus
(20_memory.md R32, R41). -/
def State.yieldHalf (odd : Bool) (s : State) : State := if !odd && s.cfg.wide then s else s.yieldBus odd

/-! ## The CPU and the DMA channels -/

/-- A byte read cycle of the CPU or a DMA channel: in the control block it reads any value (U17, log 27). -/
def readCycle (a : Phys) (s : State) : Byte × State :=
  if s.pcbMem a then drawByte s else busRead8 a (s.touchCa true a.toNat)

/-- A byte write cycle of the CPU or a DMA channel: the control block ignores byte writes (U17, log 27). -/
def writeCycle (a : Phys) (v : Byte) (s : State) : State :=
  if s.pcbMem a then s else busWrite8 a v (s.touchCa true a.toNat)

/-- `MemRead(a, 1)` of the CPU or a DMA channel (R31). -/
def memRead8 (a : Phys) (s : State) : Byte × State := readCycle a (s.yieldBus false)

/-- `MemWrite(a, 1, v)` of the CPU or a DMA channel (R31). -/
def memWrite8 (a : Phys) (v : Byte) (s : State) : State := writeCycle a v (s.yieldBus false)

/-- A word access of the control block: even address, the second byte next to it (R531). -/
def State.pcbMemWord (s : State) (a a2 : Phys) : Bool := s.pcbMem a && !a.getLsbD 0 && a2 == a + 1

/-- The cycles of `MemRead(a, 2)` with its second byte at `a2` (R31). -/
def readWord (a a2 : Phys) (s : State) : Word × State :=
  if s.pcbMemWord a a2 then s.pcbRead (a.toNat % 256)
  else
    let (lo, s) := readCycle a s
    let (hi, s) := readCycle a2 (s.yieldHalf (a.getLsbD 0))
    (Word.mk hi lo, s)

/-- The cycles of `MemWrite(a, 2, v)` with its second byte at `a2` (R31). -/
def writeWord (a a2 : Phys) (v : Word) (s : State) : State :=
  if s.pcbMemWord a a2 then s.pcbWrite (a.toNat % 256) v
  else writeCycle a2 v.hi ((writeCycle a v.lo s).yieldHalf (a.getLsbD 0))

/-- `MemRead(a, 2)` of the CPU or a DMA channel (R31). -/
def memRead16 (a a2 : Phys) (s : State) : Word × State := readWord a a2 (s.yieldBus false)

/-- `MemWrite(a, 2, v)` of the CPU or a DMA channel (R31). -/
def memWrite16 (a a2 : Phys) (v : Word) (s : State) : State := writeWord a a2 v (s.yieldBus false)

/-- A byte read cycle of a port (R47; R531 and U17 for the control block). -/
def inCycle (p : Word) (s : State) : Byte × State :=
  if s.pcbIo p then drawByte s else portRead8 p s

/-- A byte write cycle of a port; one to an attention port raises the attention (49_iop_8089.md R456). -/
def outCycle (p : Word) (v : Byte) (s : State) : State :=
  if s.pcbIo p then s else (portWrite8 p v s).touchCa false p.toNat

/-- `IoRead8` of the CPU or a DMA channel (R47). -/
def ioRead8 (p : Word) (s : State) : Byte × State := inCycle p (s.yieldBus false)

/-- `IoWrite8` of the CPU or a DMA channel (R47). -/
def ioWrite8 (p : Word) (v : Byte) (s : State) : State := outCycle p v (s.yieldBus false)

/-- The cycles of `IoRead16` (R47); the byte after port FFFFH is port 0 (D8). -/
def inWord (p : Word) (s : State) : Word × State :=
  if s.pcbIo p && !p.getLsbD 0 then s.pcbRead (p.toNat % 256)
  else
    let (lo, s) := inCycle p s
    let (hi, s) := inCycle (p + 1) (s.yieldHalf (p.getLsbD 0))
    (Word.mk hi lo, s)

/-- The cycles of `IoWrite16` (R47, D8). -/
def outWord (p : Word) (v : Word) (s : State) : State :=
  if s.pcbIo p && !p.getLsbD 0 then s.pcbWrite (p.toNat % 256) v
  else outCycle (p + 1) v.hi ((outCycle p v.lo s).yieldHalf (p.getLsbD 0))

/-- `IoRead16` of the CPU or a DMA channel (R47). -/
def ioRead16 (p : Word) (s : State) : Word × State := inWord p (s.yieldBus false)

/-- `IoWrite16` of the CPU or a DMA channel (R47). -/
def ioWrite16 (p : Word) (v : Word) (s : State) : State := outWord p v (s.yieldBus false)

end Sys2Proof.Machine
end

