-- ==== Sys2Proof/Machine/Flags.lean ====
section
/-! DEFINITION. The flags (10_state.md R18 to R22): the general rules of the status flags, the flag image, undefined flags. -/

namespace Sys2Proof.Machine

/-- PF (R20): an even number of 1 bits in a byte. -/
def evenParity (b : Byte) : Bool :=
  !(b.getLsbD 0 ^^ b.getLsbD 1 ^^ b.getLsbD 2 ^^ b.getLsbD 3 ^^ b.getLsbD 4 ^^ b.getLsbD 5 ^^ b.getLsbD 6 ^^ b.getLsbD 7)

/-- `SetSZP_N(r)` (R20). -/
def Flags.setSZP {n : Nat} (f : Flags) (r : BitVec n) : Flags :=
  { f with sf := r.msb, zf := r == 0, pf := evenParity (r.setWidth 8) }

/-- The sum `a + b + c` (R20). -/
def sum {n : Nat} (a b : BitVec n) (c : Bool) : BitVec n := a + b + BitVec.ofNat n c.toNat

/-- The difference `a − b − c` (R20). -/
def diff {n : Nat} (a b : BitVec n) (c : Bool) : BitVec n := a - b - BitVec.ofNat n c.toNat

/-- All six status flags after the addition `a + b + c` (R20). -/
def Flags.addition {n : Nat} (f : Flags) (a b : BitVec n) (c : Bool) : Flags :=
  let r := sum a b c
  { f.setSZP r with
    cf := 2 ^ n ≤ a.toNat + b.toNat + c.toNat
    af := 16 ≤ a.toNat % 16 + b.toNat % 16 + c.toNat
    of := a.msb == b.msb && r.msb != a.msb }

/-- All six status flags after the subtraction `a − b − c` (R20). -/
def Flags.subtraction {n : Nat} (f : Flags) (a b : BitVec n) (c : Bool) : Flags :=
  let r := diff a b c
  { f.setSZP r with
    cf := a.toNat < b.toNat + c.toNat
    af := a.toNat % 16 < b.toNat % 16 + c.toNat
    of := a.msb != b.msb && r.msb != a.msb }

/-- The flags after a logical operation with result `r`: CF and OF cleared, SF, ZF, PF from the result; AF is undefined and left
to `scramble` (42_bit_manipulation.md R140). -/
def Flags.logic {n : Nat} (f : Flags) (r : BitVec n) : Flags :=
  { f.setSZP r with cf := false, of := false }

/-- The bits 1, 3, 5, 12 to 15 of a flag image (R19). -/
def imageFillBits : Word := 0xF02A

/-- `FlagsImage16` with the given fill (R22). -/
def Flags.image (f : Flags) (fill : Word) : Word :=
  (fill &&& imageFillBits)
    ||| BitVec.ofNat 16
      (f.cf.toNat + 4 * f.pf.toNat + 16 * f.af.toNat + 64 * f.zf.toNat + 128 * f.sf.toNat + 256 * f.tf.toNat
        + 512 * f.ie.toNat + 1024 * f.df.toNat + 2048 * f.of.toNat)

/-- `LoadFlags16` (R22). -/
def Flags.ofImage (w : Word) : Flags where
  cf := w.getLsbD 0
  pf := w.getLsbD 2
  af := w.getLsbD 4
  zf := w.getLsbD 6
  sf := w.getLsbD 7
  tf := w.getLsbD 8
  ie := w.getLsbD 9
  df := w.getLsbD 10
  of := w.getLsbD 11

/-- The five flags of SAHF from AH (R22). -/
def Flags.loadLow (f : Flags) (b : Byte) : Flags :=
  { f with cf := b.getLsbD 0, pf := b.getLsbD 2, af := b.getLsbD 4, zf := b.getLsbD 6, sf := b.getLsbD 7 }

/-- The flag image the machine stores: its undefined bits are a fresh free value (D1, log 4). -/
def flagsImage (s : State) : Word × State := (s.flags.image (Config.freeFill s.fresh), s.draw)

/-- A set of status flags, for those an instruction leaves undefined. -/
structure FlagSet where
  cf : Bool := false
  pf : Bool := false
  af : Bool := false
  zf : Bool := false
  sf : Bool := false
  of : Bool := false
deriving DecidableEq, Repr

/-- Give the flags of a set the free values `v` (U9). -/
def Flags.scrambled (f : Flags) (m : FlagSet) (v : BitVec 6) : Flags :=
  { f with
    cf := if m.cf then v.getLsbD 0 else f.cf
    pf := if m.pf then v.getLsbD 1 else f.pf
    af := if m.af then v.getLsbD 2 else f.af
    zf := if m.zf then v.getLsbD 3 else f.zf
    sf := if m.sf then v.getLsbD 4 else f.sf
    of := if m.of then v.getLsbD 5 else f.of }

/-- Replace the flags. -/
def State.setFlags (f : Flags) (s : State) : State := { s with flags := f }

/-- The flags of a set become undefined: free values, drawn once (U9, U15, log 25). -/
def scramble (m : FlagSet) (s : State) : State :=
  { s with flags := s.flags.scrambled m (Config.freeFlags s.fresh), fresh := s.fresh + 1 }

end Sys2Proof.Machine
end

