-- ==== Sys2Proof/Machine/Ops.lean ====
section
/-! DEFINITION. The named operations over registers and memory every instruction uses: registers (10_state.md R14), physical
addresses and segmented accesses (20_memory.md R33 to R38), the stack (R40), taking an interrupt (60_exceptions.md R253) and
returning from one (44_control_transfer.md R219). -/

namespace Sys2Proof.Machine

/-! ## Registers -/

/-- A 16-bit general register (R14). -/
def Regs.get (g : Regs) : Reg → Word
  | .ax => g.ax
  | .cx => g.cx
  | .dx => g.dx
  | .bx => g.bx
  | .sp => g.sp
  | .bp => g.bp
  | .si => g.si
  | .di => g.di

/-- Write a 16-bit general register. -/
def Regs.set (g : Regs) (r : Reg) (v : Word) : Regs :=
  match r with
  | .ax => { g with ax := v }
  | .cx => { g with cx := v }
  | .dx => { g with dx := v }
  | .bx => { g with bx := v }
  | .sp => { g with sp := v }
  | .bp => { g with bp := v }
  | .si => { g with si := v }
  | .di => { g with di := v }

/-- An 8-bit register: a half of AX, CX, DX or BX (R14). -/
def Regs.get8 (g : Regs) : Reg8 → Byte
  | .al => g.ax.lo
  | .cl => g.cx.lo
  | .dl => g.dx.lo
  | .bl => g.bx.lo
  | .ah => g.ax.hi
  | .ch => g.cx.hi
  | .dh => g.dx.hi
  | .bh => g.bx.hi

/-- Write an 8-bit register: the other half stays (R14). -/
def Regs.set8 (g : Regs) (r : Reg8) (v : Byte) : Regs :=
  match r with
  | .al => { g with ax := Word.mk g.ax.hi v }
  | .cl => { g with cx := Word.mk g.cx.hi v }
  | .dl => { g with dx := Word.mk g.dx.hi v }
  | .bl => { g with bx := Word.mk g.bx.hi v }
  | .ah => { g with ax := Word.mk v g.ax.lo }
  | .ch => { g with cx := Word.mk v g.cx.lo }
  | .dh => { g with dx := Word.mk v g.dx.lo }
  | .bh => { g with bx := Word.mk v g.bx.lo }

def State.get (s : State) (r : Reg) : Word := s.regs.get r
def State.set (r : Reg) (v : Word) (s : State) : State := { s with regs := s.regs.set r v }
def State.get8 (s : State) (r : Reg8) : Byte := s.regs.get8 r
def State.set8 (r : Reg8) (v : Byte) (s : State) : State := { s with regs := s.regs.set8 r v }

/-- The register a reg field names, at the width of the `w` bit (30_encoding.md R54). -/
def State.getReg (s : State) : (w : Width) → Reg → BitVec w.bits
  | .byte, r => s.get8 r.half
  | .word, r => s.get r

/-- Write it. -/
def State.setReg : (w : Width) → Reg → BitVec w.bits → State → State
  | .byte, r, v, s => s.set8 r.half v
  | .word, r, v, s => s.set r v

/-- A segment register (R16). -/
def Segs.get (g : Segs) : SReg → Word
  | .es => g.es
  | .cs => g.cs
  | .ss => g.ss
  | .ds => g.ds

/-- Write a segment register. -/
def Segs.set (g : Segs) (r : SReg) (v : Word) : Segs :=
  match r with
  | .es => { g with es := v }
  | .cs => { g with cs := v }
  | .ss => { g with ss := v }
  | .ds => { g with ds := v }

def State.setSeg (r : SReg) (v : Word) (s : State) : State := { s with segs := s.segs.set r v }
def State.setIp (v : Word) (s : State) : State := { s with ip := v }

/-- `SegFor(default)`: the override segment if one is latched, else the default; its value (20_memory.md R35). -/
def State.segFor (s : State) (d : SReg) : Word := s.segs.get (s.ctl.latches.seg.getD d)

/-! ## Segmented memory, 20_memory.md R33 to R38 -/

/-- `Phys(seg, off)`: seg * 16 + off on 20 bits (R33; D3, log 12). -/
def phys (seg off : Word) : Phys := (seg ++ (0 : BitVec 4)) + off.setWidth 20

/-- `NextByteAddr` (R38): past offset FFFFH the 8086,88 wrap to offset 0, the 80186,188 go to 10000H (D4, log 12). -/
def nextByte (is186 : Bool) (seg off : Word) : Phys :=
  if off = 0xFFFF then
    if is186 then (seg ++ (0 : BitVec 4)) + 0x10000 else phys seg 0
  else phys seg (off + 1)

/-- A segmented read of the given width (R36, R37). -/
def readMem : (w : Width) → (seg off : Word) → State → BitVec w.bits × State
  | .byte, seg, off, s => memRead8 (phys seg off) s
  | .word, seg, off, s => memRead16 (phys seg off) (nextByte s.is186 seg off) s

/-- A segmented write of the given width (R36, R38). -/
def writeMem : (w : Width) → (seg off : Word) → BitVec w.bits → State → State
  | .byte, seg, off, v, s => memWrite8 (phys seg off) v s
  | .word, seg, off, v, s => memWrite16 (phys seg off) (nextByte s.is186 seg off) v s

/-- A doubleword pointer: offset word, then segment word two bytes on (R39); the offset sum wraps at 16 bits (R36). -/
def readPointer (seg off : Word) (s : State) : (Word × Word) × State :=
  let (o, s) := readMem .word seg off s
  let (g, s) := readMem .word seg (off + 2) s
  ((o, g), s)

/-! ## The stack, R40 -/

/-- `Push16` (R40). -/
def push16 (v : Word) (s : State) : State :=
  let s := s.set .sp (s.get .sp - 2)
  writeMem .word s.segs.ss (s.get .sp) v s

/-- `Pop16` (R40). -/
def pop16 (s : State) : Word × State :=
  let (v, s) := readMem .word s.segs.ss (s.get .sp) s
  (v, s.set .sp (s.get .sp + 2))

/-! ## Interrupts, 60_exceptions.md R252 to R254 -/

/-- A word of the interrupt pointer table, by physical address (R252). -/
def vectorWord (a : Phys) (s : State) : Word × State := memRead16 a (a + 1) s

/-- The address of a table entry (R252). -/
def vectorAddr (t : Byte) : Phys := t.setWidth 20 <<< 2

/-- `Interrupt(t)` (R253): flags image, IF and TF cleared, CS, CS loaded, the saved IP, IP loaded. DEDUCED (log 64): the reads come in the
order of R253's operation box (20_memory.md R42); R41's "offset word first at the lower address" is read as the place of that word in the
doubleword. -/
def interrupt (t : Byte) (savedIp : Word) (s : State) : State :=
  let (image, s) := flagsImage s
  let s := push16 image s
  let s := s.setFlags { s.flags with ie := false, tf := false }
  let s := push16 s.segs.cs s
  let (cs, s) := vectorWord (vectorAddr t + 2) s
  let s := s.setSeg .cs cs
  let s := push16 savedIp s
  let (ip, s) := vectorWord (vectorAddr t) s
  s.setIp ip

/-- The return from an interrupt procedure (IRET, 44_control_transfer.md R219): IP, CS, flags popped; a change of IF from 0 to 1
delays INTR by one instruction (R261); on the 80186,188 DHLT is cleared (61_186_peripherals.md R584, C37). -/
def interruptReturn (s : State) : State :=
  let (ip, s) := pop16 s
  let s := s.setIp ip
  let (cs, s) := pop16 s
  let s := s.setSeg .cs cs
  let (image, s) := pop16 s
  let f := Flags.ofImage image
  let delay := f.ie && !s.flags.ie
  let s := s.setFlags f
  let s := { s with ctl := { s.ctl with intrDelay := s.ctl.intrDelay || delay } }
  if s.is186 then s.setIc { s.pcb.ic with dhlt := false } else s

/-- Set `int_inhibit` (R261): after MOV or POP to a segment register. -/
def State.inhibit (s : State) : State := { s with ctl := { s.ctl with intInhibit := true } }

end Sys2Proof.Machine
end

