-- ==== Sys2Proof/Machine/Operands.lean ====
section
/-! DEFINITION. The operand forms (30_encoding.md R54, R55, R58, R60, R61): effective addresses, register-or-memory operands,
immediates, the accumulator, relative targets. -/

namespace Sys2Proof.Machine

/-- The base and index sum of an r/m row (R55). -/
def Base.sum (s : State) : Base → Word
  | .bxsi => s.get .bx + s.get .si
  | .bxdi => s.get .bx + s.get .di
  | .bpsi => s.get .bp + s.get .si
  | .bpdi => s.get .bp + s.get .di
  | .si => s.get .si
  | .di => s.get .di
  | .bp => s.get .bp
  | .bx => s.get .bx

/-- The default segment of an r/m row (R55): SS with BP as base, else DS. -/
def Base.seg : Base → SReg
  | .bpsi => .ss
  | .bpdi => .ss
  | .bp => .ss
  | _ => .ds

/-- `EAoff` (R55, R61): the sum is modulo 2^16, a one-byte displacement is sign-extended. A register operand has none; 0 stands
for it and is never used. -/
def eaOff (s : State) : Rm → Word
  | .reg _ => 0
  | .ind b => Base.sum s b
  | .disp8 b d => Base.sum s b + d.signExtend 16
  | .disp16 b d => Base.sum s b + d
  | .direct a => a

/-- The default segment of an operand (R55). -/
def Rm.seg : Rm → SReg
  | .reg _ => .ds
  | .ind b => Base.seg b
  | .disp8 b _ => Base.seg b
  | .disp16 b _ => Base.seg b
  | .direct _ => .ds

/-- The value of the segment register an operand is reached through (R61). -/
def eaSeg (s : State) (rm : Rm) : Word := s.segFor (Rm.seg rm)

/-- `ReadEA(w)` (R61). -/
def readRm (w : Width) (rm : Rm) (s : State) : BitVec w.bits × State :=
  match rm with
  | .reg r => (s.getReg w r, s)
  | _ => readMem w (eaSeg s rm) (eaOff s rm) s

/-- `WriteEA(w, v)` (R61). -/
def writeRm (w : Width) (rm : Rm) (v : BitVec w.bits) (s : State) : State :=
  match rm with
  | .reg r => s.setReg w r v
  | _ => writeMem w (eaSeg s rm) (eaOff s rm) v s

/-- The pointer at a memory operand: offset word, segment word (R39). -/
def readRmPointer (rm : Rm) (s : State) : (Word × Word) × State := readPointer (eaSeg s rm) (eaOff s rm) s

/-- The value of an immediate at its width (R60). -/
def Imm.value : (i : Imm) → BitVec i.width.bits
  | .byte b => b
  | .word v => v

/-- The width of a `100000sw` form (R60). -/
def ImmS.width : ImmS → Width
  | .byte _ => .byte
  | .word _ => .word
  | .byteAlias _ => .byte
  | .sext _ => .word

/-- Its value: 83H sign-extends (R60). -/
def ImmS.value : (i : ImmS) → BitVec (ImmS.width i).bits
  | .byte b => b
  | .word v => v
  | .byteAlias b => b
  | .sext b => b.signExtend 16

/-- The accumulator, AL or AX (R15). -/
def State.acc (s : State) (w : Width) : BitVec w.bits := s.getReg w .ax

/-- Write the accumulator. -/
def State.setAcc (w : Width) (v : BitVec w.bits) (s : State) : State := s.setReg w .ax v

/-- A relative target with a one-byte displacement (R60). -/
def relShort (s : State) (d : Byte) : Word := s.ip + d.signExtend 16

/-- A relative target with a two-byte displacement (R60). -/
def relNear (s : State) (d : Word) : Word := s.ip + d

/-- An instruction of the 80186,188 only: on an 8086 or 8088 it is refused (U8, D11; log 14). -/
def only186 (s : State) (k : State → State) : Host.Outcome State Fault Refusal :=
  if s.is186 then .next (k s) else .refused .opcodeOf80186

end Sys2Proof.Machine
end

