-- ==== Sys2Proof/Machine/Arith.lean ====
section
/-! DEFINITION. The arithmetic instructions (41_arithmetic.md R110 to R133), and the shared two-operand forms of R111 that the logical
instructions use too -/

namespace Sys2Proof.Machine

/-! ## The two-operand forms, R111 -/

/-- A two-operand function on N bits: result and flags. -/
abbrev BinOp := (n : Nat) → BitVec n → BitVec n → Flags → BitVec n × Flags

/-- ADD (R112). -/
def addOp : BinOp := fun _ a b f => (sum a b false, f.addition a b false)
/-- ADC (R113). -/
def adcOp : BinOp := fun _ a b f => (sum a b f.cf, f.addition a b f.cf)
/-- SUB and CMP (R117, R121). -/
def subOp : BinOp := fun _ a b f => (diff a b false, f.subtraction a b false)
/-- SBB (R118). -/
def sbbOp : BinOp := fun _ a b f => (diff a b f.cf, f.subtraction a b f.cf)

/-- The register/memory with register form (R111): `a` is LSRC, `b` is RSRC. `undef`: the flags the instruction leaves undefined;
`store`: whether the result goes to the destination (CMP and TEST only set flags). -/
def binRmReg (op : BinOp) (undef : Option FlagSet) (store : Bool) (dir : Dir) (w : Width) (rm : Rm) (r : Reg) (s : State) : State :=
  let (m, s) := readRm w rm s
  let g := s.getReg w r
  let (res, f) :=
    match dir with
    | .toRm => op w.bits m g s.flags
    | .toReg => op w.bits g m s.flags
  let s := s.setFlags f
  let s := (undef.map (scramble · s)).getD s
  if store then
    match dir with
    | .toRm => writeRm w rm res s
    | .toReg => s.setReg w r res
  else s

/-- The immediate to register/memory form (R111). -/
def binRmVal (op : BinOp) (undef : Option FlagSet) (store : Bool) (w : Width) (rm : Rm) (b : BitVec w.bits) (s : State) : State :=
  let (a, s) := readRm w rm s
  let (res, f) := op w.bits a b s.flags
  let s := s.setFlags f
  let s := (undef.map (scramble · s)).getD s
  if store then writeRm w rm res s else s

/-- The immediate to accumulator form (R111). -/
def binAccVal (op : BinOp) (undef : Option FlagSet) (store : Bool) (w : Width) (b : BitVec w.bits) (s : State) : State :=
  let (res, f) := op w.bits (s.acc w) b s.flags
  let s := s.setFlags f
  let s := (undef.map (scramble · s)).getD s
  if store then s.setAcc w res else s

/-- ADD r/m with reg (R112). -/
def execAddRmReg (dir : Dir) (w : Width) (rm : Rm) (r : Reg) (s : State) : Host.Outcome State Fault Refusal :=
  .next (binRmReg addOp none true dir w rm r s)

/-- ADD r/m, immediate (R112). -/
def execAddRmImm (rm : Rm) (imm : ImmS) (s : State) : Host.Outcome State Fault Refusal :=
  .next (binRmVal addOp none true (ImmS.width imm) rm (ImmS.value imm) s)

/-- ADD accumulator, immediate (R112). -/
def execAddAccImm (imm : Imm) (s : State) : Host.Outcome State Fault Refusal :=
  .next (binAccVal addOp none true imm.width (Imm.value imm) s)

/-- ADC r/m with reg (R113). -/
def execAdcRmReg (dir : Dir) (w : Width) (rm : Rm) (r : Reg) (s : State) : Host.Outcome State Fault Refusal :=
  .next (binRmReg adcOp none true dir w rm r s)

/-- ADC r/m, immediate (R113). -/
def execAdcRmImm (rm : Rm) (imm : ImmS) (s : State) : Host.Outcome State Fault Refusal :=
  .next (binRmVal adcOp none true (ImmS.width imm) rm (ImmS.value imm) s)

/-- ADC accumulator, immediate (R113). -/
def execAdcAccImm (imm : Imm) (s : State) : Host.Outcome State Fault Refusal :=
  .next (binAccVal adcOp none true imm.width (Imm.value imm) s)

/-- SUB r/m with reg (R117). -/
def execSubRmReg (dir : Dir) (w : Width) (rm : Rm) (r : Reg) (s : State) : Host.Outcome State Fault Refusal :=
  .next (binRmReg subOp none true dir w rm r s)

/-- SUB r/m, immediate (R117). -/
def execSubRmImm (rm : Rm) (imm : ImmS) (s : State) : Host.Outcome State Fault Refusal :=
  .next (binRmVal subOp none true (ImmS.width imm) rm (ImmS.value imm) s)

/-- SUB accumulator, immediate (R117). -/
def execSubAccImm (imm : Imm) (s : State) : Host.Outcome State Fault Refusal :=
  .next (binAccVal subOp none true imm.width (Imm.value imm) s)

/-- SBB r/m with reg (R118). -/
def execSbbRmReg (dir : Dir) (w : Width) (rm : Rm) (r : Reg) (s : State) : Host.Outcome State Fault Refusal :=
  .next (binRmReg sbbOp none true dir w rm r s)

/-- SBB r/m, immediate (R118). -/
def execSbbRmImm (rm : Rm) (imm : ImmS) (s : State) : Host.Outcome State Fault Refusal :=
  .next (binRmVal sbbOp none true (ImmS.width imm) rm (ImmS.value imm) s)

/-- SBB accumulator, immediate (R118). -/
def execSbbAccImm (imm : Imm) (s : State) : Host.Outcome State Fault Refusal :=
  .next (binAccVal sbbOp none true imm.width (Imm.value imm) s)

/-- CMP r/m with reg (R121). -/
def execCmpRmReg (dir : Dir) (w : Width) (rm : Rm) (r : Reg) (s : State) : Host.Outcome State Fault Refusal :=
  .next (binRmReg subOp none false dir w rm r s)

/-- CMP r/m, immediate (R121). -/
def execCmpRmImm (rm : Rm) (imm : ImmS) (s : State) : Host.Outcome State Fault Refusal :=
  .next (binRmVal subOp none false (ImmS.width imm) rm (ImmS.value imm) s)

/-- CMP accumulator, immediate (R121). -/
def execCmpAccImm (imm : Imm) (s : State) : Host.Outcome State Fault Refusal :=
  .next (binAccVal subOp none false imm.width (Imm.value imm) s)

/-! ## INC, DEC, NEG -/

/-- A one-operand function on r/m: read once, flags, write once (30_encoding.md R61). -/
def unaryRm (op : (n : Nat) → BitVec n → Flags → BitVec n × Flags) (w : Width) (rm : Rm) (s : State) : State :=
  let (a, s) := readRm w rm s
  let (res, f) := op w.bits a s.flags
  writeRm w rm res (s.setFlags f)

/-- INC (R114): CF unchanged. -/
def incOp (n : Nat) (a : BitVec n) (f : Flags) : BitVec n × Flags :=
  (a + 1, { f.setSZP (a + 1) with af := a.toNat % 16 == 15, of := a.toNat == 2 ^ (n - 1) - 1 })

/-- DEC (R119): CF unchanged. -/
def decOp (n : Nat) (a : BitVec n) (f : Flags) : BitVec n × Flags :=
  (a - 1, { f.setSZP (a - 1) with af := a.toNat % 16 == 0, of := a.toNat == 2 ^ (n - 1) })

/-- NEG (R120). -/
def negOp (n : Nat) (a : BitVec n) (f : Flags) : BitVec n × Flags :=
  (-a, { f.setSZP (-a) with cf := a != 0, af := a.toNat % 16 != 0, of := a.toNat == 2 ^ (n - 1) })

/-- INC r/m (R114). -/
def execIncRm (w : Width) (rm : Rm) (s : State) : Host.Outcome State Fault Refusal := .next (unaryRm incOp w rm s)
/-- INC reg16 (R114). -/
def execIncReg (r : Reg) (s : State) : Host.Outcome State Fault Refusal := .next (unaryRm incOp .word (.reg r) s)
/-- DEC r/m (R119). -/
def execDecRm (w : Width) (rm : Rm) (s : State) : Host.Outcome State Fault Refusal := .next (unaryRm decOp w rm s)
/-- DEC reg16 (R119). -/
def execDecReg (r : Reg) (s : State) : Host.Outcome State Fault Refusal := .next (unaryRm decOp .word (.reg r) s)
/-- NEG r/m (R120). -/
def execNegRm (w : Width) (rm : Rm) (s : State) : Host.Outcome State Fault Refusal := .next (unaryRm negOp w rm s)

/-! ## Decimal and ASCII adjustment (total on every input, U11) -/

/-- The first condition of the four adjustments: a digit above 9, or AF. -/
def adjustLow (s : State) : Bool := 9 < (s.get8 .al).toNat % 16 || s.flags.af

/-- AAA and AAS: AL and AH by `dl` and `dh` when the condition holds; AF and CF tell it (R115, R122). -/
def asciiAdjust (dl dh : Byte) (s : State) : State :=
  let hit := adjustLow s
  let al := if hit then s.get8 .al + dl else s.get8 .al
  let ah := if hit then s.get8 .ah + dh else s.get8 .ah
  let s := (s.set8 .ah ah).set8 .al (al &&& 0x0F)
  scramble { pf := true, zf := true, sf := true, of := true } (s.setFlags { s.flags with af := hit, cf := hit })

/-- AAA (R115). -/
def execAaa (s : State) : Host.Outcome State Fault Refusal := .next (asciiAdjust 6 1 s)
/-- AAS (R122). -/
def execAas (s : State) : Host.Outcome State Fault Refusal := .next (asciiAdjust (-6) (-1) s)

/-- DAA and DAS: the low step, then the high step on AL as changed and CF as it was (R116, R123). -/
def decimalAdjust (dl dh : Byte) (s : State) : State :=
  let hit := adjustLow s
  let al := if hit then s.get8 .al + dl else s.get8 .al
  let hit2 := 0x9F < al.toNat || s.flags.cf
  let al := if hit2 then al + dh else al
  let s := s.set8 .al al
  scramble { of := true } (s.setFlags { s.flags.setSZP al with af := hit, cf := hit2 })

/-- DAA (R116). -/
def execDaa (s : State) : Host.Outcome State Fault Refusal := .next (decimalAdjust 6 0x60 s)
/-- DAS (R123). -/
def execDas (s : State) : Host.Outcome State Fault Refusal := .next (decimalAdjust (-6) (-0x60) s)

/-- AAM (R127): flags from the new AL (D14, log 16). -/
def execAam (s : State) : Host.Outcome State Fault Refusal :=
  let t := (s.get8 .al).toNat
  let al := BitVec.ofNat 8 (t % 10)
  let s := (s.set8 .ah (BitVec.ofNat 8 (t / 10))).set8 .al al
  .next (scramble { cf := true, af := true, of := true } (s.setFlags (s.flags.setSZP al)))

/-- AAD (R130). -/
def execAad (s : State) : Host.Outcome State Fault Refusal :=
  let al := s.get8 .ah * 10 + s.get8 .al
  let s := (s.set8 .ah 0).set8 .al al
  .next (scramble { cf := true, af := true, of := true } (s.setFlags (s.flags.setSZP al)))

/-! ## Multiplication -/

/-- The flags a multiplication leaves undefined (R124 to R126). -/
def mulUndefined : FlagSet := { pf := true, af := true, zf := true, sf := true }

/-- Store a double-width product: AX for a byte, DX:AX for a word. -/
def setProduct (w : Width) (p : BitVec 32) (s : State) : State :=
  match w with
  | .byte => s.set .ax (p.setWidth 16)
  | .word => (s.set .dx (p.extractLsb' 16 16)).set .ax (p.setWidth 16)

/-- CF and OF, then the undefined flags. -/
def mulFlags (c : Bool) (s : State) : State :=
  scramble mulUndefined (s.setFlags { s.flags with cf := c, of := c })

/-- MUL (R124). -/
def execMulRm (w : Width) (rm : Rm) (s : State) : Host.Outcome State Fault Refusal :=
  let (b, s) := readRm w rm s
  let p := (s.acc w).toNat * b.toNat
  .next (mulFlags (2 ^ w.bits ≤ p) (setProduct w (BitVec.ofNat 32 p) s))

/-- IMUL, one operand (R125): CF = OF = the product is not the sign extension of its lower half. -/
def execImulRm (w : Width) (rm : Rm) (s : State) : Host.Outcome State Fault Refusal :=
  let (b, s) := readRm w rm s
  let p := (s.acc w).toInt * b.toInt
  .next (mulFlags (p != (BitVec.ofInt w.bits p).toInt) (setProduct w (BitVec.ofInt 32 p) s))

/-- IMUL by an immediate (R126; D13, log 16). -/
def imulImm (r : Reg) (rm : Rm) (imm : Word) (s : State) : State :=
  let (b, s) := readRm .word rm s
  let p := (show Word from b).toInt * imm.toInt
  let v : Word := BitVec.ofInt 16 p
  mulFlags (p != v.toInt) (s.set r v)

/-- IMUL reg16, r/m16, imm16 (R126), 80186,188. -/
def execImulImm16 (r : Reg) (rm : Rm) (imm : Word) (s : State) : Host.Outcome State Fault Refusal := only186 s (imulImm r rm imm)
/-- IMUL reg16, r/m16, imm8 (R126), 80186,188. -/
def execImulImm8 (r : Reg) (rm : Rm) (imm : Byte) (s : State) : Host.Outcome State Fault Refusal :=
  only186 s (imulImm r rm (imm.signExtend 16))

/-! ## Division -/

/-- All six status flags undefined (R128, R129). -/
def allUndefined : FlagSet := { cf := true, pf := true, af := true, zf := true, sf := true, of := true }

/-- Store quotient and remainder: AL and AH, or AX and DX. -/
def setQuotient (w : Width) (q r : Word) (s : State) : State :=
  match w with
  | .byte => (s.set8 .al q.lo).set8 .ah r.lo
  | .word => (s.set .ax q).set .dx r

/-- The dividend: AX, or DX:AX (R128). -/
def dividend (w : Width) (s : State) : BitVec 32 :=
  match w with
  | .byte => (s.get .ax).setWidth 32
  | .word => s.get .dx ++ s.get .ax

/-- The divide error (60_exceptions.md R263): quotient, remainder and flags free (U10, log 26), then type 0; saved IP is the next
instruction. -/
def divideError (w : Width) (s : State) : State :=
  let (q, s) := drawWord s
  let (r, s) := drawWord s
  let s := scramble allUndefined (setQuotient w q r s)
  interrupt 0 s.ip s

/-- A division that succeeds. -/
def divided (w : Width) (q r : Word) (s : State) : State := scramble allUndefined (setQuotient w q r s)

/-- DIV (R128). -/
def execDivRm (w : Width) (rm : Rm) (s : State) : Host.Outcome State Fault Refusal :=
  let (d, s) := readRm w rm s
  let n := (dividend w s).toNat
  if d.toNat = 0 ∨ 2 ^ w.bits ≤ n / d.toNat then .next (divideError w s)
  else .next (divided w (BitVec.ofNat 16 (n / d.toNat)) (BitVec.ofNat 16 (n % d.toNat)) s)

/-- The dividend of IDIV as a signed number: AX on 16 bits, DX:AX on 32 (R129). -/
def signedDividend (w : Width) (s : State) : Int :=
  match w with
  | .byte => (s.get .ax).toInt
  | .word => (s.get .dx ++ s.get .ax).toInt

/-- The smallest quotient IDIV accepts: one less on the 80186,188 (R129, C44). -/
def minQuotient (w : Width) (is186 : Bool) : Int :=
  if is186 then -(2 ^ (w.bits - 1) : Int) else -(2 ^ (w.bits - 1) : Int) + 1

/-- IDIV (R129): truncated toward 0, the remainder has the sign of the dividend. -/
def execIdivRm (w : Width) (rm : Rm) (s : State) : Host.Outcome State Fault Refusal :=
  let (d, s) := readRm w rm s
  let n := signedDividend w s
  let q := n.tdiv d.toInt
  if d.toInt = 0 ∨ (2 ^ (w.bits - 1) : Int) ≤ q ∨ q < minQuotient w s.is186 then .next (divideError w s)
  else .next (divided w (BitVec.ofInt 16 q) (BitVec.ofInt 16 (n.tmod d.toInt)) s)

/-! ## Conversions -/

/-- CBW (R131). -/
def execCbw (s : State) : Host.Outcome State Fault Refusal := .next (s.set .ax ((s.get8 .al).signExtend 16))

/-- CWD (R132). -/
def execCwd (s : State) : Host.Outcome State Fault Refusal :=
  .next (s.set .dx (if (s.get .ax).msb then 0xFFFF else 0))

end Sys2Proof.Machine
end

