-- ==== Sys2Proof/Machine/Bits.lean ====
section
/-! DEFINITION. The bit manipulation instructions (42_bit_manipulation.md R140 to R155): logicals, shifts, rotates. -/

namespace Sys2Proof.Machine

/-! ## Logicals -/

/-- AF, undefined after every logical instruction (R140). -/
def logicUndefined : FlagSet := { af := true }

/-- AND and TEST (R142, R145). -/
def andOp : BinOp := fun _ a b f => (a &&& b, f.logic (a &&& b))
/-- OR (R143). -/
def orOp : BinOp := fun _ a b f => (a ||| b, f.logic (a ||| b))
/-- XOR (R144). -/
def xorOp : BinOp := fun _ a b f => (a ^^^ b, f.logic (a ^^^ b))

/-- OR r/m with reg (R143). -/
def execOrRmReg (dir : Dir) (w : Width) (rm : Rm) (r : Reg) (s : State) : Host.Outcome State Fault Refusal :=
  .next (binRmReg orOp (some logicUndefined) true dir w rm r s)

/-- OR r/m, immediate (R143). -/
def execOrRmImm (rm : Rm) (imm : Imm) (s : State) : Host.Outcome State Fault Refusal :=
  .next (binRmVal orOp (some logicUndefined) true imm.width rm (Imm.value imm) s)

/-- OR accumulator, immediate (R143). -/
def execOrAccImm (imm : Imm) (s : State) : Host.Outcome State Fault Refusal :=
  .next (binAccVal orOp (some logicUndefined) true imm.width (Imm.value imm) s)

/-- AND r/m with reg (R142). -/
def execAndRmReg (dir : Dir) (w : Width) (rm : Rm) (r : Reg) (s : State) : Host.Outcome State Fault Refusal :=
  .next (binRmReg andOp (some logicUndefined) true dir w rm r s)

/-- AND r/m, immediate (R142). -/
def execAndRmImm (rm : Rm) (imm : Imm) (s : State) : Host.Outcome State Fault Refusal :=
  .next (binRmVal andOp (some logicUndefined) true imm.width rm (Imm.value imm) s)

/-- AND accumulator, immediate (R142). -/
def execAndAccImm (imm : Imm) (s : State) : Host.Outcome State Fault Refusal :=
  .next (binAccVal andOp (some logicUndefined) true imm.width (Imm.value imm) s)

/-- XOR r/m with reg (R144). -/
def execXorRmReg (dir : Dir) (w : Width) (rm : Rm) (r : Reg) (s : State) : Host.Outcome State Fault Refusal :=
  .next (binRmReg xorOp (some logicUndefined) true dir w rm r s)

/-- XOR r/m, immediate (R144). -/
def execXorRmImm (rm : Rm) (imm : Imm) (s : State) : Host.Outcome State Fault Refusal :=
  .next (binRmVal xorOp (some logicUndefined) true imm.width rm (Imm.value imm) s)

/-- XOR accumulator, immediate (R144). -/
def execXorAccImm (imm : Imm) (s : State) : Host.Outcome State Fault Refusal :=
  .next (binAccVal xorOp (some logicUndefined) true imm.width (Imm.value imm) s)

/-- TEST r/m, reg (R145). -/
def execTestRmReg (w : Width) (rm : Rm) (r : Reg) (s : State) : Host.Outcome State Fault Refusal :=
  .next (binRmReg andOp (some logicUndefined) false .toReg w rm r s)

/-- TEST r/m, immediate (R145). -/
def execTestRmImm (rm : Rm) (imm : Imm) (s : State) : Host.Outcome State Fault Refusal :=
  .next (binRmVal andOp (some logicUndefined) false imm.width rm (Imm.value imm) s)

/-- TEST accumulator, immediate (R145). -/
def execTestAccImm (imm : Imm) (s : State) : Host.Outcome State Fault Refusal :=
  .next (binAccVal andOp (some logicUndefined) false imm.width (Imm.value imm) s)

/-- NOT (R141): no flags. -/
def notOp (n : Nat) (a : BitVec n) (f : Flags) : BitVec n × Flags := (~~~a, f)

/-- NOT r/m (R141). -/
def execNotRm (w : Width) (rm : Rm) (s : State) : Host.Outcome State Fault Refusal := .next (unaryRm notOp w rm s)

/-! ## Shifts and rotates -/

/-- The seven operations (R146). -/
inductive ShiftOp where
  | rol | ror | rcl | rcr | shl | shr | sar
deriving DecidableEq, Repr

/-- Does it set SF, ZF, PF (shifts), or only CF and OF (rotates) (R147)? -/
def ShiftOp.isShift : ShiftOp → Bool
  | .rol => false
  | .ror => false
  | .rcl => false
  | .rcr => false
  | .shl => true
  | .shr => true
  | .sar => true

/-- `x` shifted left by one with the given low bit. -/
def shiftLeftIn {n : Nat} (x : BitVec n) (b : Bool) : BitVec n := (x <<< 1) ||| BitVec.ofNat n b.toNat

/-- `x` shifted right by one with the given high bit. -/
def shiftRightIn {n : Nat} (x : BitVec n) (b : Bool) : BitVec n :=
  (x >>> 1) ||| (if b then BitVec.ofNat n (2 ^ (n - 1)) else 0)

/-- One step on the operand and CF (R148 to R154). -/
def ShiftOp.once {n : Nat} (op : ShiftOp) (x : BitVec n) (c : Bool) : BitVec n × Bool :=
  match op with
  | .rol => (shiftLeftIn x x.msb, x.msb)
  | .ror => (shiftRightIn x (x.getLsbD 0), x.getLsbD 0)
  | .rcl => (shiftLeftIn x c, x.msb)
  | .rcr => (shiftRightIn x c, x.getLsbD 0)
  | .shl => (shiftLeftIn x false, x.msb)
  | .shr => (shiftRightIn x false, x.getLsbD 0)
  | .sar => (shiftRightIn x x.msb, x.getLsbD 0)

/-- `count` steps. -/
def ShiftOp.repeated {n : Nat} (op : ShiftOp) : Nat → BitVec n → Bool → BitVec n × Bool
  | 0, x, c => (x, c)
  | k + 1, x, c => op.repeated k (op.once x c).1 (op.once x c).2

/-- OF after a one-bit operation, from the result and the new CF (R148 to R154). -/
def ShiftOp.overflow {n : Nat} (op : ShiftOp) (x : BitVec n) (c : Bool) : Bool :=
  match op with
  | .rol => x.msb != c
  | .rcl => x.msb != c
  | .shl => x.msb != c
  | .sar => false
  | _ => x.msb != x.getLsbD (n - 2)

/-- The flags an operation leaves undefined, by its effective count (R146, R147, U15; SAR clears OF for every count from 1,
R150, C7, log 24). -/
def ShiftOp.undefinedFlags (op : ShiftOp) (count : Nat) : FlagSet :=
  if op.isShift then
    if count = 0 then { pf := true, af := true, zf := true, sf := true, of := true }
    else { af := true, of := count != 1 && op != .sar }
  else { of := count != 1 }

/-- The effective count (R146): masked to five bits on the 80186,188 only. -/
def effectiveCount (s : State) (c : Byte) : Nat := if s.is186 then c.toNat % 32 else c.toNat

/-- A shift or rotate of r/m by a count (R146 to R155). -/
def shiftRm (op : ShiftOp) (w : Width) (rm : Rm) (c : Byte) (s : State) : State :=
  let count := effectiveCount s c
  let (x, s) := readRm w rm s
  let (x', c') := op.repeated count x s.flags.cf
  let f := { s.flags with cf := c', of := op.overflow x' c' }
  let s := s.setFlags (if op.isShift then f.setSZP x' else f)
  writeRm w rm x' (scramble (op.undefinedFlags count) s)

/-- The count of the `v` forms: 1 or CL (R146). -/
def shiftCount (s : State) : ShiftCount → Byte
  | .one => 1
  | .cl => s.get8 .cl

/-- ROL r/m by 1 or CL (R151). -/
def execRolRm (c : ShiftCount) (w : Width) (rm : Rm) (s : State) : Host.Outcome State Fault Refusal :=
  .next (shiftRm .rol w rm (shiftCount s c) s)

/-- ROL r/m by an immediate (R151, R155), 80186,188. -/
def execRolRmImm (w : Width) (rm : Rm) (count : Byte) (s : State) : Host.Outcome State Fault Refusal :=
  only186 s (shiftRm .rol w rm count)

/-- ROR r/m by 1 or CL (R152). -/
def execRorRm (c : ShiftCount) (w : Width) (rm : Rm) (s : State) : Host.Outcome State Fault Refusal :=
  .next (shiftRm .ror w rm (shiftCount s c) s)

/-- ROR r/m by an immediate (R152, R155), 80186,188. -/
def execRorRmImm (w : Width) (rm : Rm) (count : Byte) (s : State) : Host.Outcome State Fault Refusal :=
  only186 s (shiftRm .ror w rm count)

/-- RCL r/m by 1 or CL (R153). -/
def execRclRm (c : ShiftCount) (w : Width) (rm : Rm) (s : State) : Host.Outcome State Fault Refusal :=
  .next (shiftRm .rcl w rm (shiftCount s c) s)

/-- RCL r/m by an immediate (R153, R155), 80186,188. -/
def execRclRmImm (w : Width) (rm : Rm) (count : Byte) (s : State) : Host.Outcome State Fault Refusal :=
  only186 s (shiftRm .rcl w rm count)

/-- RCR r/m by 1 or CL (R154). -/
def execRcrRm (c : ShiftCount) (w : Width) (rm : Rm) (s : State) : Host.Outcome State Fault Refusal :=
  .next (shiftRm .rcr w rm (shiftCount s c) s)

/-- RCR r/m by an immediate (R154, R155), 80186,188. -/
def execRcrRmImm (w : Width) (rm : Rm) (count : Byte) (s : State) : Host.Outcome State Fault Refusal :=
  only186 s (shiftRm .rcr w rm count)

/-- SHL r/m by 1 or CL (R148). -/
def execShlRm (c : ShiftCount) (w : Width) (rm : Rm) (s : State) : Host.Outcome State Fault Refusal :=
  .next (shiftRm .shl w rm (shiftCount s c) s)

/-- SHL r/m by an immediate (R148, R155), 80186,188. -/
def execShlRmImm (w : Width) (rm : Rm) (count : Byte) (s : State) : Host.Outcome State Fault Refusal :=
  only186 s (shiftRm .shl w rm count)

/-- SHR r/m by 1 or CL (R149). -/
def execShrRm (c : ShiftCount) (w : Width) (rm : Rm) (s : State) : Host.Outcome State Fault Refusal :=
  .next (shiftRm .shr w rm (shiftCount s c) s)

/-- SHR r/m by an immediate (R149, R155), 80186,188. -/
def execShrRmImm (w : Width) (rm : Rm) (count : Byte) (s : State) : Host.Outcome State Fault Refusal :=
  only186 s (shiftRm .shr w rm count)

/-- SAR r/m by 1 or CL (R150). -/
def execSarRm (c : ShiftCount) (w : Width) (rm : Rm) (s : State) : Host.Outcome State Fault Refusal :=
  .next (shiftRm .sar w rm (shiftCount s c) s)

/-- SAR r/m by an immediate (R150, R155), 80186,188. -/
def execSarRmImm (w : Width) (rm : Rm) (count : Byte) (s : State) : Host.Outcome State Fault Refusal :=
  only186 s (shiftRm .sar w rm count)

end Sys2Proof.Machine
end

