-- ==== Sys2Proof/Machine/Transfer.lean ====
section
/-! DEFINITION. The data transfer instructions (40_data_transfer.md R80 to R107). -/

namespace Sys2Proof.Machine

/-! ## MOV -/

/-- MOV between r/m and reg (R81). -/
def execMovRmReg (dir : Dir) (w : Width) (rm : Rm) (r : Reg) (s : State) : Host.Outcome State Fault Refusal :=
  match dir with
  | .toRm => .next (writeRm w rm (s.getReg w r) s)
  | .toReg =>
    let (v, s) := readRm w rm s
    .next (s.setReg w r v)

/-- MOV immediate to r/m (R82). -/
def execMovRmImm (rm : Rm) (imm : Imm) (s : State) : Host.Outcome State Fault Refusal :=
  .next (writeRm imm.width rm (Imm.value imm) s)

/-- MOV immediate to register (R85). -/
def execMovRegImm (r : Reg) (imm : Imm) (s : State) : Host.Outcome State Fault Refusal :=
  .next (s.setReg imm.width r (Imm.value imm))

/-- MOV AL/AX, [addr] (R86). -/
def execMovAccAddr (w : Width) (addr : Word) (s : State) : Host.Outcome State Fault Refusal :=
  let (v, s) := readMem w (s.segFor .ds) addr s
  .next (s.setAcc w v)

/-- MOV [addr], AL/AX (R86). -/
def execMovAddrAcc (w : Width) (addr : Word) (s : State) : Host.Outcome State Fault Refusal :=
  .next (writeMem w (s.segFor .ds) addr (s.acc w) s)

/-- MOV to a segment register (R83): sets `int_inhibit` (R261). -/
def execMovSregRm (sr : SReg) (rm : Rm) (s : State) : Host.Outcome State Fault Refusal :=
  let (v, s) := readRm .word rm s
  .next (s.setSeg sr v).inhibit

/-- MOV from a segment register (R84). -/
def execMovRmSreg (rm : Rm) (sr : SReg) (s : State) : Host.Outcome State Fault Refusal :=
  .next (writeRm .word rm (s.segs.get sr) s)

/-! ## PUSH and POP -/

/-- PUSH of a register by its own opcode: SP is decremented first, so PUSH SP (54H) stores the new value (R88; log 15). -/
def pushRegister (r : Reg) (s : State) : State :=
  let s := s.set .sp (s.get .sp - 2)
  writeMem .word s.segs.ss (s.get .sp) (s.get r) s

/-- PUSH r/m16 (R87): the operand, a register and SP included, is read before the push (44_control_transfer.md R181, D17; log 15). -/
def execPushRm (rm : Rm) (s : State) : Host.Outcome State Fault Refusal :=
  let (v, s) := readRm .word rm s
  .next (push16 v s)

/-- PUSH reg16 (R88). -/
def execPushReg (r : Reg) (s : State) : Host.Outcome State Fault Refusal := .next (pushRegister r s)

/-- PUSH seg-reg (R89). -/
def execPushSreg (sr : SReg) (s : State) : Host.Outcome State Fault Refusal := .next (push16 (s.segs.get sr) s)

/-- PUSH imm16 (R93), 80186,188. -/
def execPushImm16 (imm : Word) (s : State) : Host.Outcome State Fault Refusal := only186 s (push16 imm)

/-- PUSH imm8, sign-extended (R93), 80186,188. -/
def execPushImm8 (imm : Byte) (s : State) : Host.Outcome State Fault Refusal :=
  only186 s (push16 (imm.signExtend 16))

/-- POP r/m16 (R91): the word is stored, then SP goes up; POP to SP ends as the popped word (R92, D12; log 15). -/
def execPopRm (rm : Rm) (s : State) : Host.Outcome State Fault Refusal :=
  let (v, s) := pop16 s
  .next (writeRm .word rm v s)

/-- POP reg16 (R92). -/
def execPopReg (r : Reg) (s : State) : Host.Outcome State Fault Refusal :=
  let (v, s) := pop16 s
  .next (s.set r v)

/-- The unused-opcode interrupt of the 80186,188 (60_exceptions.md R270): type 6, the saved IP is the first byte of the
instruction, its first latch byte included (D21; log 20). On the 8086,88 the opcode is refused (U7). -/
def unusedOpcode (s : State) : Host.Outcome State Fault Refusal :=
  if s.is186 then .next (interrupt 6 s.ctl.firstIp s) else .refused .unusedOpcode

/-- POP seg-reg (R90): sets `int_inhibit`. 0FH is POP CS on the 8086,88 and an unused opcode on the 80186,188. -/
def execPopSreg (sr : SReg) (s : State) : Host.Outcome State Fault Refusal :=
  if sr = .cs ∧ s.is186 then unusedOpcode s
  else
    let (v, s) := pop16 s
    .next (s.setSeg sr v).inhibit

/-- Push the eight registers of PUSHA in order, SP as it was before (R94). -/
def pushAll (s : State) : State :=
  let sp := s.get .sp
  let s := push16 (s.get .ax) s
  let s := push16 (s.get .cx) s
  let s := push16 (s.get .dx) s
  let s := push16 (s.get .bx) s
  let s := push16 sp s
  let s := push16 (s.get .bp) s
  let s := push16 (s.get .si) s
  push16 (s.get .di) s

/-- PUSHA (R94), 80186,188. -/
def execPusha (s : State) : Host.Outcome State Fault Refusal := only186 s pushAll

/-- Pop a word into a register. -/
def popInto (r : Reg) (s : State) : State :=
  let (v, s) := pop16 s
  s.set r v

/-- Pop the registers of POPA; the SP word is discarded (R95). -/
def popAll (s : State) : State :=
  let s := popInto .bp (popInto .si (popInto .di s))
  let s := (pop16 s).2
  popInto .ax (popInto .cx (popInto .dx (popInto .bx s)))

/-- POPA (R95), 80186,188. -/
def execPopa (s : State) : Host.Outcome State Fault Refusal := only186 s popAll

/-! ## XCHG, XLAT -/

/-- XCHG r/m, reg (R96): the register is read before either write. -/
def execXchgRmReg (w : Width) (rm : Rm) (r : Reg) (s : State) : Host.Outcome State Fault Refusal :=
  let v := s.getReg w r
  let (t, s') := readRm w rm s
  match rm with
  | .reg r' => .next ((s'.setReg w r' v).setReg w r t)
  | m => .next ((writeRm w m v s').setReg w r t)

/-- XCHG AX, reg16 (R97). -/
def execXchgAxReg (r : Reg) (s : State) : Host.Outcome State Fault Refusal :=
  let t := s.get .ax
  .next ((s.set .ax (s.get r)).set r t)

/-- XLAT (R98). -/
def execXlat (s : State) : Host.Outcome State Fault Refusal :=
  let (v, s) := readMem .byte (s.segFor .ds) (s.get .bx + (s.get8 .al).setWidth 16) s
  .next (s.set8 .al v)

/-! ## IN and OUT -/

/-- `IoRead` of the width (20_memory.md R47). -/
def ioRead : (w : Width) → Word → State → BitVec w.bits × State
  | .byte, p, s => ioRead8 p s
  | .word, p, s => ioRead16 p s

/-- `IoWrite` of the width (R47). -/
def ioWrite : (w : Width) → Word → BitVec w.bits → State → State
  | .byte, p, v, s => ioWrite8 p v s
  | .word, p, v, s => ioWrite16 p v s

/-- IN with a fixed port (R99). -/
def execInAccPort (w : Width) (port : Byte) (s : State) : Host.Outcome State Fault Refusal :=
  let (v, s) := ioRead w (port.setWidth 16) s
  .next (s.setAcc w v)

/-- IN through DX (R99). -/
def execInAccDx (w : Width) (s : State) : Host.Outcome State Fault Refusal :=
  let (v, s) := ioRead w (s.get .dx) s
  .next (s.setAcc w v)

/-- OUT with a fixed port (R100). -/
def execOutPortAcc (w : Width) (port : Byte) (s : State) : Host.Outcome State Fault Refusal :=
  .next (ioWrite w (port.setWidth 16) (s.acc w) s)

/-- OUT through DX (R100). -/
def execOutDxAcc (w : Width) (s : State) : Host.Outcome State Fault Refusal :=
  .next (ioWrite w (s.get .dx) (s.acc w) s)

/-! ## LEA, LDS, LES -/

/-- LEA (R101): the offset, no access; the register form is undefined (U1). -/
def execLea (r : Reg) (rm : Rm) (s : State) : Host.Outcome State Fault Refusal :=
  match rm with
  | .reg _ => .refused (.undefinedEncoding .registerOperand)
  | m => .next (s.set r (eaOff s m))

/-- LDS (R102). -/
def execLds (r : Reg) (rm : Rm) (s : State) : Host.Outcome State Fault Refusal :=
  match rm with
  | .reg _ => .refused (.undefinedEncoding .registerOperand)
  | m =>
    let ((o, g), s) := readRmPointer m s
    .next ((s.set r o).setSeg .ds g)

/-- LES (R103). -/
def execLes (r : Reg) (rm : Rm) (s : State) : Host.Outcome State Fault Refusal :=
  match rm with
  | .reg _ => .refused (.undefinedEncoding .registerOperand)
  | m =>
    let ((o, g), s) := readRmPointer m s
    .next ((s.set r o).setSeg .es g)

/-! ## Flag transfers -/

/-- LAHF (R104): bits 5, 3, 1 of AH are free (D1). -/
def execLahf (s : State) : Host.Outcome State Fault Refusal :=
  let (image, s) := flagsImage s
  .next (s.set8 .ah image.lo)

/-- SAHF (R105). -/
def execSahf (s : State) : Host.Outcome State Fault Refusal :=
  .next (s.setFlags (s.flags.loadLow (s.get8 .ah)))

/-- PUSHF (R106). -/
def execPushf (s : State) : Host.Outcome State Fault Refusal :=
  let (image, s) := flagsImage s
  .next (push16 image s)

/-- POPF (R107): sets no delay latch (D18). -/
def execPopf (s : State) : Host.Outcome State Fault Refusal :=
  let (image, s) := pop16 s
  .next (s.setFlags (Flags.ofImage image))

end Sys2Proof.Machine
end

