-- ==== Sys2Proof/Machine/Control.lean ====
section
/-! DEFINITION. The control transfer instructions (44_control_transfer.md R180 to R219). IP stands past the instruction when a
meaning runs (R180). -/

namespace Sys2Proof.Machine

/-! ## CALL -/

/-- CALL near direct (R182). -/
def execCallNear (disp : Word) (s : State) : Host.Outcome State Fault Refusal :=
  .next ((push16 s.ip s).setIp (relNear s disp))

/-- CALL near indirect (R183): the operand is read before the push (R181, D17). -/
def execCallNearRm (rm : Rm) (s : State) : Host.Outcome State Fault Refusal :=
  let (t, s) := readRm .word rm s
  .next ((push16 s.ip s).setIp t)

/-- Push CS, load CS, push IP, load IP (R184, R185). -/
def farCall (off seg : Word) (s : State) : State :=
  let s := (push16 s.segs.cs s).setSeg .cs seg
  (push16 s.ip s).setIp off

/-- CALL far direct (R184). -/
def execCallFar (off seg : Word) (s : State) : Host.Outcome State Fault Refusal := .next (farCall off seg s)

/-- CALL far indirect (R185): both words are read first (R181); memory only (U3). -/
def execCallFarRm (rm : Rm) (s : State) : Host.Outcome State Fault Refusal :=
  match rm with
  | .reg _ => .refused (.undefinedEncoding .registerOperand)
  | m =>
    let ((o, g), s) := readRmPointer m s
    .next (farCall o g s)

/-! ## RET -/

/-- Pop IP. -/
def popIp (s : State) : State :=
  let (v, s) := pop16 s
  s.setIp v

/-- Pop CS. -/
def popCs (s : State) : State :=
  let (v, s) := pop16 s
  s.setSeg .cs v

/-- RET near (R186). -/
def execRetNear (s : State) : Host.Outcome State Fault Refusal := .next (popIp s)

/-- RET near with a pop value (R187). -/
def execRetNearImm (imm : Word) (s : State) : Host.Outcome State Fault Refusal :=
  let s := popIp s
  .next (s.set .sp (s.get .sp + imm))

/-- RET far (R188). -/
def execRetFar (s : State) : Host.Outcome State Fault Refusal := .next (popCs (popIp s))

/-- RET far with a pop value (R189). -/
def execRetFarImm (imm : Word) (s : State) : Host.Outcome State Fault Refusal :=
  let s := popCs (popIp s)
  .next (s.set .sp (s.get .sp + imm))

/-! ## JMP -/

/-- JMP near direct (R190). -/
def execJmpNear (disp : Word) (s : State) : Host.Outcome State Fault Refusal := .next (s.setIp (relNear s disp))

/-- JMP short (R191). -/
def execJmpShort (disp : Byte) (s : State) : Host.Outcome State Fault Refusal := .next (s.setIp (relShort s disp))

/-- JMP near indirect (R192). -/
def execJmpNearRm (rm : Rm) (s : State) : Host.Outcome State Fault Refusal :=
  let (t, s) := readRm .word rm s
  .next (s.setIp t)

/-- JMP far direct (R193). -/
def execJmpFar (off seg : Word) (s : State) : Host.Outcome State Fault Refusal := .next ((s.setSeg .cs seg).setIp off)

/-- JMP far indirect (R194): memory only (U3). -/
def execJmpFarRm (rm : Rm) (s : State) : Host.Outcome State Fault Refusal :=
  match rm with
  | .reg _ => .refused (.undefinedEncoding .registerOperand)
  | m =>
    let ((o, g), s) := readRmPointer m s
    .next ((s.setSeg .cs g).setIp o)

/-! ## Conditional jumps, Table 3-11 -/

/-- The common form (R195). -/
def jumpIf (c : Bool) (disp : Byte) (s : State) : State := if c then s.setIp (relShort s disp) else s

/-- JO (R196). -/
def execJo (disp : Byte) (s : State) : Host.Outcome State Fault Refusal := .next (jumpIf (s.flags.of) disp s)

/-- JNO (R197). -/
def execJno (disp : Byte) (s : State) : Host.Outcome State Fault Refusal := .next (jumpIf (!s.flags.of) disp s)

/-- JB (R198). -/
def execJb (disp : Byte) (s : State) : Host.Outcome State Fault Refusal := .next (jumpIf (s.flags.cf) disp s)

/-- JAE (R199). -/
def execJae (disp : Byte) (s : State) : Host.Outcome State Fault Refusal := .next (jumpIf (!s.flags.cf) disp s)

/-- JE (R200). -/
def execJe (disp : Byte) (s : State) : Host.Outcome State Fault Refusal := .next (jumpIf (s.flags.zf) disp s)

/-- JNE (R201). -/
def execJne (disp : Byte) (s : State) : Host.Outcome State Fault Refusal := .next (jumpIf (!s.flags.zf) disp s)

/-- JBE (R202). -/
def execJbe (disp : Byte) (s : State) : Host.Outcome State Fault Refusal := .next (jumpIf (s.flags.cf || s.flags.zf) disp s)

/-- JA (R203). -/
def execJa (disp : Byte) (s : State) : Host.Outcome State Fault Refusal := .next (jumpIf (!(s.flags.cf || s.flags.zf)) disp s)

/-- JS (R204). -/
def execJs (disp : Byte) (s : State) : Host.Outcome State Fault Refusal := .next (jumpIf (s.flags.sf) disp s)

/-- JNS (R205). -/
def execJns (disp : Byte) (s : State) : Host.Outcome State Fault Refusal := .next (jumpIf (!s.flags.sf) disp s)

/-- JP (R206). -/
def execJp (disp : Byte) (s : State) : Host.Outcome State Fault Refusal := .next (jumpIf (s.flags.pf) disp s)

/-- JNP (R207). -/
def execJnp (disp : Byte) (s : State) : Host.Outcome State Fault Refusal := .next (jumpIf (!s.flags.pf) disp s)

/-- JL (R208). -/
def execJl (disp : Byte) (s : State) : Host.Outcome State Fault Refusal := .next (jumpIf (s.flags.sf != s.flags.of) disp s)

/-- JGE (R209). -/
def execJge (disp : Byte) (s : State) : Host.Outcome State Fault Refusal := .next (jumpIf (s.flags.sf == s.flags.of) disp s)

/-- JLE (R210). -/
def execJle (disp : Byte) (s : State) : Host.Outcome State Fault Refusal := .next (jumpIf (s.flags.sf != s.flags.of || s.flags.zf) disp s)

/-- JG (R211). -/
def execJg (disp : Byte) (s : State) : Host.Outcome State Fault Refusal := .next (jumpIf (s.flags.sf == s.flags.of && !s.flags.zf) disp s)

/-! ## Iteration -/

/-- CX <- CX − 1, then a short jump if CX is not 0 and `c` (R212 to R214). -/
def loopIf (c : Bool) (disp : Byte) (s : State) : State :=
  let s := s.set .cx (s.get .cx - 1)
  jumpIf (c && s.get .cx != 0) disp s

/-- LOOP (R212). -/
def execLoop (disp : Byte) (s : State) : Host.Outcome State Fault Refusal := .next (loopIf true disp s)

/-- LOOPE (R213). -/
def execLoope (disp : Byte) (s : State) : Host.Outcome State Fault Refusal := .next (loopIf s.flags.zf disp s)

/-- LOOPNE (R214). -/
def execLoopne (disp : Byte) (s : State) : Host.Outcome State Fault Refusal := .next (loopIf (!s.flags.zf) disp s)

/-- JCXZ (R215). -/
def execJcxz (disp : Byte) (s : State) : Host.Outcome State Fault Refusal := .next (jumpIf (s.get .cx == 0) disp s)

/-! ## Interrupts -/

/-- INT n (R216). -/
def execIntType (t : Byte) (s : State) : Host.Outcome State Fault Refusal := .next (interrupt t s.ip s)

/-- INT 3 (R217). -/
def execInt3 (s : State) : Host.Outcome State Fault Refusal := .next (interrupt 3 s.ip s)

/-- INTO (R218). -/
def execInto (s : State) : Host.Outcome State Fault Refusal := .next (if s.flags.of then interrupt 4 s.ip s else s)

/-- IRET (R219). -/
def execIret (s : State) : Host.Outcome State Fault Refusal := .next (interruptReturn s)

end Sys2Proof.Machine
end

