-- ==== Sys2Proof/Machine/High.lean ====
section
/-! DEFINITION. The high-level instructions of the 80186,188 (45_high_level_186.md R220 to R224). -/

namespace Sys2Proof.Machine

/-- Copy one frame pointer: BP down by 2, the word at SS:BP pushed (R221). -/
def copyFrame (s : State) : State :=
  let s := s.set .bp (s.get .bp - 2)
  let (v, s) := readMem .word s.segs.ss (s.get .bp) s
  push16 v s

/-- Copy `n` frame pointers. -/
def copyFrames : Nat → State → State
  | 0, s => s
  | n + 1, s => copyFrames n (copyFrame s)

/-- ENTER's sequence (R221, C48). -/
def enterFrame (size : Word) (level : Byte) (s : State) : State :=
  let s := push16 (s.get .bp) s
  let fp := s.get .sp
  let s := if level = 0 then s else push16 fp (copyFrames (level.toNat - 1) s)
  let s := s.set .bp fp
  s.set .sp (s.get .sp - size)

/-- ENTER (R221), 80186,188. -/
def execEnter (size : Word) (level : Byte) (s : State) : Host.Outcome State Fault Refusal := only186 s (enterFrame size level)

/-- LEAVE's sequence (R223). -/
def leaveFrame (s : State) : State :=
  let (v, s) := pop16 (s.set .sp (s.get .bp))
  s.set .bp v

/-- LEAVE (R223), 80186,188. -/
def execLeave (s : State) : Host.Outcome State Fault Refusal := only186 s leaveFrame

/-- BOUND's test (R224): signed; type 5 with the next instruction as saved IP (C4). -/
def boundCheck (r : Reg) (rm : Rm) (s : State) : State :=
  let ((lower, upper), s) := readRmPointer rm s
  let v := (s.get r).toInt
  if v < lower.toInt ∨ upper.toInt < v then interrupt 5 s.ip s else s

/-- BOUND (R224), 80186,188; memory only (U4). -/
def execBound (r : Reg) (rm : Rm) (s : State) : Host.Outcome State Fault Refusal :=
  match rm with
  | .reg _ => .refused (.undefinedEncoding .registerOperand)
  | m => only186 s (boundCheck r m)

end Sys2Proof.Machine
end

