-- ==== Sys2Proof/Machine/NpxArith.lean ====
section
/-! DEFINITION. The arithmetic of the 8087 as functions of operands, control word and free values: the generic result
(47_npx_8087_state.md R335, R339), unnormals (R341), zeros (R342), infinities (R343), NaNs (R344), the dispatch of R345, the
comparisons (48_npx_8087_instructions.md R386) and the conversions on store (R352, R356, R359). An exception set is six bits in
the order of SW: I, D, Z, O, U, P. -/

namespace Sys2Proof.Machine

def exI : BitVec 6 := 1
def exD : BitVec 6 := 2
def exZ : BitVec 6 := 4
def exO : BitVec 6 := 8
def exU : BitVec 6 := 16
def exP : BitVec 6 := 32

/-- The exceptions of a set that are not masked (R337). -/
def unmasked (cw : Word) (e : BitVec 6) : BitVec 6 := e &&& ~~~(cw.setWidth 6)

/-- Is an exception masked? -/
def isMasked (cw : Word) (e : BitVec 6) : Bool := unmasked cw e == 0

/-- `e` if the condition holds. -/
def when (c : Bool) (e : BitVec 6) : BitVec 6 := if c then e else 0

/-- What an operation answers: the bits to deliver, the exceptions detected before it (which stop it if one is unmasked) and
after it (R336, R319). -/
structure NpxAnswer where
  value  : TempReal
  before : BitVec 6
  after  : BitVec 6
deriving DecidableEq, Repr

/-- The free values of one operation, each drawn by itself: bits of any kind, the condition code in the places of SW, a status word,
two 80-bit values (log 5). -/
structure NpxFree where
  bits  : Word
  cc    : Word
  sw    : Word
  real  : TempReal
  other : TempReal
deriving DecidableEq, Repr

/-! ## Delivering a result to a register -/

/-- Does a masked overflow deliver infinity (R339)? Not when the rounding is directed away from it. -/
def overflowToInf (rc : Rounding) (neg : Bool) : Bool :=
  match rc with
  | .nearest => true
  | .chop => true
  | .down => neg
  | .up => !neg

/-- A masked overflow sets OE and PE, under directed rounding PE alone (R339). -/
def overflowFlags (rc : Rounding) : BitVec 6 :=
  match rc with
  | .nearest => exO ||| exP
  | .chop => exO ||| exP
  | _ => exP

/-- Significand and true exponent with the adjusted exponent of an unmasked overflow or underflow (R339; log 48: where even that
is out of range, the free value). -/
def adjusted (fr : TempReal) (neg : Bool) (e : Int) (sig : Nat) : TempReal :=
  if -16383 < e ∧ e ≤ 16383 then packReal neg (e + 16383).toNat sig else fr

/-- Masked underflow: denormalize to the exponent −16382, round to 64 bits (R338, R340). -/
def denormalize (rc : Rounding) (x : Exact) : TempReal × Bool :=
  let (n, lost) := x.round rc (-16382 - 63)
  (packReal x.neg (if n < 2 ^ 63 then 0 else 1) n, lost)

/-- Deliver significand `sig` (64 bits) with the true exponent `e`, for the exact result `x` of which `lost` says that rounding to
the precision changed it; `small`: the result underflows. `top`: the significand of the largest finite value (R335, R338, R339). -/
def deliver (cw : Word) (fr : TempReal) (x : Exact) (e : Int) (sig : Nat) (lost small : Bool) (top : Nat) : NpxAnswer :=
  let rc := rounding cw
  if 16383 < e then
    if isMasked cw exO then
      ⟨if overflowToInf rc x.neg then npxInf x.neg else packReal x.neg 0x7FFE top, 0, overflowFlags rc⟩
    else ⟨adjusted fr x.neg (e - 24576) sig, 0, exO ||| when lost exP⟩
  else if small then
    if isMasked cw exU then
      let (v, lost') := denormalize rc x
      ⟨v, 0, exU ||| when (lost || lost') exP⟩
    else ⟨adjusted fr x.neg (e + 24576) sig, 0, exU ||| when lost exP⟩
  else ⟨packReal x.neg (e + 16383).toNat sig, 0, when lost exP⟩

/-- The generic arithmetic result of a nonzero exact value (R335), with `p` bits of precision. -/
def normalResult (cw : Word) (fr : TempReal) (p : Nat) (x : Exact) : NpxAnswer :=
  let (n, lost) := x.round (rounding cw) (x.exponent - (p - 1 : Nat))
  let carry := n = 2 ^ p
  deliver cw fr x (x.exponent + if carry then 1 else 0) (if carry then 2 ^ 63 else n <<< (64 - p)) lost
    (x.exponent < -16382) (2 ^ 64 - 1)

/-- An unnormal result of a nonzero exact value with `k` leading zeros, 1 to 64 (R341, U30; log 43). DESIGN CHOICE (log 43): overflow
and underflow are judged on the exponent of this unnormal form, `x.exponent + k` (one more after a carry), not on the exponent of the
value: R335 states the test for normal results only. -/
def unnormalResult (cw : Word) (fr : TempReal) (p k : Nat) (x : Exact) : NpxAnswer :=
  let e := x.exponent + k
  let (n, lost) := x.round (rounding cw) (e - (p - 1 : Nat))
  let sig := n <<< (64 - p)
  let carry := 2 ^ 63 ≤ sig
  let sig := if carry then sig / 2 else sig
  let e := if carry then e + 1 else e
  deliver cw fr x e sig lost (e < -16382) sig

/-! ## The operations on operand classes -/

/-- What an operation on two classified operands comes to. -/
inductive NpxCore where
  | invalid
  | zeroDivide (neg : Bool)
  | special (v : TempReal)
  | pseudoZero (neg lost : Bool)         -- exponent open (log 43); `lost`: the exact result is not 0
  | normal (x : Exact)
  | unnormal (x : Exact)                 -- leading zeros open (U30)
  | unnormalBy (x : Exact) (k : Nat)     -- leading zeros as of an operand kept (R342 note 6)
deriving DecidableEq, Repr

/-- The sign of an exact zero sum of unlike signs (Table 6-24 note 5). -/
def zeroSign (cw : Word) : Bool :=
  match rounding cw with
  | .down => true
  | _ => false

/-- Zero and pseudo-zero (R341). -/
def isZeroish (v : TempReal) : Bool := realClass v == .zero || realClass v == .unnormal && realSig v == 0

/-- The leading zero bits of a significand of 64 bits that is not 0. -/
def leadingZeroBits (v : TempReal) : Nat := 63 - (realSig v).log2

/-- A finite nonzero operand kept as it is by the addition of a zero (Table 6-24). -/
def keepOperand (v : TempReal) : NpxCore :=
  if realClass v = .unnormal then .unnormalBy (realValue v) (leadingZeroBits v) else .normal (realValue v)

/-- The sum of two operands that are no NaN (R341 to R343). -/
def coreAdd (cw : Word) (a b : TempReal) : NpxCore :=
  let ca := realClass a
  let cb := realClass b
  if ca = .infinity ∧ cb = .infinity then
    if affine cw ∧ realNeg a = realNeg b then .special (npxInf (realNeg a)) else .invalid
  else if ca = .infinity then .special (npxInf (realNeg a))
  else if cb = .infinity then .special (npxInf (realNeg b))
  else if isZeroish a ∧ isZeroish b then
    let neg := if realNeg a = realNeg b then realNeg a else zeroSign cw
    if ca = .zero ∧ cb = .zero then .special (npxZero neg) else .pseudoZero neg false
  else if ca = .zero then keepOperand b
  else if cb = .zero then keepOperand a
  else
    let x := (realValue a).add (realValue b)
    if x.mant = 0 then .special (npxZero (zeroSign cw))
    else
      let larger : Bool := match (realValue a).absCompare (realValue b) with
        | .gt => ca == .unnormal
        | .lt => cb == .unnormal
        | .eq => ca == .unnormal || cb == .unnormal
      if larger then .unnormal x else .normal x

/-- The product (R341 to R343). A pseudo-zero arises from a pseudo-zero operand and "as the product of two unnormals that have more than
64 leading zero bits in total" (R341). -/
def coreMul (a b : TempReal) : NpxCore :=
  let ca := realClass a
  let cb := realClass b
  let neg := realNeg a != realNeg b
  if ca = .infinity ∨ cb = .infinity then
    if ca = .zero ∨ cb = .zero then .invalid else .special (npxInf neg)
  else if ca = .zero ∨ cb = .zero then .special (npxZero neg)
  else
    let x := (realValue a).mul (realValue b)
    if x.mant = 0 then .pseudoZero neg false
    else if ca = .unnormal ∧ cb = .unnormal ∧ 64 < leadingZeroBits a + leadingZeroBits b then .pseudoZero neg true
    else if ca = .unnormal ∨ cb = .unnormal then .unnormal x else .normal x

/-- The quotient a ÷ b; a divisor that was a denormal is invalid as an unnormal is (R338 row 8, R340 to R343). -/
def coreDiv (a b : NpxOperand) : NpxCore :=
  let ca := realClass a.v
  let cb := realClass b.v
  let neg := realNeg a.v != realNeg b.v
  if b.den ∨ cb = .unnormal then .invalid
  else if ca = .infinity ∧ cb = .infinity then .invalid
  else if ca = .zero ∧ cb = .zero then .invalid
  else if ca = .infinity then .special (npxInf neg)
  else if cb = .infinity then .special (npxZero neg)
  else if cb = .zero then .zeroDivide neg
  else if ca = .zero then .special (npxZero neg)
  else if realSig a.v = 0 then .pseudoZero neg false
  else
    let x := (realValue a.v).div (realValue b.v)
    if ca = .unnormal then .unnormal x else .normal x

/-- The sign-changed operand. -/
def negOperand (a : NpxOperand) : NpxOperand := ⟨packReal (!realNeg a.v) (realField a.v) (realSig a.v), a.den⟩

/-- The six operations on destination and source (R360). -/
def coreArith (cw : Word) (op : NpxArith) (d s : NpxOperand) : NpxCore :=
  match op with
  | .add => coreAdd cw d.v s.v
  | .sub => coreAdd cw d.v (negOperand s).v
  | .subr => coreAdd cw s.v (negOperand d).v
  | .mul => coreMul d.v s.v
  | .div => coreDiv d s
  | .divr => coreDiv s d

/-- The NaN that two operands, one or both NaNs, give (R344; U31, log 46). -/
def pickNan (a b : TempReal) : TempReal :=
  if realClass a ≠ .nan then b
  else if realClass b ≠ .nan then a
  else if realMag b < realMag a then a
  else if realMag a < realMag b then b
  else if Config.nanPick a b then a else b

/-- The leading zeros of an unnormal result: open (U30), but the product with an integer does not underflow, so that its exponent
is not below −16382 (48_npx_8087_instructions.md R372). -/
def leadingZeros (open_ : Nat) (intProduct : Bool) (x : Exact) : Nat :=
  if intProduct then max open_ (-16382 - x.exponent).toNat else open_

/-- `Arith(op, d, s)` (R345), both operands present; `int`: the source is a memory integer. `z` fixes the leading zeros of an
unnormal result and the exponent of a pseudo-zero (log 43). DEDUCED (log 43): the pseudo-zero that is the product of two nonzero
unnormals raises P, since it is not the exact product (R335, R336). DESIGN CHOICE (log 43): it raises no O and no U. -/
def arith (cw : Word) (fr : TempReal) (op : NpxArith) (int : Bool) (d s : NpxOperand) : NpxAnswer :=
  let den := when (d.den || s.den) exD
  let z := Config.unnormalShift d.v s.v
  if unmasked cw den ≠ 0 then ⟨npxIndef, den, 0⟩
  else if realClass d.v = .nan ∨ realClass s.v = .nan then ⟨pickNan d.v s.v, exI, 0⟩
  else match coreArith cw op d s with
    | .invalid => ⟨npxIndef, exI, 0⟩
    | .zeroDivide neg => ⟨npxInf neg, exZ, 0⟩
    | .special v => ⟨v, den, 0⟩
    | .pseudoZero neg lost => ⟨packReal neg (1 + z % 0x7FFE) 0, den, when lost exP⟩
    | .normal x => { normalResult cw fr (precision cw) x with before := den }
    | .unnormal x =>
      { unnormalResult cw fr (precision cw) (leadingZeros (1 + z % 64) (int && op == .mul) x) x with before := den }
    | .unnormalBy x k => { unnormalResult cw fr (precision cw) k x with before := den }

/-- FSQRT (R379). -/
def sqrtAnswer (cw : Word) (fr : TempReal) (o : NpxOperand) : NpxAnswer :=
  let den := when o.den exD
  if unmasked cw den ≠ 0 then ⟨npxIndef, den, 0⟩
  else match realClass o.v with
    | .nan => ⟨o.v, exI, 0⟩
    | .zero => ⟨o.v, 0, 0⟩
    | .infinity => if affine cw && !realNeg o.v then ⟨o.v, 0, 0⟩ else ⟨npxIndef, exI, 0⟩
    | .normal =>
      if realNeg o.v || o.den then ⟨npxIndef, exI ||| den, 0⟩
      else normalResult cw fr (precision cw) (realValue o.v).sqrt
    | .unnormal => ⟨npxIndef, exI ||| den, 0⟩
    | .denormal => ⟨npxIndef, exI ||| den, 0⟩

/-- `RoundToInteger` of a finite value: the magnitude and whether it changed. -/
def roundInt (rc : Rounding) (x : Exact) : Nat × Bool := x.round rc 0

/-- FSCALE (R380): the significand is not rounded, so P comes only with a masked overflow (R339) or when a masked underflow loses
bits (R340; log 62). -/
def scaleAnswer (cw : Word) (fr a x : TempReal) : NpxAnswer :=
  let ca := realClass a
  let cx := realClass x
  let (n, lost) := roundInt .chop (realValue x)
  let tooLarge := decide (2 ^ 15 ≤ n) && !(realNeg x && n == 2 ^ 15 && !lost)
  let fraction := n == 0 && lost
  if ca = .nan ∨ cx = .nan then ⟨pickNan a x, exI, 0⟩
  else if cx = .infinity then
    if ca = .zero then ⟨a, 0, 0⟩ else ⟨npxIndef, exI, 0⟩
  else if ca = .infinity then ⟨a, 0, 0⟩
  else if tooLarge || fraction then ⟨fr, 0, 0⟩
  else if ca = .zero then ⟨a, 0, 0⟩
  else
    let shift : Int := if realNeg x then -(n : Int) else n
    let v := realValue a
    let r : Exact := ⟨v.neg, v.mant, v.exp + shift⟩
    let e := r.exp + 63
    if r.mant = 0 then
      if -16382 ≤ e ∧ e ≤ 16383 then ⟨packReal r.neg (e + 16383).toNat 0, 0, 0⟩ else ⟨fr, 0, 0⟩
    else if r.exponent < -16382 ∨ 16383 < r.exponent then
      deliver cw fr r e r.mant false (r.exponent < -16382) (if r.mant < 2 ^ 63 then r.mant else 2 ^ 64 - 1)
    else if e ≤ 16383 then ⟨packReal r.neg (e + 16383).toNat r.mant, 0, 0⟩
    else ⟨r.toReal, 0, 0⟩

/-- The quotient bits and kind of an FPREM result (R381). -/
structure PremAnswer where
  ans      : NpxAnswer
  complete : Bool
  quotient : Option Nat
deriving DecidableEq, Repr

/-- Deliver an exact remainder, normalized: underflow if it denormalizes; a reduced precision clears the extra bits (R381). -/
def remainderAnswer (cw : Word) (fr : TempReal) (den : BitVec 6) (x : Exact) : NpxAnswer :=
  if x.mant = 0 then ⟨npxZero x.neg, den, 0⟩
  else
    let keep := 64 - precision cw
    let (n, _) := x.round .chop (x.exponent - 63)
    let sig := (n >>> keep) <<< keep
    let ans := deliver cw fr x x.exponent sig false (x.exponent < -16382) sig
    { ans with before := den, after := ans.after &&& ~~~exP }

/-- FPREM (R381); `z` chooses the partial remainder when the exponents differ by 64 or more (U36, log 40). DESIGN CHOICE (log 40): with a
NaN the function counts as complete (C2 = 0), which R381 does not state; a pseudo-zero dividend, whose exponent has no value, gives a
true zero of its sign with C2 = 0 and C0, C3, C1 free. -/
def premAnswer (cw : Word) (fr : TempReal) (z : Nat) (a m : NpxOperand) : PremAnswer :=
  let den := when (a.den || m.den) exD
  let stop (e : BitVec 6) (v : TempReal) : PremAnswer := ⟨⟨v, e, 0⟩, true, none⟩
  if unmasked cw den ≠ 0 then stop den npxIndef
  else if realClass a.v = .nan ∨ realClass m.v = .nan then stop exI (pickNan a.v m.v)
  else if m.den ∨ realClass m.v = .unnormal ∨ realClass a.v = .infinity ∨ realClass m.v = .zero then stop exI npxIndef
  else if realClass m.v = .infinity then stop den a.v
  else if isZeroish a.v then stop den (npxZero (realNeg a.v))
  else
    let x := realValue a.v
    let y := realValue m.v
    let k := x.exponent - y.exponent
    if k < 64 then
      let (q, r) : Nat × Exact :=
        if y.exp ≤ x.exp then
          let n := x.mant <<< (x.exp - y.exp).toNat
          (n / y.mant, ⟨x.neg, n % y.mant, y.exp⟩)
        else
          let d := y.mant <<< (y.exp - x.exp).toNat
          (x.mant / d, ⟨x.neg, x.mant % d, x.exp⟩)
      ⟨remainderAnswer cw fr den r, true, some (q % 8)⟩
    else
      let j := (k - 63 + ((z % 63 : Nat) : Int)).toNat
      let n := x.mant <<< (x.exp - y.exp).toNat
      ⟨remainderAnswer cw fr den ⟨x.neg, n % (y.mant <<< j), y.exp⟩, false, none⟩

/-- FRNDINT (R382): a pseudo-zero as a zero (R341); a denormal as its unnormal, no D. -/
def rndintAnswer (cw : Word) (v : TempReal) : NpxAnswer :=
  match realClass v with
  | .nan => ⟨v, exI, 0⟩
  | .infinity => ⟨v, 0, 0⟩
  | .zero => ⟨v, 0, 0⟩
  | _ =>
    let x := realValue v
    if 0 ≤ x.exp then ⟨x.toReal, 0, 0⟩
    else
      let (n, lost) := roundInt (rounding cw) x
      ⟨Exact.toReal ⟨x.neg, n, 0⟩, 0, when lost exP⟩

/-! ## Comparison, R386 -/

/-- The order a comparison finds; `none`: unordered. -/
structure CompareAnswer where
  order  : Option Ordering
  before : BitVec 6
deriving DecidableEq, Repr

/-- The order of two finite values; zeros and pseudo-zeros are equal whatever their signs. -/
def finiteOrder (a b : Exact) : Ordering :=
  if a.mant = 0 ∧ b.mant = 0 then .eq
  else if a.exp ≤ b.exp then compare a.signed (b.signed * 2 ^ (b.exp - a.exp).toNat)
  else compare (a.signed * 2 ^ (a.exp - b.exp).toNat) b.signed

/-- The order of two values of which at least one is an infinity, in affine closure (R343). -/
def affineOrder (a b : TempReal) : Ordering :=
  let rank (v : TempReal) : Int := if realClass v = .infinity then (if realNeg v then -1 else 1) else 0
  compare (rank a) (rank b)

/-- Does an operand raise D in a comparison: a denormal, or an unnormal other than a pseudo-zero (R338)? -/
def comparesDenormal (o : NpxOperand) : Bool := o.den || realClass o.v == .unnormal && realSig o.v != 0

/-- `Compare(a, b)`, both operands present (R386). -/
def compareAnswer (cw : Word) (a b : NpxOperand) : CompareAnswer :=
  let den := when (comparesDenormal a || comparesDenormal b) exD
  if unmasked cw den ≠ 0 then ⟨none, den⟩
  else if realClass a.v = .nan ∨ realClass b.v = .nan then ⟨none, exI⟩
  else if realClass a.v = .infinity ∨ realClass b.v = .infinity then
    if affine cw then ⟨some (affineOrder a.v b.v), den⟩
    else if realClass a.v = .infinity ∧ realClass b.v = .infinity then ⟨some .eq, den⟩
    else ⟨none, exI ||| den⟩
  else ⟨some (finiteOrder (realValue a.v) (realValue b.v)), den⟩

/-- C3, C2, C0 of an order (R386). -/
def orderBits : Option Ordering → Bool × Bool × Bool
  | some .gt => (false, false, false)
  | some .lt => (false, false, true)
  | some .eq => (true, false, false)
  | none => (true, true, true)

/-! ## Conversions on store -/

/-- What a store writes, and its exceptions: O and U of a memory destination stop it if unmasked (R319, R352), and with them P if
the rounded value is not the exact one. -/
structure StoreAnswer where
  value  : Nat
  before : BitVec 6
  after  : BitVec 6
deriving DecidableEq, Repr

/-- A real of a memory format with `e` exponent and `f` fraction bits, as a number. -/
def packMem (e f : Nat) (neg : Bool) (field frac : Nat) : Nat := neg.toNat * 2 ^ (e + f) + field * 2 ^ f + frac % 2 ^ f

/-- The indefinite of a real memory format (R344). -/
def memIndef (e f : Nat) : Nat := packMem e f true (2 ^ e - 1) (2 ^ (f - 1))

/-- The rounded store of a finite value with exponent `x.exponent` in a format whose largest true exponent is `bias` (R352). -/
def roundStore (cw : Word) (e f : Nat) (x : Exact) : StoreAnswer :=
  let rc := rounding cw
  let bias : Nat := 2 ^ (e - 1) - 1
  let (n, lost) := x.round rc (x.exponent - f)
  let carry := n = 2 ^ (f + 1)
  let ex : Int := x.exponent + if carry then 1 else 0
  if (bias : Int) < ex then
    let v := if overflowToInf rc x.neg then packMem e f x.neg (2 ^ e - 1) 0 else packMem e f x.neg (2 ^ e - 2) (2 ^ f - 1)
    if isMasked cw exO then ⟨v, 0, overflowFlags rc⟩ else ⟨v, exO ||| when lost exP, 0⟩
  else if x.exponent < 1 - (bias : Int) then
    let (n, lost') := x.round rc (1 - (bias : Int) - f)
    let v := packMem e f x.neg (if n < 2 ^ f then 0 else 1) n
    if isMasked cw exU then ⟨v, exU, when (lost || lost') exP⟩ else ⟨v, exU ||| when lost exP, 0⟩
  else ⟨packMem e f x.neg (ex + bias).toNat n, 0, when lost exP⟩

/-- The conversion to short or long real (R352). -/
def storeReal (cw : Word) (e f : Nat) (v : TempReal) : StoreAnswer :=
  let bias : Nat := 2 ^ (e - 1) - 1
  let x := realValue v
  match realClass v with
  | .zero => ⟨packMem e f (realNeg v) 0 0, 0, 0⟩
  | .normal => roundStore cw e f x
  | .unnormal =>
    if x.mant = 0 then ⟨packMem e f x.neg 0 0, exU, 0⟩
    else if 1 - (bias : Int) ≤ x.exponent then ⟨memIndef e f, exI, 0⟩
    else roundStore cw e f x
  | .denormal => ⟨packMem e f (realNeg v) 0 (realSig v / 2 ^ (63 - f)), 0, 0⟩
  | .infinity => ⟨packMem e f (realNeg v) (2 ^ e - 1) (realSig v / 2 ^ (63 - f)), 0, 0⟩
  | .nan => ⟨packMem e f (realNeg v) (2 ^ e - 1) (realSig v / 2 ^ (63 - f)), 0, 0⟩

/-- The conversion to an `n`-bit integer (R356). -/
def storeInt (cw : Word) (n : Nat) (v : TempReal) : StoreAnswer :=
  let bad : StoreAnswer := ⟨2 ^ (n - 1), exI, 0⟩
  match realClass v with
  | .zero => ⟨0, 0, 0⟩
  | .normal =>
    let (m, lost) := roundInt (rounding cw) (realValue v)
    if m < 2 ^ (n - 1) ∨ (m = 2 ^ (n - 1) ∧ realNeg v) then
      ⟨if realNeg v then (2 ^ n - m) % 2 ^ n else m, 0, when lost exP⟩
    else bad
  | _ => bad

/-- The packed decimal digits of a number, `k` of them (R328). -/
def toBcd (m : Nat) : Nat → Nat
  | 0 => 0
  | k + 1 => m % 10 + 16 * toBcd (m / 10) k

/-- `fbstp_round` (R359, U34, D35; log 42): the nearer integer when the fraction is at most 1/4 or at least 3/4. -/
def fbstpRound (v : TempReal) : Nat :=
  let x := realValue v
  if 0 ≤ x.exp then x.mant <<< x.exp.toNat
  else
    let d := (-x.exp).toNat
    let q := x.mant >>> d
    let r := x.mant % 2 ^ d
    if r = 0 then q
    else if 4 * r ≤ 2 ^ d then q
    else if 3 * 2 ^ d ≤ 4 * r then q + 1
    else if Config.fbstpRoundUp v then q + 1 else q

/-- The packed decimal indefinite: bytes 9 and 8 FFH, the rest any value (R328, G9; log 47). -/
def bcdIndef (fr : TempReal) : Nat := 0xFFFF * 2 ^ 64 + fr.toNat % 2 ^ 64

/-- The conversion to packed decimal (R359): no precision exception. -/
def storeBcd (fr v : TempReal) : StoreAnswer :=
  let bad : StoreAnswer := ⟨bcdIndef fr, exI, 0⟩
  match realClass v with
  | .zero => ⟨(realNeg v).toNat * 2 ^ 79, 0, 0⟩
  | .normal =>
    let m := fbstpRound v
    if m < 10 ^ 18 then ⟨(realNeg v).toNat * 2 ^ 79 + toBcd m 18, 0, 0⟩ else bad
  | _ => bad

/-- The indefinite of a memory format, stored when the stack top is empty (R338 row 1). -/
def fmtIndef (fr : TempReal) : NpxFmt → Nat
  | .real32 => memIndef 8 23
  | .real64 => memIndef 11 52
  | .real80 => npxIndef.toNat
  | .int16 => 2 ^ 15
  | .int32 => 2 ^ 31
  | .int64 => 2 ^ 63
  | .bcd => bcdIndef fr

/-- The conversion of a stack top that is not empty (R352, R353, R356, R357, R359). -/
def storeAnswer (cw : Word) (fr : TempReal) (f : NpxFmt) (v : TempReal) : StoreAnswer :=
  match f with
  | .real32 => storeReal cw 8 23 v
  | .real64 => storeReal cw 11 52 v
  | .real80 => ⟨v.toNat, 0, 0⟩
  | .int16 => storeInt cw 16 v
  | .int32 => storeInt cw 32 v
  | .int64 => storeInt cw 64 v
  | .bcd => storeBcd fr v

/-! ## Transcendentals, R394 to R398 -/

/-- The functions of `npx_fn`, by number: FPTAN's two results, FPATAN, F2XM1, FYL2X, FYL2XP1. -/
inductive NpxFn where
  | ptanY | ptanX | patan | f2xm1 | yl2x | yl2xp1
deriving DecidableEq, Repr

def NpxFn.number : NpxFn → Nat
  | .ptanY => 0
  | .ptanX => 1
  | .patan => 2
  | .f2xm1 => 3
  | .yl2x => 4
  | .yl2xp1 => 5

/-- `npx_fn` (U33, log 44). -/
def npxFunction (f : NpxFn) (a b : TempReal) : TempReal := Config.npxFn f.number a b

/-- A normal or a zero: a valid operand (R346). -/
def validOperand (v : TempReal) : Bool := realClass v == .normal || realClass v == .zero

/-- 0 ≤ θ < π/4 (R394, C38). -/
def ptanRange (v : TempReal) : Bool :=
  validOperand v && (realClass v == .zero || !realNeg v) &&
    decide (finiteOrder (realValue v) (realValue (packReal false 0x3FFE 0xC90FDAA22168C235)) = .lt)

/-- 0 < Y < X < ∞ (R395). -/
def patanRange (y x : TempReal) : Bool :=
  realClass y == .normal && realClass x == .normal && !realNeg y && !realNeg x &&
    decide (finiteOrder (realValue y) (realValue x) = .lt)

/-- 0 ≤ X ≤ 1/2, −0 among them (R396, Table 6-24). -/
def f2xm1Range (v : TempReal) : Bool :=
  realClass v == .zero || realClass v == .normal && !realNeg v &&
    decide (finiteOrder (realValue v) ⟨false, 1, -1⟩ ≠ .gt)

/-- 0 < X < ∞, Y finite (R397). -/
def yl2xRange (y x : TempReal) : Bool := realClass x == .normal && !realNeg x && validOperand y

/-- 0 < |X| < 1 − √2/2, Y finite (R398): 2 (1 − |X|)² > 1. -/
def yl2xp1Range (y x : TempReal) : Bool :=
  let v := realValue x
  let one := 2 ^ (-v.exp).toNat
  realClass x == .normal && validOperand y && decide (v.exp < 0) && decide (v.mant < one) &&
    decide (one * one < 2 * ((one - v.mant) * (one - v.mant)))

/-- The flags a transcendental in range may raise from its computation: free bits for those its list has (R394 to R398). -/
def fnFlags (free : NpxFree) (allowed : BitVec 6) : BitVec 6 := free.bits.setWidth 6 &&& allowed

/-- One result: the function in range, any value otherwise, without an exception (R346, U32). -/
def fnAnswer (free : NpxFree) (inRange : Bool) (v : TempReal) (allowed : BitVec 6) : NpxAnswer :=
  if inRange then ⟨v, 0, fnFlags free allowed⟩ else ⟨free.real, 0, 0⟩

end Sys2Proof.Machine
end

