-- ==== Sys2Proof/Machine/Npx.lean ====
section
/-! DEFINITION. The 8087 as an agent (47_npx_8087_state.md): its register stack and words, exceptions, memory operands, the operations
of 48_npx_8087_instructions.md, and the hand-over from the CPU's ESC (R311, R315, R316). -/

namespace Sys2Proof.Machine

/-! ## Registers and words, R320 to R324 -/

/-- The ST field of SW (R321). -/
def Npx.top (n : Npx) : BitVec 3 := n.sw.extractLsb' 11 3
/-- `phys(i)` (R320). -/
def Npx.phys (n : Npx) (i : BitVec 3) : BitVec 3 := n.top + i
/-- A register by its own number. -/
def Npx.reg (n : Npx) (k : BitVec 3) : TempReal := n.r[k.toNat]'k.isLt
/-- `ST(i)`. -/
def Npx.st (n : Npx) (i : BitVec 3) : TempReal := n.reg (n.phys i)
/-- `TAG(k)`: bits 2k+1 and 2k of TW (R323). -/
def Npx.tag (n : Npx) (k : BitVec 3) : BitVec 2 := n.tw.extractLsb' (2 * k.toNat) 2
/-- Is ST(i) tagged empty? -/
def Npx.isEmpty (n : Npx) (i : BitVec 3) : Bool := n.tag (n.phys i) == 3

/-- Set `TAG(k)`. -/
def Npx.setTag (k : BitVec 3) (t : BitVec 2) (n : Npx) : Npx :=
  { n with tw := n.tw &&& ~~~((3 : Word) <<< (2 * k.toNat)) ||| t.setWidth 16 <<< (2 * k.toNat) }
/-- Set the ST field. -/
def Npx.setTop (t : BitVec 3) (n : Npx) : Npx := { n with sw := n.sw &&& 0xC7FF ||| t.setWidth 16 <<< 11 }
/-- Write a register and a tag. -/
def Npx.put (k : BitVec 3) (v : TempReal) (t : BitVec 2) (n : Npx) : Npx :=
  ({ n with r := n.r.set k.toNat v k.isLt } : Npx).setTag k t
/-- `Write ST(i), v` (R350). -/
def Npx.write (i : BitVec 3) (v : TempReal) (n : Npx) : Npx := n.put (n.phys i) v (tagOf v)
/-- `Pop` (R320). -/
def Npx.pop (n : Npx) : Npx := (n.setTag n.top 3).setTop (n.top + 1)
/-- Pop if asked to. -/
def Npx.popIf (c : Bool) (n : Npx) : Npx := if c then n.pop else n
/-- Decrement ST and write the new top, without the check for a full stack. -/
def Npx.pushRaw (v : TempReal) (n : Npx) : Npx := (n.setTop (n.top - 1)).write 0 v

/-- C3, C2, C1, C0: bits 14, 10, 9, 8 of SW (R321). -/
def Npx.setCc (c3 c2 c1 c0 : Bool) (n : Npx) : Npx :=
  { n with sw := n.sw &&& 0xB8FF ||| BitVec.ofNat 16 (16384 * c3.toNat + 1024 * c2.toNat + 512 * c1.toNat + 256 * c0.toNat) }

/-- C3 to C0 undefined (U25). -/
def Npx.freeCc (free : NpxFree) (n : Npx) : Npx :=
  n.setCc (free.cc.getLsbD 14) (free.cc.getLsbD 10) (free.cc.getLsbD 9) (free.cc.getLsbD 8)

/-- BUSY: bit 15 of SW (R316). -/
def Npx.busy (n : Npx) : Bool := n.sw.getLsbD 15

/-- INT: IR = 1 and IEM = 0 (R318). How the platform routes it is a matter of moves (log 59). -/
def Npx.intPin (n : Npx) : Bool := n.sw.getLsbD 7 && !n.cw.getLsbD 7

/-! ## Exceptions, R318, R319, R337 -/

/-- A result together with the exceptions raised. -/
abbrev NpxResult := Npx × BitVec 6

/-- Go on with `k` unless one of the exceptions detected before the operation is unmasked (R319). -/
def Npx.reply (n : Npx) (before : BitVec 6) (k : NpxResult) : NpxResult :=
  if unmasked n.cw before ≠ 0 then (n, before) else (k.1, before ||| k.2)

/-- `End` (R350): set the flags raised; an unmasked one sets IR and keeps B at 1, else B becomes 0. -/
def Npx.finish (p : NpxResult) : Npx :=
  let sw := p.1.sw ||| p.2.setWidth 16
  { p.1 with sw := if unmasked p.1.cw p.2 = 0 then sw &&& 0x7FFF else sw ||| 0x8080 }

/-- The end of FLDCW, FLDENV, FRSTOR: a flag of SW that is unmasked sets IR; B is 1 exactly with IR (R318, D27), else the operation
ends and B becomes 0 (48_npx_8087_instructions.md R350). -/
def Npx.react (n : Npx) : Npx :=
  { n with
    sw := if unmasked n.cw (n.sw.setWidth 6) ≠ 0 then n.sw ||| 0x8080
      else if n.sw.getLsbD 7 then n.sw ||| 0x8000
      else n.sw &&& 0x7FFF }

/-! ## The numeric operations -/

/-- `Push` (R320): onto a register that is not empty the indefinite is pushed (D33). -/
def Npx.push (v : TempReal) (n : Npx) : NpxResult :=
  n.reply (when (!n.isEmpty 7) exI) (n.pushRaw (if n.isEmpty 7 then v else npxIndef), 0)

/-- Write an answer to ST(i), popping if asked to. -/
def Npx.deliverTo (i : BitVec 3) (pop : Bool) (a : NpxAnswer) (n : Npx) : NpxResult :=
  n.reply a.before ((n.write i a.value).popIf pop, a.after)

/-- An empty source: invalid, the indefinite as the result (R338 row 1). -/
def emptyAnswer : NpxAnswer := ⟨npxIndef, exI, 0⟩

/-- An operation on ST(0). -/
def Npx.unary (f : TempReal → NpxAnswer) (n : Npx) : NpxResult :=
  n.deliverTo 0 false (if n.isEmpty 0 then emptyAnswer else f (n.st 0))

/-- An operation on ST(0) and ST(1) (in this order), its result in ST(i), popping if asked to. -/
def Npx.binary (i : BitVec 3) (pop : Bool) (f : TempReal → TempReal → NpxAnswer) (n : Npx) : NpxResult :=
  n.deliverTo i pop (if n.isEmpty 0 || n.isEmpty 1 then emptyAnswer else f (n.st 0) (n.st 1))

/-- The register forms of the six operations (R360): destination d, source s, both as stack indices. -/
def Npx.arithReg (fr : TempReal) (op : NpxArith) (d s : BitVec 3) (pop : Bool) (n : Npx) : NpxResult :=
  n.deliverTo d pop
    (if n.isEmpty d || n.isEmpty s then emptyAnswer else arith n.cw fr op false (regOperand (n.st d)) (regOperand (n.st s)))

/-- The memory forms (R360); `int`: the operand is an integer. -/
def Npx.arithMem (fr : TempReal) (op : NpxArith) (int : Bool) (o : NpxOperand) (n : Npx) : NpxResult :=
  n.deliverTo 0 false (if n.isEmpty 0 then emptyAnswer else arith n.cw fr op int (regOperand (n.st 0)) o)

/-- Set C3, C2, C0 from a comparison, C1 free, then pop `pops` times (R386 to R392). -/
def Npx.compareWith (free : NpxFree) (a : CompareAnswer) (pops : Nat) (n : Npx) : NpxResult :=
  let (c3, c2, c0) := orderBits a.order
  let n' := n.setCc c3 c2 (free.cc.getLsbD 9) c0
  n.reply a.before ((n'.popIf (0 < pops)).popIf (1 < pops), 0)

/-- The answer of a comparison with an empty operand (R386). -/
def emptyCompare : CompareAnswer := ⟨none, exI⟩

/-- FLD of a memory operand (R351, R355, R358): a temporary real denormal is loaded unchanged (C56). -/
def Npx.load (free : NpxFree) (f : NpxFmt) (data : TempReal) (n : Npx) : NpxResult :=
  let o := loadOperand free.real f data
  n.reply (when o.den exD) (n.push (if f = .real80 then data else o.v))

/-- FLD ST(i) (R351). -/
def Npx.loadSt (i : BitVec 3) (n : Npx) : NpxResult :=
  if n.isEmpty i then n.reply exI (n.push npxIndef)
  else n.reply (when (regOperand (n.st i)).den exD) (n.push (n.st i))

/-- FST and FSTP to a register: 80 bits and the tag, no check of the destination (R352, D34). -/
def Npx.storeSt (i : BitVec 3) (pop : Bool) (n : Npx) : NpxResult :=
  if n.isEmpty 0 then n.deliverTo i pop emptyAnswer
  else ((n.put (n.phys i) (n.st 0) (n.tag n.top)).popIf pop, 0)

/-- FXCH (R354). -/
def Npx.exchange (i : BitVec 3) (n : Npx) : NpxResult :=
  let fill (k : BitVec 3) (m : Npx) : Npx := if m.isEmpty k then m.write k npxIndef else m
  let m := fill i (fill 0 n)
  let swapped := (m.put m.top (m.st i) (m.tag (m.phys i))).put (m.phys i) (m.st 0) (m.tag m.top)
  n.reply (when (n.isEmpty 0 || n.isEmpty i) exI) (swapped, 0)

/-- FPREM (R381): C0, C3, C1 are quotient bits 2, 1, 0 (D31); what the rule leaves open of them is free. DESIGN CHOICE (log 40): an empty
register, masked, counts as complete (C2 = 0), which the rule does not state. -/
def Npx.prem (free : NpxFree) (n : Npx) : NpxResult :=
  let a := if n.isEmpty 0 || n.isEmpty 1 then ⟨emptyAnswer, true, none⟩
    else premAnswer n.cw free.real free.bits.toNat (regOperand (n.st 0)) (regOperand (n.st 1))
  let m := n.write 0 a.ans.value
  let m := match a.quotient with
    | some q => m.setCc (q / 2 % 2 = 1) (!a.complete) (q % 2 = 1) (q / 4 % 2 = 1)
    | none => m.setCc (free.cc.getLsbD 14) (!a.complete) (free.cc.getLsbD 9) (free.cc.getLsbD 8)
  n.reply a.ans.before (m, a.ans.after)

/-- FXTRACT (R383): exponent below, significand on top. An exception of the operand gives both results (log 62). DESIGN CHOICE (log 62):
with a faulty operand (NaN, infinity or empty) and ST(7) not empty, I masked, a response that R383 calls "not detailed", the operand's
response replaces the old top and the indefinite is pushed over ST(7). -/
def Npx.xtract (n : Npx) : NpxResult :=
  let v := n.st 0
  let full := when (!n.isEmpty 7) exI
  let both (e : BitVec 6) (x y : TempReal) : NpxResult :=
    n.reply (e ||| full) ((n.write 0 x).pushRaw (if n.isEmpty 7 then y else npxIndef), 0)
  if n.isEmpty 0 then both exI npxIndef npxIndef
  else match realClass v with
    | .nan => both exI v v
    | .infinity => both exI npxIndef npxIndef
    | .zero => both 0 v v
    | _ =>
      let e : Int := (realField v : Int) - 16383
      both 0 (Exact.ofInt e 0).toReal (packReal (realNeg v) 0x3FFF (realSig v))

/-- FABS and FCHS (R384, R385): only the sign changes, the tag stays. -/
def Npx.setSign (f : Bool → Bool) (n : Npx) : NpxResult :=
  let v := n.st 0
  if n.isEmpty 0 then n.deliverTo 0 false emptyAnswer
  else (n.put n.top (packReal (f (realNeg v)) (realField v) (realSig v)) (n.tag n.top), 0)

/-- FPTAN (R394): Y replaces the angle, X is pushed. DESIGN CHOICE (log 44): with ST(0) empty and I masked X is the real indefinite as Y
is; R350 and R338 (row 1) speak of one result and R394 gives no X for that case. -/
def Npx.ptan (free : NpxFree) (n : Npx) : NpxResult :=
  let v := n.st 0
  let ok := ptanRange v
  let y := if n.isEmpty 0 then emptyAnswer else fnAnswer free ok (npxFunction .ptanY v v) exP
  let x := if ok then npxFunction .ptanX v v else free.other
  n.reply (y.before ||| when (!n.isEmpty 7) exI)
    ((n.write 0 y.value).pushRaw (if n.isEmpty 7 && !n.isEmpty 0 then x else npxIndef), y.after)

/-- FXAM (R393): C3 C2 C1 C0. -/
def Npx.examine (free : NpxFree) (n : Npx) : NpxResult :=
  let v := n.st 0
  let sign := realNeg v
  if n.isEmpty 0 then (n.setCc true (free.cc.getLsbD 10) (free.cc.getLsbD 9) true, 0)
  else match realClass v with
    | .unnormal => (n.setCc false false sign false, 0)
    | .nan => (n.setCc false false sign true, 0)
    | .normal => (n.setCc false true sign false, 0)
    | .infinity => (n.setCc false true sign true, 0)
    | .zero => (n.setCc true false sign false, 0)
    | .denormal => (n.setCc true true sign false, 0)

/-- The constants (R400 to R406; the irrational ones by G12, log 45). -/
def NpxConst.real : NpxConst → TempReal
  | .zero => 0
  | .one => 0x3FFF8000000000000000
  | .pi => 0x4000C90FDAA22168C235
  | .l2t => 0x4000D49A784BCD1B8AFE
  | .l2e => 0x3FFFB8AA3B295C17F0BC
  | .lg2 => 0x3FFD9A209A84FBCFF799
  | .ln2 => 0x3FFEB17217F7D1CF79AC

/-- F2XM1 (R396): a zero gives itself (Table 6-24). -/
def f2xm1Answer (free : NpxFree) (v : TempReal) : NpxAnswer :=
  if realClass v = .zero then ⟨v, 0, 0⟩
  else fnAnswer free (f2xm1Range v) (npxFunction .f2xm1 v v) (exU ||| exP)

/-- An operation of the numeric unit, up to its End. `data`: the memory operand. Control operations and stores to memory are
elsewhere and do nothing here. -/
def Npx.numeric (op : NpxOp) (data : TempReal) (free : NpxFree) (n : Npx) : NpxResult :=
  let fr := free.real
  match op with
  | .load f => n.load free f data
  | .loadSt i => n.loadSt i
  | .storeSt i pop => n.storeSt i pop
  | .exchange i => n.exchange i
  | .arithMem o f => n.arithMem fr o f.isInt (loadOperand fr f data)
  | .arithSt o i => n.arithReg fr o 0 i false
  | .arithSti o i pop => n.arithReg fr o i 0 pop
  | .compareMem f pop =>
    n.compareWith free
      (if n.isEmpty 0 then emptyCompare else compareAnswer n.cw (regOperand (n.st 0)) (loadOperand fr f data)) pop.toNat
  | .compareSt i pops =>
    n.compareWith free
      (if n.isEmpty 0 || n.isEmpty i then emptyCompare
        else compareAnswer n.cw (regOperand (n.st 0)) (regOperand (n.st i))) pops
  | .test =>
    n.compareWith free
      (if n.isEmpty 0 then emptyCompare else compareAnswer n.cw (regOperand (n.st 0)) ⟨npxZero false, false⟩) 0
  | .examine => n.examine free
  | .const c => n.push c.real
  | .sqrt => n.unary (fun v => sqrtAnswer n.cw fr (regOperand v))
  | .scale => n.binary 0 false (scaleAnswer n.cw fr)
  | .prem => n.prem free
  | .rndint => n.unary (rndintAnswer n.cw)
  | .xtract => n.xtract
  | .abs => n.setSign (fun _ => false)
  | .chs => n.setSign (fun b => !b)
  | .ptan => n.ptan free
  | .patan => n.binary 1 true (fun x y => fnAnswer free (patanRange y x) (npxFunction .patan y x) (exU ||| exP))
  | .f2xm1 => n.unary (f2xm1Answer free)
  | .yl2x => n.binary 1 true (fun x y => fnAnswer free (yl2xRange y x) (npxFunction .yl2x y x) exP)
  | .yl2xp1 => n.binary 1 true (fun x y => fnAnswer free (yl2xp1Range y x) (npxFunction .yl2xp1 y x) exP)
  | .incstp => (n.setTop (n.top + 1), 0)
  | .decstp => (n.setTop (n.top - 1), 0)
  | .free i => (n.setTag (n.phys i) 3, 0)
  | _ => (n, 0)

/-- Does an operation define the condition code itself (R350, U25)? -/
def NpxOp.definesCc : NpxOp → Bool
  | .compareMem _ _ => true
  | .compareSt _ _ => true
  | .test => true
  | .examine => true
  | .prem => true
  | _ => false

/-- After any other operation the condition code is undefined. -/
def NpxOp.settleCc (op : NpxOp) (free : NpxFree) (n : Npx) : Npx := if op.definesCc then n else n.freeCc free

/-! ## Memory operands, R312 -/

/-- The `k` bytes from an address on, the lowest address least significant (R312, R326). -/
def npxRead (k : Nat) (a : Phys) (s : State) : Nat × State :=
  match k with
  | 0 => (0, s)
  | k + 1 =>
    let (b, s) := busRead8 a s
    let (rest, s) := npxRead k (a + 1) s
    (b.toNat + 256 * rest, s)

/-- Store `k` bytes of a number from an address on. -/
def npxWrite (k : Nat) (a : Phys) (v : Nat) (s : State) : State :=
  match k with
  | 0 => s
  | k + 1 => npxWrite k (a + 1) (v / 256) (busWrite8 a (BitVec.ofNat 8 v) s)

/-- Store `k` bytes of any value: the bytes of a raced or aborted store (U21). -/
def npxScatter (k : Nat) (a : Phys) (s : State) : State :=
  match k with
  | 0 => s
  | k + 1 =>
    let (b, s) := drawByte s
    npxScatter k (a + 1) (busWrite8 a b s)

/-- Draw the free values of one operation. -/
def drawNpx (s : State) : NpxFree × State :=
  let (bits, s) := drawWord s
  let (cc, s) := drawWord s
  let (sw, s) := drawWord s
  let (real, s) := drawReal s
  let (other, s) := drawReal s
  (⟨bits, cc, sw, real, other⟩, s)

/-- Replace the 8087. -/
def State.setNpx (n : Npx) (s : State) : State := { s with npx := n }

/-! ## The images, R325 -/

/-- CW as it is stored: bits 15 to 13 and 6 are any value (U24). -/
def storedCw (free : NpxFree) (cw : Word) : Word := cw &&& 0x1FBF ||| free.bits &&& 0xE040
/-- SW as it is stored: bit 6 is any value (U24). -/
def storedSw (free : NpxFree) (sw : Word) : Word := sw &&& 0xFFBF ||| free.sw &&& 0x0040
/-- CW after a load: the reserved bits are ignored (U24). -/
def loadedCw (old new : Word) : Word := new &&& 0x1FBF ||| old &&& 0xE040
/-- SW after a load. -/
def loadedSw (old new : Word) : Word := new &&& 0xFFBF ||| old &&& 0x0040

/-- The 14-byte environment image as a number. -/
def Npx.env (free : NpxFree) (n : Npx) : Nat :=
  let xip := n.xip.toNat
  let xop := n.xop.toNat
  (storedCw free n.cw).toNat + (storedSw free n.sw).toNat * 2 ^ 16 + n.tw.toNat * 2 ^ 32 + xip % 2 ^ 16 * 2 ^ 48
    + (xip / 2 ^ 16 * 2 ^ 12 + n.xopc.toNat) * 2 ^ 64 + xop % 2 ^ 16 * 2 ^ 80 + xop / 2 ^ 16 * 2 ^ 12 * 2 ^ 96

/-- Load the environment from its image; the zero fields are ignored (U24). -/
def Npx.loadEnv (img : Nat) (n : Npx) : Npx :=
  let word (k : Nat) : Nat := img / 2 ^ (16 * k) % 2 ^ 16
  { n with
    cw := loadedCw n.cw (BitVec.ofNat 16 (word 0))
    sw := loadedSw n.sw (BitVec.ofNat 16 (word 1))
    tw := BitVec.ofNat 16 (word 2)
    xip := BitVec.ofNat 20 (word 3 + word 4 / 2 ^ 12 * 2 ^ 16)
    xopc := BitVec.ofNat 11 (word 4)
    xop := BitVec.ofNat 20 (word 5 + word 6 / 2 ^ 12 * 2 ^ 16) }

/-- The registers in stack order as a number: `ST(k)` first. -/
def Npx.stack (n : Npx) (left : Nat) (i : BitVec 3) : Nat :=
  match left with
  | 0 => 0
  | left + 1 => (n.st i).toNat + 2 ^ 80 * n.stack left (i + 1)

/-- Load the registers in stack order; the tags are not touched. -/
def Npx.loadStack (n : Npx) (left : Nat) (i : BitVec 3) (img : Nat) : Npx :=
  match left with
  | 0 => n
  | left + 1 =>
    let k := n.phys i
    Npx.loadStack { n with r := n.r.set k.toNat (BitVec.ofNat 80 img) k.isLt } left (i + 1) (img / 2 ^ 80)

/-- The state FINIT leaves (R317, D26): registers and pointers stay, C3 to C0 are any value. -/
def Npx.initialize (free : NpxFree) (n : Npx) : Npx :=
  ({ n with cw := 0x03FF, sw := 0, tw := 0xFFFF, running := none, queued := none } : Npx).freeCc free

/-! ## Executing a job -/

/-- Store an operand of `k` bytes; one that another agent has touched since its ESC is left with any value (U21). -/
def npxPut (raced : Bool) (k : Nat) (a : Phys) (v : Nat) (s : State) : State :=
  if raced then npxScatter k a s else npxWrite k a v s

/-- FSAVE (R415), once nothing runs. -/
def npxSave (raced : Bool) (a : Phys) (free : NpxFree) (s : State) : State :=
  let n := s.npx
  let s := npxPut raced 80 (a + 14) (n.stack 8 0) (npxPut raced 14 a (n.env free) s)
  s.setNpx (n.initialize free)

/-- FSTENV (R417), once nothing runs: then every exception is masked. -/
def npxStoreEnv (raced : Bool) (a : Phys) (free : NpxFree) (s : State) : State :=
  let n := s.npx
  (npxPut raced 14 a (n.env free) s).setNpx { n with cw := n.cw ||| 0x003F }

/-- The 14 bytes of an environment of which the first word, `first`, is there already (R311): as a number. -/
def npxReadEnv (first : TempReal) (a : Phys) (s : State) : Nat × State :=
  let (rest, s) := npxRead 12 (a + 2) s
  (first.toNat % 2 ^ 16 + 2 ^ 16 * rest, s)

/-- FLDENV (R418). -/
def npxLoadEnv (first : TempReal) (a : Phys) (s : State) : State :=
  let (img, s) := npxReadEnv first a s
  s.setNpx (s.npx.loadEnv img).react

/-- FRSTOR (R416): the registers by the new ST. -/
def npxRestore (first : TempReal) (a : Phys) (s : State) : State :=
  let (img, s) := npxReadEnv first a s
  let (regs, s) := npxRead 80 (a + 14) s
  s.setNpx ((s.npx.loadEnv img).loadStack 8 0 regs).react

/-- FSTSW (R413): while B = 1 every other bit is any value (U23, log 46). -/
def npxStoreSw (a : Phys) (free : NpxFree) (s : State) : State :=
  let sw := s.npx.sw
  let v := if sw.getLsbD 15 then free.sw ||| 0x8000 else storedSw free sw
  npxWrite 2 a v.toNat s

/-- FINIT and RESET abort the store that runs, if one does: its bytes are left with any value (R317, U21; log 62). -/
def npxAbort (s : State) : State :=
  match s.npx.running with
  | none => s
  | some j => npxScatter j.op.stores (j.addr.getD 0) s

/-- FINIT (R408). -/
def npxInit (free : NpxFree) (s : State) : State := (npxAbort s).setNpx (s.npx.initialize free)

/-- A store of ST(0) to memory (R352, R353, R356, R357, R359): an unmasked exception leaves memory and stack as they were. DESIGN CHOICE
(log 42): FBSTP with a masked invalid operation stores the indefinite and pops, as its prose says; its pseudocode pops in the other
branch alone. -/
def npxStore (f : NpxFmt) (pop raced : Bool) (a : Phys) (free : NpxFree) (s : State) : State :=
  let n := s.npx
  let ans := if n.isEmpty 0 then ⟨fmtIndef free.real f, exI, 0⟩ else storeAnswer n.cw free.real f (n.st 0)
  if unmasked n.cw ans.before ≠ 0 then s.setNpx (Npx.finish ((n.freeCc free), ans.before))
  else
    (npxPut raced f.bytes a ans.value s).setNpx (Npx.finish ((n.popIf pop).freeCc free, ans.before ||| ans.after))

/-- Execute an operation to its end. A load operand touched since it was captured is any value (U21). -/
def npxRun (j : NpxJob) (s : State) : State :=
  let (free, s) := drawNpx s
  let a := j.addr.getD 0
  let (data, s) := if j.raced then drawReal s else (j.data, s)
  match j.op with
  | .store f pop => npxStore f pop j.raced a free s
  | .init => npxInit free s
  | .disi => s.setNpx (({ s.npx with cw := s.npx.cw ||| 0x0080 } : Npx).freeCc free)
  | .eni => s.setNpx (({ s.npx with cw := s.npx.cw &&& 0xFF7F } : Npx).freeCc free)
  | .ldcw => s.setNpx (({ s.npx with cw := loadedCw s.npx.cw (data.setWidth 16) } : Npx).freeCc free).react
  | .stcw => (npxWrite 2 a (storedCw free s.npx.cw).toNat s).setNpx (s.npx.freeCc free)
  | .stsw => (npxStoreSw a free s).setNpx (s.npx.freeCc free)
  | .clex => s.setNpx { s.npx with sw := s.npx.sw &&& 0x7F40 }
  | .save => npxSave j.raced a free s
  | .rstor => npxRestore data a s
  | .stenv => npxStoreEnv j.raced a free s
  | .ldenv => npxLoadEnv data a s
  | op =>
    let p := s.npx.numeric op data free
    s.setNpx (Npx.finish (op.settleCc free p.1, p.2))

/-! ## Handing over, R311, R315, R316 -/

/-- The operations with a no-wait form, which the control unit executes itself (R315). -/
def NpxOp.noWait : NpxOp → Bool
  | .init => true
  | .disi => true
  | .eni => true
  | .stcw => true
  | .stsw => true
  | .clex => true
  | .stenv => true
  | .save => true
  | _ => false

/-- The operations that finish at their ESC even when numeric ones are left running (log 35). -/
def NpxOp.immediate : NpxOp → Bool
  | .ldcw => true
  | .ldenv => true
  | .rstor => true
  | op => op.noWait

/-- The operations that update the exception pointers (R324, D28; log 37). -/
def NpxOp.setsPointers : NpxOp → Bool
  | .stenv => false
  | .save => false
  | .stcw => false
  | .stsw => false
  | .clex => false
  | .init => false
  | .ldenv => false
  | .rstor => false
  | _ => true

/-- The exception pointers after an operation is accepted (R324). -/
def Npx.point (j : NpxJob) (n : Npx) : Npx :=
  if j.op.setsPointers then { n with xip := j.ip, xopc := j.opcode, xop := j.addr.getD n.xop } else n

/-- `Begin` (R350): B becomes 1 for what is not a no-wait operation. -/
def Npx.begin (j : NpxJob) (n : Npx) : Npx :=
  let n := n.point j
  if j.op.noWait then n else { n with sw := n.sw ||| 0x8000 }

/-- The job of an ESC: a load takes its first word, `first`, from the CPU's dummy read and reads the rest at once (R311). -/
def captureJob (op : NpxOp) (opcode : BitVec 11) (addr : Option Phys) (first : Word) (s : State) : NpxJob × State :=
  let (rest, s) := npxRead (op.loads - 2) (addr.getD 0 + 2) s
  let data := if op.loads = 0 then 0 else BitVec.ofNat 80 (first.toNat + 2 ^ 16 * rest)
  (⟨op, opcode, phys s.segs.cs s.ctl.opIp, addr, data, false⟩, s)

/-- A no-wait store decoded while a store is queued could destroy the queued one (R315): a free bit says whether the single place
still holds it; `second`: what it holds if not. DESIGN CHOICE (log 50). -/
def npxOverQueue (second : Option NpxJob) (s : State) : State :=
  match s.npx.queued with
  | none => s.setNpx { s.npx with queued := second }
  | some q =>
    let (kept, s) := drawBit s
    s.setNpx { s.npx with queued := if kept then some q else second }

/-- What the 8087 does with an operation while its numeric unit is executing (R315, R414, U22). -/
def npxWhileRunning (j : NpxJob) (s : State) : Host.Outcome State Fault Refusal :=
  match j.op with
  | .init => .next (npxRun j s)
  | .disi => .next (npxRun j (s.setNpx (s.npx.begin j)))
  | .eni => .next (npxRun j (s.setNpx (s.npx.begin j)))
  | .stcw => .next (npxOverQueue none (npxRun j s))
  | .stsw => .next (npxOverQueue none (npxRun j s))
  | .save => .next (npxOverQueue (some j) s)
  | .stenv => .next (npxOverQueue (some j) s)
  | _ => .refused .npxBusy

/-- What an idle 8087 does: execute, or start and go on alone (R315). -/
def npxStart (j : NpxJob) (s : State) : State :=
  let s := s.setNpx (s.npx.begin j)
  if s.cfg.npxOverlap && !j.op.immediate then s.setNpx { s.npx with running := some j } else npxRun j s

/-- Hand an operation to the 8087. With an unmasked exception outstanding (B = 1) only the no-wait forms pass (R316, U22). -/
def npxIssue (op : NpxOp) (opcode : BitVec 11) (addr : Option Phys) (first : Word) (s : State) :
    Host.Outcome State Fault Refusal :=
  if s.npx.running.isSome then
    let (j, s) := captureJob op opcode addr first s
    npxWhileRunning j s
  else if s.npx.busy && !op.noWait then .refused .npxBusy
  else
    let (j, s) := captureJob op opcode addr first s
    .next (npxStart j s)

/-- The running job completes, then a queued one runs (R315). -/
def npxComplete (s : State) : State :=
  match s.npx.running with
  | none => s
  | some j =>
    let queued := s.npx.queued
    let s := npxRun j (s.setNpx { s.npx with running := none, queued := none })
    match queued with
    | none => s
    | some q => npxRun q s

/-- Does what the 8087 has still to do need the bus: does the running job store, or is a store queued behind it (R312)? -/
def Npx.needsBus (n : Npx) : Bool :=
  match n.running with
  | none => false
  | some j => j.op.stores != 0 || n.queued.isSome

/-- The running job completes, unless it needs the bus and may not have it (R313). -/
def npxProceed (free : Bool) (s : State) : State := if free || !s.npx.needsBus then npxComplete s else s

/-! ## The CPU's part: ESC, 46_processor_control.md R239 -/

/-- The dummy read of a memory form: the CPU discards the word, the 8087 takes it as the first of a load (R311). -/
def dummyRead (rm : Rm) (s : State) : Word × State :=
  match rm with
  | .reg _ => (0, s)
  | m => readMem .word (eaSeg s m) (eaOff s m) s

/-- The 20-bit operand address of a memory form (R311). -/
def escAddr (rm : Rm) (s : State) : Option Phys :=
  match rm with
  | .reg _ => none
  | m => some (phys (eaSeg s m) (eaOff s m))

/-- The 11 opcode bits of an ESC (R324): b1[2:0], then the mod r/m byte. -/
def escOpcode (x : BitVec 6) (rm : Rm) : BitVec 11 :=
  x.extractLsb' 3 3 ++ (encodeModRm (x.extractLsb' 0 3) rm).headD 0

/-- Does an ESC trap: 80186,188 with the ET bit set (R239)? -/
def State.escTraps (s : State) : Bool := s.is186 && s.pcb.escTrap

/-- The return address of the ESC trap: the segment override byte if there is one, else the ESC (R239). -/
def State.escIp (s : State) : Word := if s.ctl.latches.seg.isSome then s.ctl.segIp else s.ctl.opIp

/-- ESC: the trap, or the dummy read and then the 8087's part; `op`: what the bytes mean to the 8087, if anything (U37). -/
def escape (x : BitVec 6) (rm : Rm) (op : Option NpxOp) (s : State) : Host.Outcome State Fault Refusal :=
  if s.escTraps then .next (interrupt 7 s.escIp s)
  else
    let addr := escAddr rm s
    let (first, s) := dummyRead rm s
    if s.cfg.hasNpx then
      match op with
      | none => .refused .npxUndefinedEscape
      | some op => npxIssue op (escOpcode x rm) addr first s
    else .next s

/-- An 8087 instruction with a memory operand; it has no register form. -/
def escMemory (x : BitVec 6) (rm : Rm) (op : NpxOp) (s : State) : Host.Outcome State Fault Refusal :=
  match rm with
  | .reg _ => .refused (.undefinedEncoding .registerOperand)
  | m => escape x m (some op) s

/-- An 8087 instruction without a memory operand: the r/m field is `i`. -/
def escRegister (x : BitVec 6) (i : BitVec 3) (op : NpxOp) (s : State) : Host.Outcome State Fault Refusal :=
  escape x (.reg (Reg.ofBits i)) (some op) s

end Sys2Proof.Machine
end

