-- ==== Sys2Proof/Machine/NpxInstr.lean ====
section
/-! DEFINITION. The 8087 instructions (48_npx_8087_instructions.md R351 to R422): each is an ESC of the CPU (46_processor_control.md
R239) with the operation it names to the 8087. Encodings R424 (D30, log 39): the ESC code is the low three bits of the opcode byte
and the reg field. -/

namespace Sys2Proof.Machine

/-! ## Memory operands -/

/-- FADD short real (R361). -/
def execFaddM32 (rm : Rm) (s : State) : Host.Outcome State Fault Refusal :=
  escMemory 0 rm (.arithMem .add .real32) s

/-- FMUL short real (R370). -/
def execFmulM32 (rm : Rm) (s : State) : Host.Outcome State Fault Refusal :=
  escMemory 1 rm (.arithMem .mul .real32) s

/-- FCOM short real (R387). -/
def execFcomM32 (rm : Rm) (s : State) : Host.Outcome State Fault Refusal :=
  escMemory 2 rm (.compareMem .real32 false) s

/-- FCOMP short real (R388). -/
def execFcompM32 (rm : Rm) (s : State) : Host.Outcome State Fault Refusal :=
  escMemory 3 rm (.compareMem .real32 true) s

/-- FSUB short real (R364). -/
def execFsubM32 (rm : Rm) (s : State) : Host.Outcome State Fault Refusal :=
  escMemory 4 rm (.arithMem .sub .real32) s

/-- FSUBR short real (R367). -/
def execFsubrM32 (rm : Rm) (s : State) : Host.Outcome State Fault Refusal :=
  escMemory 5 rm (.arithMem .subr .real32) s

/-- FDIV short real (R373). -/
def execFdivM32 (rm : Rm) (s : State) : Host.Outcome State Fault Refusal :=
  escMemory 6 rm (.arithMem .div .real32) s

/-- FDIVR short real (R376). -/
def execFdivrM32 (rm : Rm) (s : State) : Host.Outcome State Fault Refusal :=
  escMemory 7 rm (.arithMem .divr .real32) s

/-- FLD short real (R351). -/
def execFldM32 (rm : Rm) (s : State) : Host.Outcome State Fault Refusal :=
  escMemory 8 rm (.load .real32) s

/-- FST short real (R352). -/
def execFstM32 (rm : Rm) (s : State) : Host.Outcome State Fault Refusal :=
  escMemory 10 rm (.store .real32 false) s

/-- FSTP short real (R353). -/
def execFstpM32 (rm : Rm) (s : State) : Host.Outcome State Fault Refusal :=
  escMemory 11 rm (.store .real32 true) s

/-- FLDENV (R418). -/
def execFldenv (rm : Rm) (s : State) : Host.Outcome State Fault Refusal :=
  escMemory 12 rm (.ldenv) s

/-- FLDCW (R411). -/
def execFldcw (rm : Rm) (s : State) : Host.Outcome State Fault Refusal :=
  escMemory 13 rm (.ldcw) s

/-- FSTENV, FNSTENV (R417). -/
def execFstenv (rm : Rm) (s : State) : Host.Outcome State Fault Refusal :=
  escMemory 14 rm (.stenv) s

/-- FSTCW, FNSTCW (R412). -/
def execFstcw (rm : Rm) (s : State) : Host.Outcome State Fault Refusal :=
  escMemory 15 rm (.stcw) s

/-- FIADD short integer (R363). -/
def execFiaddI32 (rm : Rm) (s : State) : Host.Outcome State Fault Refusal :=
  escMemory 16 rm (.arithMem .add .int32) s

/-- FIMUL short integer (R372). -/
def execFimulI32 (rm : Rm) (s : State) : Host.Outcome State Fault Refusal :=
  escMemory 17 rm (.arithMem .mul .int32) s

/-- FICOM short integer (R390). -/
def execFicomI32 (rm : Rm) (s : State) : Host.Outcome State Fault Refusal :=
  escMemory 18 rm (.compareMem .int32 false) s

/-- FICOMP short integer (R391). -/
def execFicompI32 (rm : Rm) (s : State) : Host.Outcome State Fault Refusal :=
  escMemory 19 rm (.compareMem .int32 true) s

/-- FISUB short integer (R366). -/
def execFisubI32 (rm : Rm) (s : State) : Host.Outcome State Fault Refusal :=
  escMemory 20 rm (.arithMem .sub .int32) s

/-- FISUBR short integer (R369). -/
def execFisubrI32 (rm : Rm) (s : State) : Host.Outcome State Fault Refusal :=
  escMemory 21 rm (.arithMem .subr .int32) s

/-- FIDIV short integer (R375). -/
def execFidivI32 (rm : Rm) (s : State) : Host.Outcome State Fault Refusal :=
  escMemory 22 rm (.arithMem .div .int32) s

/-- FIDIVR short integer (R378). -/
def execFidivrI32 (rm : Rm) (s : State) : Host.Outcome State Fault Refusal :=
  escMemory 23 rm (.arithMem .divr .int32) s

/-- FILD short integer (R355). -/
def execFildI32 (rm : Rm) (s : State) : Host.Outcome State Fault Refusal :=
  escMemory 24 rm (.load .int32) s

/-- FIST short integer (R356). -/
def execFistI32 (rm : Rm) (s : State) : Host.Outcome State Fault Refusal :=
  escMemory 26 rm (.store .int32 false) s

/-- FISTP short integer (R357). -/
def execFistpI32 (rm : Rm) (s : State) : Host.Outcome State Fault Refusal :=
  escMemory 27 rm (.store .int32 true) s

/-- FLD temporary real (R351). -/
def execFldM80 (rm : Rm) (s : State) : Host.Outcome State Fault Refusal :=
  escMemory 29 rm (.load .real80) s

/-- FSTP temporary real (R353). -/
def execFstpM80 (rm : Rm) (s : State) : Host.Outcome State Fault Refusal :=
  escMemory 31 rm (.store .real80 true) s

/-- FADD long real (R361). -/
def execFaddM64 (rm : Rm) (s : State) : Host.Outcome State Fault Refusal :=
  escMemory 32 rm (.arithMem .add .real64) s

/-- FMUL long real (R370). -/
def execFmulM64 (rm : Rm) (s : State) : Host.Outcome State Fault Refusal :=
  escMemory 33 rm (.arithMem .mul .real64) s

/-- FCOM long real (R387). -/
def execFcomM64 (rm : Rm) (s : State) : Host.Outcome State Fault Refusal :=
  escMemory 34 rm (.compareMem .real64 false) s

/-- FCOMP long real (R388). -/
def execFcompM64 (rm : Rm) (s : State) : Host.Outcome State Fault Refusal :=
  escMemory 35 rm (.compareMem .real64 true) s

/-- FSUB long real (R364). -/
def execFsubM64 (rm : Rm) (s : State) : Host.Outcome State Fault Refusal :=
  escMemory 36 rm (.arithMem .sub .real64) s

/-- FSUBR long real (R367). -/
def execFsubrM64 (rm : Rm) (s : State) : Host.Outcome State Fault Refusal :=
  escMemory 37 rm (.arithMem .subr .real64) s

/-- FDIV long real (R373). -/
def execFdivM64 (rm : Rm) (s : State) : Host.Outcome State Fault Refusal :=
  escMemory 38 rm (.arithMem .div .real64) s

/-- FDIVR long real (R376). -/
def execFdivrM64 (rm : Rm) (s : State) : Host.Outcome State Fault Refusal :=
  escMemory 39 rm (.arithMem .divr .real64) s

/-- FLD long real (R351). -/
def execFldM64 (rm : Rm) (s : State) : Host.Outcome State Fault Refusal :=
  escMemory 40 rm (.load .real64) s

/-- FST long real (R352). -/
def execFstM64 (rm : Rm) (s : State) : Host.Outcome State Fault Refusal :=
  escMemory 42 rm (.store .real64 false) s

/-- FSTP long real (R353). -/
def execFstpM64 (rm : Rm) (s : State) : Host.Outcome State Fault Refusal :=
  escMemory 43 rm (.store .real64 true) s

/-- FRSTOR (R416). -/
def execFrstor (rm : Rm) (s : State) : Host.Outcome State Fault Refusal :=
  escMemory 44 rm (.rstor) s

/-- FSAVE, FNSAVE (R415). -/
def execFsave (rm : Rm) (s : State) : Host.Outcome State Fault Refusal :=
  escMemory 46 rm (.save) s

/-- FSTSW, FNSTSW (R413). -/
def execFstsw (rm : Rm) (s : State) : Host.Outcome State Fault Refusal :=
  escMemory 47 rm (.stsw) s

/-- FIADD word integer (R363). -/
def execFiaddI16 (rm : Rm) (s : State) : Host.Outcome State Fault Refusal :=
  escMemory 48 rm (.arithMem .add .int16) s

/-- FIMUL word integer (R372). -/
def execFimulI16 (rm : Rm) (s : State) : Host.Outcome State Fault Refusal :=
  escMemory 49 rm (.arithMem .mul .int16) s

/-- FICOM word integer (R390). -/
def execFicomI16 (rm : Rm) (s : State) : Host.Outcome State Fault Refusal :=
  escMemory 50 rm (.compareMem .int16 false) s

/-- FICOMP word integer (R391). -/
def execFicompI16 (rm : Rm) (s : State) : Host.Outcome State Fault Refusal :=
  escMemory 51 rm (.compareMem .int16 true) s

/-- FISUB word integer (R366). -/
def execFisubI16 (rm : Rm) (s : State) : Host.Outcome State Fault Refusal :=
  escMemory 52 rm (.arithMem .sub .int16) s

/-- FISUBR word integer (R369). -/
def execFisubrI16 (rm : Rm) (s : State) : Host.Outcome State Fault Refusal :=
  escMemory 53 rm (.arithMem .subr .int16) s

/-- FIDIV word integer (R375). -/
def execFidivI16 (rm : Rm) (s : State) : Host.Outcome State Fault Refusal :=
  escMemory 54 rm (.arithMem .div .int16) s

/-- FIDIVR word integer (R378). -/
def execFidivrI16 (rm : Rm) (s : State) : Host.Outcome State Fault Refusal :=
  escMemory 55 rm (.arithMem .divr .int16) s

/-- FILD word integer (R355). -/
def execFildI16 (rm : Rm) (s : State) : Host.Outcome State Fault Refusal :=
  escMemory 56 rm (.load .int16) s

/-- FIST word integer (R356). -/
def execFistI16 (rm : Rm) (s : State) : Host.Outcome State Fault Refusal :=
  escMemory 58 rm (.store .int16 false) s

/-- FISTP word integer (R357). -/
def execFistpI16 (rm : Rm) (s : State) : Host.Outcome State Fault Refusal :=
  escMemory 59 rm (.store .int16 true) s

/-- FBLD (R358). -/
def execFbld (rm : Rm) (s : State) : Host.Outcome State Fault Refusal :=
  escMemory 60 rm (.load .bcd) s

/-- FILD long integer (R355). -/
def execFildI64 (rm : Rm) (s : State) : Host.Outcome State Fault Refusal :=
  escMemory 61 rm (.load .int64) s

/-- FBSTP (R359). -/
def execFbstp (rm : Rm) (s : State) : Host.Outcome State Fault Refusal :=
  escMemory 62 rm (.store .bcd true) s

/-- FISTP long integer (R357). -/
def execFistpI64 (rm : Rm) (s : State) : Host.Outcome State Fault Refusal :=
  escMemory 63 rm (.store .int64 true) s

/-! ## Register operands and none -/

/-- FADD ST,ST(i) (R361). -/
def execFaddStSti (i : BitVec 3) (s : State) : Host.Outcome State Fault Refusal :=
  escRegister 0 i (.arithSt .add i) s

/-- FMUL ST,ST(i) (R370). -/
def execFmulStSti (i : BitVec 3) (s : State) : Host.Outcome State Fault Refusal :=
  escRegister 1 i (.arithSt .mul i) s

/-- FCOM ST(i) (R387). -/
def execFcomSti (i : BitVec 3) (s : State) : Host.Outcome State Fault Refusal :=
  escRegister 2 i (.compareSt i 0) s

/-- FCOMP ST(i) (R388). -/
def execFcompSti (i : BitVec 3) (s : State) : Host.Outcome State Fault Refusal :=
  escRegister 3 i (.compareSt i 1) s

/-- FSUB ST,ST(i) (R364). -/
def execFsubStSti (i : BitVec 3) (s : State) : Host.Outcome State Fault Refusal :=
  escRegister 4 i (.arithSt .sub i) s

/-- FSUBR ST,ST(i) (R367). -/
def execFsubrStSti (i : BitVec 3) (s : State) : Host.Outcome State Fault Refusal :=
  escRegister 5 i (.arithSt .subr i) s

/-- FDIV ST,ST(i) (R373). -/
def execFdivStSti (i : BitVec 3) (s : State) : Host.Outcome State Fault Refusal :=
  escRegister 6 i (.arithSt .div i) s

/-- FDIVR ST,ST(i) (R376). -/
def execFdivrStSti (i : BitVec 3) (s : State) : Host.Outcome State Fault Refusal :=
  escRegister 7 i (.arithSt .divr i) s

/-- FLD ST(i) (R351). -/
def execFldSti (i : BitVec 3) (s : State) : Host.Outcome State Fault Refusal :=
  escRegister 8 i (.loadSt i) s

/-- FXCH ST(i) (R354). -/
def execFxchSti (i : BitVec 3) (s : State) : Host.Outcome State Fault Refusal :=
  escRegister 9 i (.exchange i) s

/-- FNOP (R422). -/
def execFnop (s : State) : Host.Outcome State Fault Refusal :=
  escRegister 10 0 (.nop) s

/-- FCHS (R385). -/
def execFchs (s : State) : Host.Outcome State Fault Refusal :=
  escRegister 12 0 (.chs) s

/-- FABS (R384). -/
def execFabs (s : State) : Host.Outcome State Fault Refusal :=
  escRegister 12 1 (.abs) s

/-- FTST (R392). -/
def execFtst (s : State) : Host.Outcome State Fault Refusal :=
  escRegister 12 4 (.test) s

/-- FXAM (R393). -/
def execFxam (s : State) : Host.Outcome State Fault Refusal :=
  escRegister 12 5 (.examine) s

/-- FLD1 (R401). -/
def execFld1 (s : State) : Host.Outcome State Fault Refusal :=
  escRegister 13 0 (.const .one) s

/-- FLDL2T (R403). -/
def execFldl2t (s : State) : Host.Outcome State Fault Refusal :=
  escRegister 13 1 (.const .l2t) s

/-- FLDL2E (R404). -/
def execFldl2e (s : State) : Host.Outcome State Fault Refusal :=
  escRegister 13 2 (.const .l2e) s

/-- FLDPI (R402). -/
def execFldpi (s : State) : Host.Outcome State Fault Refusal :=
  escRegister 13 3 (.const .pi) s

/-- FLDLG2 (R405). -/
def execFldlg2 (s : State) : Host.Outcome State Fault Refusal :=
  escRegister 13 4 (.const .lg2) s

/-- FLDLN2 (R406). -/
def execFldln2 (s : State) : Host.Outcome State Fault Refusal :=
  escRegister 13 5 (.const .ln2) s

/-- FLDZ (R400). -/
def execFldz (s : State) : Host.Outcome State Fault Refusal :=
  escRegister 13 6 (.const .zero) s

/-- F2XM1 (R396). -/
def execF2xm1 (s : State) : Host.Outcome State Fault Refusal :=
  escRegister 14 0 (.f2xm1) s

/-- FYL2X (R397). -/
def execFyl2x (s : State) : Host.Outcome State Fault Refusal :=
  escRegister 14 1 (.yl2x) s

/-- FPTAN (R394). -/
def execFptan (s : State) : Host.Outcome State Fault Refusal :=
  escRegister 14 2 (.ptan) s

/-- FPATAN (R395). -/
def execFpatan (s : State) : Host.Outcome State Fault Refusal :=
  escRegister 14 3 (.patan) s

/-- FXTRACT (R383). -/
def execFxtract (s : State) : Host.Outcome State Fault Refusal :=
  escRegister 14 4 (.xtract) s

/-- FDECSTP (R420). -/
def execFdecstp (s : State) : Host.Outcome State Fault Refusal :=
  escRegister 14 6 (.decstp) s

/-- FINCSTP (R419). -/
def execFincstp (s : State) : Host.Outcome State Fault Refusal :=
  escRegister 14 7 (.incstp) s

/-- FPREM (R381). -/
def execFprem (s : State) : Host.Outcome State Fault Refusal :=
  escRegister 15 0 (.prem) s

/-- FYL2XP1 (R398). -/
def execFyl2xp1 (s : State) : Host.Outcome State Fault Refusal :=
  escRegister 15 1 (.yl2xp1) s

/-- FSQRT (R379). -/
def execFsqrt (s : State) : Host.Outcome State Fault Refusal :=
  escRegister 15 2 (.sqrt) s

/-- FRNDINT (R382). -/
def execFrndint (s : State) : Host.Outcome State Fault Refusal :=
  escRegister 15 4 (.rndint) s

/-- FSCALE (R380). -/
def execFscale (s : State) : Host.Outcome State Fault Refusal :=
  escRegister 15 5 (.scale) s

/-- FENI, FNENI (R410). -/
def execFeni (s : State) : Host.Outcome State Fault Refusal :=
  escRegister 28 0 (.eni) s

/-- FDISI, FNDISI (R409). -/
def execFdisi (s : State) : Host.Outcome State Fault Refusal :=
  escRegister 28 1 (.disi) s

/-- FCLEX, FNCLEX (R414). -/
def execFclex (s : State) : Host.Outcome State Fault Refusal :=
  escRegister 28 2 (.clex) s

/-- FINIT, FNINIT (R408). -/
def execFinit (s : State) : Host.Outcome State Fault Refusal :=
  escRegister 28 3 (.init) s

/-- FADD ST(i),ST (R361). -/
def execFaddStiSt (i : BitVec 3) (s : State) : Host.Outcome State Fault Refusal :=
  escRegister 32 i (.arithSti .add i false) s

/-- FMUL ST(i),ST (R370). -/
def execFmulStiSt (i : BitVec 3) (s : State) : Host.Outcome State Fault Refusal :=
  escRegister 33 i (.arithSti .mul i false) s

/-- FSUBR ST(i),ST (R367). -/
def execFsubrStiSt (i : BitVec 3) (s : State) : Host.Outcome State Fault Refusal :=
  escRegister 36 i (.arithSti .subr i false) s

/-- FSUB ST(i),ST (R364). -/
def execFsubStiSt (i : BitVec 3) (s : State) : Host.Outcome State Fault Refusal :=
  escRegister 37 i (.arithSti .sub i false) s

/-- FDIVR ST(i),ST (R376). -/
def execFdivrStiSt (i : BitVec 3) (s : State) : Host.Outcome State Fault Refusal :=
  escRegister 38 i (.arithSti .divr i false) s

/-- FDIV ST(i),ST (R373). -/
def execFdivStiSt (i : BitVec 3) (s : State) : Host.Outcome State Fault Refusal :=
  escRegister 39 i (.arithSti .div i false) s

/-- FFREE ST(i) (R421). -/
def execFfreeSti (i : BitVec 3) (s : State) : Host.Outcome State Fault Refusal :=
  escRegister 40 i (.free i) s

/-- FST ST(i) (R352). -/
def execFstSti (i : BitVec 3) (s : State) : Host.Outcome State Fault Refusal :=
  escRegister 42 i (.storeSt i false) s

/-- FSTP ST(i) (R353). -/
def execFstpSti (i : BitVec 3) (s : State) : Host.Outcome State Fault Refusal :=
  escRegister 43 i (.storeSt i true) s

/-- FADDP ST(i),ST (R362). -/
def execFaddpStiSt (i : BitVec 3) (s : State) : Host.Outcome State Fault Refusal :=
  escRegister 48 i (.arithSti .add i true) s

/-- FMULP ST(i),ST (R371). -/
def execFmulpStiSt (i : BitVec 3) (s : State) : Host.Outcome State Fault Refusal :=
  escRegister 49 i (.arithSti .mul i true) s

/-- FCOMPP (R389). -/
def execFcompp (s : State) : Host.Outcome State Fault Refusal :=
  escRegister 51 1 (.compareSt 1 2) s

/-- FSUBRP ST(i),ST (R368). -/
def execFsubrpStiSt (i : BitVec 3) (s : State) : Host.Outcome State Fault Refusal :=
  escRegister 52 i (.arithSti .subr i true) s

/-- FSUBP ST(i),ST (R365). -/
def execFsubpStiSt (i : BitVec 3) (s : State) : Host.Outcome State Fault Refusal :=
  escRegister 53 i (.arithSti .sub i true) s

/-- FDIVRP ST(i),ST (R377). -/
def execFdivrpStiSt (i : BitVec 3) (s : State) : Host.Outcome State Fault Refusal :=
  escRegister 54 i (.arithSti .divr i true) s

/-- FDIVP ST(i),ST (R374). -/
def execFdivpStiSt (i : BitVec 3) (s : State) : Host.Outcome State Fault Refusal :=
  escRegister 55 i (.arithSti .div i true) s

end Sys2Proof.Machine
end

