-- ==== Sys2Proof/Machine/Proc.lean ====
section
/-! DEFINITION. Processor control (46_processor_control.md R230 to R241), the segment override (30_encoding.md R57) and the unused
opcodes (30_encoding.md R64, 60_exceptions.md R270). -/

namespace Sys2Proof.Machine

/-! ## Flag operations -/

/-- CLC (R230). -/
def execClc (s : State) : Host.Outcome State Fault Refusal := .next (s.setFlags { s.flags with cf := false })

/-- CMC (R231). -/
def execCmc (s : State) : Host.Outcome State Fault Refusal := .next (s.setFlags { s.flags with cf := !s.flags.cf })

/-- STC (R232). -/
def execStc (s : State) : Host.Outcome State Fault Refusal := .next (s.setFlags { s.flags with cf := true })

/-- CLD (R233). -/
def execCld (s : State) : Host.Outcome State Fault Refusal := .next (s.setFlags { s.flags with df := false })

/-- STD (R234). -/
def execStd (s : State) : Host.Outcome State Fault Refusal := .next (s.setFlags { s.flags with df := true })

/-- CLI (R235): at once. -/
def execCli (s : State) : Host.Outcome State Fault Refusal := .next (s.setFlags { s.flags with ie := false })

/-- Set `intr_delay` (60_exceptions.md R261). -/
def State.delayIntr (c : Bool) (s : State) : State :=
  { s with ctl := { s.ctl with intrDelay := s.ctl.intrDelay || c } }

/-- STI (R236): INTR waits for one instruction when IF goes from 0 to 1 (D18). -/
def execSti (s : State) : Host.Outcome State Fault Refusal :=
  .next ((s.delayIntr (!s.flags.ie)).setFlags { s.flags with ie := true })

/-! ## External synchronization -/

/-- Where the CPU stands after an item. -/
def State.setPhase (p : Phase) (s : State) : State := { s with ctl := { s.ctl with phase := p } }

/-- HLT (R237). -/
def execHlt (s : State) : Host.Outcome State Fault Refusal := .next (s.setPhase .halted)

/-- TEST is active: with an 8087, exactly while its BUSY is inactive (47_npx_8087_state.md R316). -/
def State.testActive (s : State) : Bool := if s.cfg.hasNpx then !s.npx.busy else s.pins.test

/-- WAIT (R238): one test of TEST. While it is inactive IP stays at the WAIT's opcode byte and the phase says so, for the next test
cycle; within the test cycle a running 8087 operation completes (log 35), unless it needs the bus, which a LOCK prefix of the
WAIT keeps from it (20_memory.md R43). -/
def waitTest (s : State) : State :=
  if s.testActive then s
  else
    let s := npxProceed (!s.ctl.latches.lock) s
    ({ s with ip := s.ctl.opIp } : State).setPhase .waiting

/-- WAIT (R238). -/
def execWait (s : State) : Host.Outcome State Fault Refusal := .next (waitTest s)

/-- FWAIT (48_npx_8087_instructions.md R423): the same byte as WAIT. -/
def execFwait (s : State) : Host.Outcome State Fault Refusal := .next (waitTest s)

/-- ESC with bytes that are no 8087 instruction (R239, U37). -/
def execEsc (x : BitVec 6) (rm : Rm) (s : State) : Host.Outcome State Fault Refusal := escape x rm none s

/-- Change the latches of the instruction in progress; its opcode is still to come (30_encoding.md R56). -/
def State.setLatches (l : Latches) (s : State) : State :=
  { s with ctl := { s.ctl with latches := l, phase := .prefixed } }

/-- The LOCK latch (R240): other bus masters wait until the instruction has ended (20_memory.md R43). -/
def execLockPrefix (s : State) : Host.Outcome State Fault Refusal :=
  .next (s.setLatches { s.ctl.latches with lock := true })

/-- NOP (R241). -/
def execNop (s : State) : Host.Outcome State Fault Refusal := .next s

/-- The segment override latch (30_encoding.md R57); its offset is remembered for the ESC trap (60_exceptions.md R254). The last
one counts (D10). -/
def execSegPrefix (sr : SReg) (s : State) : Host.Outcome State Fault Refusal :=
  let s := s.setLatches { s.ctl.latches with seg := some sr }
  .next { s with ctl := { s.ctl with segIp := s.ctl.opIp } }

/-! ## Unused opcodes (R64, R270) -/

/-- 63H. -/
def execUnused63 (s : State) : Host.Outcome State Fault Refusal := unusedOpcode s
/-- 64H. -/
def execUnused64 (s : State) : Host.Outcome State Fault Refusal := unusedOpcode s
/-- 65H. -/
def execUnused65 (s : State) : Host.Outcome State Fault Refusal := unusedOpcode s
/-- 66H. -/
def execUnused66 (s : State) : Host.Outcome State Fault Refusal := unusedOpcode s
/-- 67H. -/
def execUnused67 (s : State) : Host.Outcome State Fault Refusal := unusedOpcode s
/-- F1H. -/
def execUnusedF1 (s : State) : Host.Outcome State Fault Refusal := unusedOpcode s
/-- FEH /7. -/
def execUnusedFE7 (_rm : Rm) (s : State) : Host.Outcome State Fault Refusal := unusedOpcode s
/-- FFH /7. -/
def execUnusedFF7 (_rm : Rm) (s : State) : Host.Outcome State Fault Refusal := unusedOpcode s

end Sys2Proof.Machine
end

