-- ==== Sys2Proof/Machine/Str.lean ====
section
/-! DEFINITION. The string instructions and the repeat latch (43_string.md R160 to R171). A repeated instruction makes ONE pass of
R162's loop per `exec`; when more passes follow, IP goes back to its opcode byte and the phase says so, and the cycle performs
the interrupt tests of R163 in between. -/

namespace Sys2Proof.Machine

/-- `Adv` (R161): by 1 or 2, down when DF = 1. -/
def advance (w : Width) (s : State) (v : Word) : Word :=
  let delta := BitVec.ofNat 16 w.bytes
  if s.flags.df then v - delta else v + delta

/-- SI <- Adv(SI). -/
def advanceSi (w : Width) (s : State) : State := s.set .si (advance w s (s.get .si))
/-- DI <- Adv(DI). -/
def advanceDi (w : Width) (s : State) : State := s.set .di (advance w s (s.get .di))

/-- The source element, at SegFor(DS):SI (R160). -/
def readSource (w : Width) (s : State) : BitVec w.bits × State := readMem w (s.segFor .ds) (s.get .si) s
/-- The destination element, at ES:DI; no override (R160). -/
def readDest (w : Width) (s : State) : BitVec w.bits × State := readMem w s.segs.es (s.get .di) s
/-- Store the destination element at ES:DI. -/
def writeDest (w : Width) (v : BitVec w.bits) (s : State) : State := writeMem w s.segs.es (s.get .di) v s

/-- Another pass follows: back to the opcode byte (R162). -/
def repeatAgain (s : State) : State := { s with ip := s.ctl.opIp, ctl := { s.ctl with phase := .repeating } }

/-- One pass of a string instruction under the repeat latch (R162). `compares`: CMPS and SCAS, which also test ZF. -/
def repeated (compares : Bool) (primitive : State → State) (s : State) : State :=
  match s.ctl.latches.rep with
  | none => primitive s
  | some z =>
    if s.get .cx = 0 then s
    else
      let s := primitive s
      let s := s.set .cx (s.get .cx - 1)
      if s.get .cx = 0 ∨ (compares ∧ s.flags.zf ≠ z) then s else repeatAgain s

/-- The MOVS primitive (R164). -/
def movsOnce (w : Width) (s : State) : State :=
  let (v, s) := readSource w s
  advanceDi w (advanceSi w (writeDest w v s))

/-- The CMPS primitive: source minus destination (R165, C46). -/
def cmpsOnce (w : Width) (s : State) : State :=
  let (a, s) := readSource w s
  let (b, s) := readDest w s
  advanceDi w (advanceSi w (s.setFlags (s.flags.subtraction a b false)))

/-- The SCAS primitive (R166). -/
def scasOnce (w : Width) (s : State) : State :=
  let (b, s) := readDest w s
  advanceDi w (s.setFlags (s.flags.subtraction (s.acc w) b false))

/-- The LODS primitive (R167). -/
def lodsOnce (w : Width) (s : State) : State :=
  let (v, s) := readSource w s
  advanceSi w (s.setAcc w v)

/-- The STOS primitive (R168). -/
def stosOnce (w : Width) (s : State) : State := advanceDi w (writeDest w (s.acc w) s)

/-- The INS primitive (R169): DX stays. -/
def insOnce (w : Width) (s : State) : State :=
  let (v, s) := ioRead w (s.get .dx) s
  advanceDi w (writeDest w v s)

/-- The OUTS primitive (R170): DX stays. -/
def outsOnce (w : Width) (s : State) : State :=
  let (v, s) := readSource w s
  advanceSi w (ioWrite w (s.get .dx) v s)

/-- MOVS (R164). -/
def execMovs (w : Width) (s : State) : Host.Outcome State Fault Refusal := .next (repeated false (movsOnce w) s)
/-- CMPS (R165). -/
def execCmps (w : Width) (s : State) : Host.Outcome State Fault Refusal := .next (repeated true (cmpsOnce w) s)
/-- SCAS (R166). -/
def execScas (w : Width) (s : State) : Host.Outcome State Fault Refusal := .next (repeated true (scasOnce w) s)
/-- LODS (R167). -/
def execLods (w : Width) (s : State) : Host.Outcome State Fault Refusal := .next (repeated false (lodsOnce w) s)
/-- STOS (R168). -/
def execStos (w : Width) (s : State) : Host.Outcome State Fault Refusal := .next (repeated false (stosOnce w) s)
/-- INS (R169), 80186,188. -/
def execIns (w : Width) (s : State) : Host.Outcome State Fault Refusal := only186 s (repeated false (insOnce w))
/-- OUTS (R170), 80186,188. -/
def execOuts (w : Width) (s : State) : Host.Outcome State Fault Refusal := only186 s (repeated false (outsOnce w))

/-- The repeat latch, F2H and F3H (R162): part of the instruction that follows (30_encoding.md R56). The last one counts (D10). -/
def execRepPrefix (z : Bool) (s : State) : Host.Outcome State Fault Refusal :=
  .next { s with ctl := { s.ctl with phase := .prefixed, latches := { s.ctl.latches with rep := some z } } }

end Sys2Proof.Machine
end

