-- ==== Sys2Proof/Machine/Dispatch.lean ====
section
/-! DEFINITION. The dispatch: one arm per constructor of `Instr`, each a direct call of the instruction's meaning. -/

namespace Sys2Proof.Machine

/-- The meaning of an instruction, IP standing past it. -/
def exec (i : Instr) (s : State) : Host.Outcome State Fault Refusal :=
  match i with
  | .movRmReg dir w rm r => Sys2Proof.Machine.execMovRmReg dir w rm r s
  | .movRmImm rm imm => Sys2Proof.Machine.execMovRmImm rm imm s
  | .movRegImm r imm => Sys2Proof.Machine.execMovRegImm r imm s
  | .movAccAddr w addr => Sys2Proof.Machine.execMovAccAddr w addr s
  | .movAddrAcc w addr => Sys2Proof.Machine.execMovAddrAcc w addr s
  | .movSregRm sr rm => Sys2Proof.Machine.execMovSregRm sr rm s
  | .movRmSreg rm sr => Sys2Proof.Machine.execMovRmSreg rm sr s
  | .pushRm rm => Sys2Proof.Machine.execPushRm rm s
  | .pushReg r => Sys2Proof.Machine.execPushReg r s
  | .pushSreg sr => Sys2Proof.Machine.execPushSreg sr s
  | .pushImm16 imm => Sys2Proof.Machine.execPushImm16 imm s
  | .pushImm8 imm => Sys2Proof.Machine.execPushImm8 imm s
  | .popRm rm => Sys2Proof.Machine.execPopRm rm s
  | .popReg r => Sys2Proof.Machine.execPopReg r s
  | .popSreg sr => Sys2Proof.Machine.execPopSreg sr s
  | .xchgRmReg w rm r => Sys2Proof.Machine.execXchgRmReg w rm r s
  | .xchgAxReg r => Sys2Proof.Machine.execXchgAxReg r s
  | .inAccPort w port => Sys2Proof.Machine.execInAccPort w port s
  | .inAccDx w => Sys2Proof.Machine.execInAccDx w s
  | .outPortAcc w port => Sys2Proof.Machine.execOutPortAcc w port s
  | .outDxAcc w => Sys2Proof.Machine.execOutDxAcc w s
  | .lea r rm => Sys2Proof.Machine.execLea r rm s
  | .lds r rm => Sys2Proof.Machine.execLds r rm s
  | .les r rm => Sys2Proof.Machine.execLes r rm s
  | .addRmReg dir w rm r => Sys2Proof.Machine.execAddRmReg dir w rm r s
  | .addRmImm rm imm => Sys2Proof.Machine.execAddRmImm rm imm s
  | .addAccImm imm => Sys2Proof.Machine.execAddAccImm imm s
  | .orRmReg dir w rm r => Sys2Proof.Machine.execOrRmReg dir w rm r s
  | .orRmImm rm imm => Sys2Proof.Machine.execOrRmImm rm imm s
  | .orAccImm imm => Sys2Proof.Machine.execOrAccImm imm s
  | .adcRmReg dir w rm r => Sys2Proof.Machine.execAdcRmReg dir w rm r s
  | .adcRmImm rm imm => Sys2Proof.Machine.execAdcRmImm rm imm s
  | .adcAccImm imm => Sys2Proof.Machine.execAdcAccImm imm s
  | .sbbRmReg dir w rm r => Sys2Proof.Machine.execSbbRmReg dir w rm r s
  | .sbbRmImm rm imm => Sys2Proof.Machine.execSbbRmImm rm imm s
  | .sbbAccImm imm => Sys2Proof.Machine.execSbbAccImm imm s
  | .andRmReg dir w rm r => Sys2Proof.Machine.execAndRmReg dir w rm r s
  | .andRmImm rm imm => Sys2Proof.Machine.execAndRmImm rm imm s
  | .andAccImm imm => Sys2Proof.Machine.execAndAccImm imm s
  | .subRmReg dir w rm r => Sys2Proof.Machine.execSubRmReg dir w rm r s
  | .subRmImm rm imm => Sys2Proof.Machine.execSubRmImm rm imm s
  | .subAccImm imm => Sys2Proof.Machine.execSubAccImm imm s
  | .xorRmReg dir w rm r => Sys2Proof.Machine.execXorRmReg dir w rm r s
  | .xorRmImm rm imm => Sys2Proof.Machine.execXorRmImm rm imm s
  | .xorAccImm imm => Sys2Proof.Machine.execXorAccImm imm s
  | .cmpRmReg dir w rm r => Sys2Proof.Machine.execCmpRmReg dir w rm r s
  | .cmpRmImm rm imm => Sys2Proof.Machine.execCmpRmImm rm imm s
  | .cmpAccImm imm => Sys2Proof.Machine.execCmpAccImm imm s
  | .incRm w rm => Sys2Proof.Machine.execIncRm w rm s
  | .incReg r => Sys2Proof.Machine.execIncReg r s
  | .decRm w rm => Sys2Proof.Machine.execDecRm w rm s
  | .decReg r => Sys2Proof.Machine.execDecReg r s
  | .negRm w rm => Sys2Proof.Machine.execNegRm w rm s
  | .mulRm w rm => Sys2Proof.Machine.execMulRm w rm s
  | .imulRm w rm => Sys2Proof.Machine.execImulRm w rm s
  | .divRm w rm => Sys2Proof.Machine.execDivRm w rm s
  | .idivRm w rm => Sys2Proof.Machine.execIdivRm w rm s
  | .imulImm16 r rm imm => Sys2Proof.Machine.execImulImm16 r rm imm s
  | .imulImm8 r rm imm => Sys2Proof.Machine.execImulImm8 r rm imm s
  | .notRm w rm => Sys2Proof.Machine.execNotRm w rm s
  | .testRmReg w rm r => Sys2Proof.Machine.execTestRmReg w rm r s
  | .testRmImm rm imm => Sys2Proof.Machine.execTestRmImm rm imm s
  | .testAccImm imm => Sys2Proof.Machine.execTestAccImm imm s
  | .rolRm c w rm => Sys2Proof.Machine.execRolRm c w rm s
  | .rolRmImm w rm count => Sys2Proof.Machine.execRolRmImm w rm count s
  | .rorRm c w rm => Sys2Proof.Machine.execRorRm c w rm s
  | .rorRmImm w rm count => Sys2Proof.Machine.execRorRmImm w rm count s
  | .rclRm c w rm => Sys2Proof.Machine.execRclRm c w rm s
  | .rclRmImm w rm count => Sys2Proof.Machine.execRclRmImm w rm count s
  | .rcrRm c w rm => Sys2Proof.Machine.execRcrRm c w rm s
  | .rcrRmImm w rm count => Sys2Proof.Machine.execRcrRmImm w rm count s
  | .shlRm c w rm => Sys2Proof.Machine.execShlRm c w rm s
  | .shlRmImm w rm count => Sys2Proof.Machine.execShlRmImm w rm count s
  | .shrRm c w rm => Sys2Proof.Machine.execShrRm c w rm s
  | .shrRmImm w rm count => Sys2Proof.Machine.execShrRmImm w rm count s
  | .sarRm c w rm => Sys2Proof.Machine.execSarRm c w rm s
  | .sarRmImm w rm count => Sys2Proof.Machine.execSarRmImm w rm count s
  | .repPrefix z => Sys2Proof.Machine.execRepPrefix z s
  | .movs w => Sys2Proof.Machine.execMovs w s
  | .cmps w => Sys2Proof.Machine.execCmps w s
  | .scas w => Sys2Proof.Machine.execScas w s
  | .lods w => Sys2Proof.Machine.execLods w s
  | .stos w => Sys2Proof.Machine.execStos w s
  | .ins w => Sys2Proof.Machine.execIns w s
  | .outs w => Sys2Proof.Machine.execOuts w s
  | .callNear disp => Sys2Proof.Machine.execCallNear disp s
  | .callNearRm rm => Sys2Proof.Machine.execCallNearRm rm s
  | .callFar off seg => Sys2Proof.Machine.execCallFar off seg s
  | .callFarRm rm => Sys2Proof.Machine.execCallFarRm rm s
  | .retNearImm imm => Sys2Proof.Machine.execRetNearImm imm s
  | .retFarImm imm => Sys2Proof.Machine.execRetFarImm imm s
  | .jmpNear disp => Sys2Proof.Machine.execJmpNear disp s
  | .jmpShort disp => Sys2Proof.Machine.execJmpShort disp s
  | .jmpNearRm rm => Sys2Proof.Machine.execJmpNearRm rm s
  | .jmpFar off seg => Sys2Proof.Machine.execJmpFar off seg s
  | .jmpFarRm rm => Sys2Proof.Machine.execJmpFarRm rm s
  | .jo disp => Sys2Proof.Machine.execJo disp s
  | .jno disp => Sys2Proof.Machine.execJno disp s
  | .jb disp => Sys2Proof.Machine.execJb disp s
  | .jae disp => Sys2Proof.Machine.execJae disp s
  | .je disp => Sys2Proof.Machine.execJe disp s
  | .jne disp => Sys2Proof.Machine.execJne disp s
  | .jbe disp => Sys2Proof.Machine.execJbe disp s
  | .ja disp => Sys2Proof.Machine.execJa disp s
  | .js disp => Sys2Proof.Machine.execJs disp s
  | .jns disp => Sys2Proof.Machine.execJns disp s
  | .jp disp => Sys2Proof.Machine.execJp disp s
  | .jnp disp => Sys2Proof.Machine.execJnp disp s
  | .jl disp => Sys2Proof.Machine.execJl disp s
  | .jge disp => Sys2Proof.Machine.execJge disp s
  | .jle disp => Sys2Proof.Machine.execJle disp s
  | .jg disp => Sys2Proof.Machine.execJg disp s
  | .loop disp => Sys2Proof.Machine.execLoop disp s
  | .loope disp => Sys2Proof.Machine.execLoope disp s
  | .loopne disp => Sys2Proof.Machine.execLoopne disp s
  | .jcxz disp => Sys2Proof.Machine.execJcxz disp s
  | .intType t => Sys2Proof.Machine.execIntType t s
  | .enter size level => Sys2Proof.Machine.execEnter size level s
  | .bound r rm => Sys2Proof.Machine.execBound r rm s
  | .esc x rm => Sys2Proof.Machine.execEsc x rm s
  | .segPrefix sr => Sys2Proof.Machine.execSegPrefix sr s
  | .unusedFE7 rm => Sys2Proof.Machine.execUnusedFE7 rm s
  | .unusedFF7 rm => Sys2Proof.Machine.execUnusedFF7 rm s
  | .faddM32 rm => Sys2Proof.Machine.execFaddM32 rm s
  | .faddM64 rm => Sys2Proof.Machine.execFaddM64 rm s
  | .faddStSti k => Sys2Proof.Machine.execFaddStSti k s
  | .fmulM32 rm => Sys2Proof.Machine.execFmulM32 rm s
  | .fmulM64 rm => Sys2Proof.Machine.execFmulM64 rm s
  | .fmulStSti k => Sys2Proof.Machine.execFmulStSti k s
  | .fcomM32 rm => Sys2Proof.Machine.execFcomM32 rm s
  | .fcomM64 rm => Sys2Proof.Machine.execFcomM64 rm s
  | .fcomSti k => Sys2Proof.Machine.execFcomSti k s
  | .fcompM32 rm => Sys2Proof.Machine.execFcompM32 rm s
  | .fcompM64 rm => Sys2Proof.Machine.execFcompM64 rm s
  | .fcompSti k => Sys2Proof.Machine.execFcompSti k s
  | .fsubM32 rm => Sys2Proof.Machine.execFsubM32 rm s
  | .fsubM64 rm => Sys2Proof.Machine.execFsubM64 rm s
  | .fsubStSti k => Sys2Proof.Machine.execFsubStSti k s
  | .fsubrM32 rm => Sys2Proof.Machine.execFsubrM32 rm s
  | .fsubrM64 rm => Sys2Proof.Machine.execFsubrM64 rm s
  | .fsubrStSti k => Sys2Proof.Machine.execFsubrStSti k s
  | .fdivM32 rm => Sys2Proof.Machine.execFdivM32 rm s
  | .fdivM64 rm => Sys2Proof.Machine.execFdivM64 rm s
  | .fdivStSti k => Sys2Proof.Machine.execFdivStSti k s
  | .fdivrM32 rm => Sys2Proof.Machine.execFdivrM32 rm s
  | .fdivrM64 rm => Sys2Proof.Machine.execFdivrM64 rm s
  | .fdivrStSti k => Sys2Proof.Machine.execFdivrStSti k s
  | .fiaddI32 rm => Sys2Proof.Machine.execFiaddI32 rm s
  | .fiaddI16 rm => Sys2Proof.Machine.execFiaddI16 rm s
  | .fimulI32 rm => Sys2Proof.Machine.execFimulI32 rm s
  | .fimulI16 rm => Sys2Proof.Machine.execFimulI16 rm s
  | .ficomI32 rm => Sys2Proof.Machine.execFicomI32 rm s
  | .ficomI16 rm => Sys2Proof.Machine.execFicomI16 rm s
  | .ficompI32 rm => Sys2Proof.Machine.execFicompI32 rm s
  | .ficompI16 rm => Sys2Proof.Machine.execFicompI16 rm s
  | .fisubI32 rm => Sys2Proof.Machine.execFisubI32 rm s
  | .fisubI16 rm => Sys2Proof.Machine.execFisubI16 rm s
  | .fisubrI32 rm => Sys2Proof.Machine.execFisubrI32 rm s
  | .fisubrI16 rm => Sys2Proof.Machine.execFisubrI16 rm s
  | .fidivI32 rm => Sys2Proof.Machine.execFidivI32 rm s
  | .fidivI16 rm => Sys2Proof.Machine.execFidivI16 rm s
  | .fidivrI32 rm => Sys2Proof.Machine.execFidivrI32 rm s
  | .fidivrI16 rm => Sys2Proof.Machine.execFidivrI16 rm s
  | .faddStiSt k => Sys2Proof.Machine.execFaddStiSt k s
  | .fmulStiSt k => Sys2Proof.Machine.execFmulStiSt k s
  | .fsubrStiSt k => Sys2Proof.Machine.execFsubrStiSt k s
  | .fsubStiSt k => Sys2Proof.Machine.execFsubStiSt k s
  | .fdivrStiSt k => Sys2Proof.Machine.execFdivrStiSt k s
  | .fdivStiSt k => Sys2Proof.Machine.execFdivStiSt k s
  | .faddpStiSt k => Sys2Proof.Machine.execFaddpStiSt k s
  | .fmulpStiSt k => Sys2Proof.Machine.execFmulpStiSt k s
  | .fsubrpStiSt k => Sys2Proof.Machine.execFsubrpStiSt k s
  | .fsubpStiSt k => Sys2Proof.Machine.execFsubpStiSt k s
  | .fdivrpStiSt k => Sys2Proof.Machine.execFdivrpStiSt k s
  | .fdivpStiSt k => Sys2Proof.Machine.execFdivpStiSt k s
  | .fldM32 rm => Sys2Proof.Machine.execFldM32 rm s
  | .fstM32 rm => Sys2Proof.Machine.execFstM32 rm s
  | .fstpM32 rm => Sys2Proof.Machine.execFstpM32 rm s
  | .fldenv rm => Sys2Proof.Machine.execFldenv rm s
  | .fldcw rm => Sys2Proof.Machine.execFldcw rm s
  | .fstenv rm => Sys2Proof.Machine.execFstenv rm s
  | .fstcw rm => Sys2Proof.Machine.execFstcw rm s
  | .fildI32 rm => Sys2Proof.Machine.execFildI32 rm s
  | .fistI32 rm => Sys2Proof.Machine.execFistI32 rm s
  | .fistpI32 rm => Sys2Proof.Machine.execFistpI32 rm s
  | .fldM80 rm => Sys2Proof.Machine.execFldM80 rm s
  | .fstpM80 rm => Sys2Proof.Machine.execFstpM80 rm s
  | .fldM64 rm => Sys2Proof.Machine.execFldM64 rm s
  | .fstM64 rm => Sys2Proof.Machine.execFstM64 rm s
  | .fstpM64 rm => Sys2Proof.Machine.execFstpM64 rm s
  | .frstor rm => Sys2Proof.Machine.execFrstor rm s
  | .fsave rm => Sys2Proof.Machine.execFsave rm s
  | .fstsw rm => Sys2Proof.Machine.execFstsw rm s
  | .fildI16 rm => Sys2Proof.Machine.execFildI16 rm s
  | .fistI16 rm => Sys2Proof.Machine.execFistI16 rm s
  | .fistpI16 rm => Sys2Proof.Machine.execFistpI16 rm s
  | .fbld rm => Sys2Proof.Machine.execFbld rm s
  | .fildI64 rm => Sys2Proof.Machine.execFildI64 rm s
  | .fbstp rm => Sys2Proof.Machine.execFbstp rm s
  | .fistpI64 rm => Sys2Proof.Machine.execFistpI64 rm s
  | .fldSti k => Sys2Proof.Machine.execFldSti k s
  | .fxchSti k => Sys2Proof.Machine.execFxchSti k s
  | .ffreeSti k => Sys2Proof.Machine.execFfreeSti k s
  | .fstSti k => Sys2Proof.Machine.execFstSti k s
  | .fstpSti k => Sys2Proof.Machine.execFstpSti k s
  | .pusha => Sys2Proof.Machine.execPusha s
  | .popa => Sys2Proof.Machine.execPopa s
  | .xlat => Sys2Proof.Machine.execXlat s
  | .lahf => Sys2Proof.Machine.execLahf s
  | .sahf => Sys2Proof.Machine.execSahf s
  | .pushf => Sys2Proof.Machine.execPushf s
  | .popf => Sys2Proof.Machine.execPopf s
  | .aaa => Sys2Proof.Machine.execAaa s
  | .daa => Sys2Proof.Machine.execDaa s
  | .aas => Sys2Proof.Machine.execAas s
  | .das => Sys2Proof.Machine.execDas s
  | .aam => Sys2Proof.Machine.execAam s
  | .aad => Sys2Proof.Machine.execAad s
  | .cbw => Sys2Proof.Machine.execCbw s
  | .cwd => Sys2Proof.Machine.execCwd s
  | .retNear => Sys2Proof.Machine.execRetNear s
  | .retFar => Sys2Proof.Machine.execRetFar s
  | .int3 => Sys2Proof.Machine.execInt3 s
  | .into => Sys2Proof.Machine.execInto s
  | .iret => Sys2Proof.Machine.execIret s
  | .leave => Sys2Proof.Machine.execLeave s
  | .clc => Sys2Proof.Machine.execClc s
  | .cmc => Sys2Proof.Machine.execCmc s
  | .stc => Sys2Proof.Machine.execStc s
  | .cld => Sys2Proof.Machine.execCld s
  | .std => Sys2Proof.Machine.execStd s
  | .cli => Sys2Proof.Machine.execCli s
  | .sti => Sys2Proof.Machine.execSti s
  | .hlt => Sys2Proof.Machine.execHlt s
  | .wait => Sys2Proof.Machine.execWait s
  | .lockPrefix => Sys2Proof.Machine.execLockPrefix s
  | .nop => Sys2Proof.Machine.execNop s
  | .unused63 => Sys2Proof.Machine.execUnused63 s
  | .unused64 => Sys2Proof.Machine.execUnused64 s
  | .unused65 => Sys2Proof.Machine.execUnused65 s
  | .unused66 => Sys2Proof.Machine.execUnused66 s
  | .unused67 => Sys2Proof.Machine.execUnused67 s
  | .unusedF1 => Sys2Proof.Machine.execUnusedF1 s
  | .fcompp => Sys2Proof.Machine.execFcompp s
  | .fnop => Sys2Proof.Machine.execFnop s
  | .fchs => Sys2Proof.Machine.execFchs s
  | .fabs => Sys2Proof.Machine.execFabs s
  | .ftst => Sys2Proof.Machine.execFtst s
  | .fxam => Sys2Proof.Machine.execFxam s
  | .fld1 => Sys2Proof.Machine.execFld1 s
  | .fldl2t => Sys2Proof.Machine.execFldl2t s
  | .fldl2e => Sys2Proof.Machine.execFldl2e s
  | .fldpi => Sys2Proof.Machine.execFldpi s
  | .fldlg2 => Sys2Proof.Machine.execFldlg2 s
  | .fldln2 => Sys2Proof.Machine.execFldln2 s
  | .fldz => Sys2Proof.Machine.execFldz s
  | .f2xm1 => Sys2Proof.Machine.execF2xm1 s
  | .fyl2x => Sys2Proof.Machine.execFyl2x s
  | .fptan => Sys2Proof.Machine.execFptan s
  | .fpatan => Sys2Proof.Machine.execFpatan s
  | .fxtract => Sys2Proof.Machine.execFxtract s
  | .fdecstp => Sys2Proof.Machine.execFdecstp s
  | .fincstp => Sys2Proof.Machine.execFincstp s
  | .fprem => Sys2Proof.Machine.execFprem s
  | .fyl2xp1 => Sys2Proof.Machine.execFyl2xp1 s
  | .fsqrt => Sys2Proof.Machine.execFsqrt s
  | .frndint => Sys2Proof.Machine.execFrndint s
  | .fscale => Sys2Proof.Machine.execFscale s
  | .feni => Sys2Proof.Machine.execFeni s
  | .fdisi => Sys2Proof.Machine.execFdisi s
  | .fclex => Sys2Proof.Machine.execFclex s
  | .finit => Sys2Proof.Machine.execFinit s
  | .fwait => Sys2Proof.Machine.execFwait s

end Sys2Proof.Machine
end

