-- ==== Sys2Proof/Machine/Dma.lean ====
section
/-! DEFINITION. The integrated DMA channels of the 80186,188 (61_186_peripherals.md R545 to R552). -/

namespace Sys2Proof.Machine

/-- Channel 0 (false) or 1 (true). -/
def Pcb.dma (p : Pcb) (ch : Bool) : DmaChan := if ch then p.dma1 else p.dma0
/-- Replace a channel. -/
def Pcb.setDma (p : Pcb) (ch : Bool) (c : DmaChan) : Pcb := if ch then { p with dma1 := c } else { p with dma0 := c }
/-- Replace a channel of the machine. -/
def State.setDma (ch : Bool) (c : DmaChan) (s : State) : State := { s with pcb := s.pcb.setDma ch c }

/-- ST/STOP, bit 1 (R546). -/
def DmaChan.started (c : DmaChan) : Bool := c.ctl.getLsbD 1
/-- SYN = 00; what SYN = 11 does is not defined (R546): free whether it is like 00 or like the others (log 68). -/
def DmaChan.unsynchronized (c : DmaChan) : Bool :=
  if c.ctl.getLsbD 7 && c.ctl.getLsbD 6 then Config.dmaUnusedSyn c.ctl else !c.ctl.getLsbD 7 && !c.ctl.getLsbD 6
/-- P, bit 5. -/
def DmaChan.high (c : DmaChan) : Bool := c.ctl.getLsbD 5
/-- The transfer width, bit 0. -/
def DmaChan.width (c : DmaChan) : Width := if c.ctl.getLsbD 0 then .word else .byte

/-- Has a channel a request (R549): itself, its DRQ pin, or timer 2? How TDRQ combines with the others is not stated (N22). DESIGN
CHOICE (log 31): the three are joined by "or", so a channel with SYN = 00 and TDRQ = 1 runs continuously and is not paced by timer 2; and
a request of timer 2 that is latched counts even when TDRQ was cleared before its transfer. -/
def DmaChan.requests (c : DmaChan) : Bool := c.started && (c.unsynchronized || c.drq || c.tmrReq)

/-- DMA is halted by DHLT, or by an NMI request on its way to set it (R551, R584). -/
def State.dmaHalted (s : State) : Bool := s.pcb.ic.dhlt || s.ctl.nmiPending

/-- Which of two requesting channels goes: the higher P bit, else in turn (R546, R551). -/
def Pcb.dmaWins (p : Pcb) (ch : Bool) : Bool :=
  let a := p.dma ch
  let b := p.dma (!ch)
  a.requests && (!b.requests || (if a.high == b.high then p.dmaLast != ch else a.high))

/-- The pointer after a transfer of `n` bytes with its INC and DEC bits (R546, R547). -/
def dmaMove (p : Phys) (inc dec : Bool) (n : Phys) : Phys :=
  match inc, dec with
  | true, false => p + n
  | false, true => p - n
  | _, _ => p

/-- The fetch of a transfer (R550). -/
def dmaFetch (mem : Bool) (w : Width) (a : Phys) (s : State) : BitVec w.bits × State :=
  match w with
  | .byte => if mem then memRead8 a s else ioRead8 (a.setWidth 16) s
  | .word => if mem then memRead16 a (a + 1) s else ioRead16 (a.setWidth 16) s

/-- The deposit of a transfer (R550). -/
def dmaDeposit (mem : Bool) (w : Width) (a : Phys) (v : BitVec w.bits) (s : State) : State :=
  match w with
  | .byte => if mem then memWrite8 a v s else ioWrite8 (a.setWidth 16) v s
  | .word => if mem then memWrite16 a (a + 1) v s else ioWrite16 (a.setWidth 16) v s

/-- `DmaTerminal` (R552): the channel stops, and its interrupt request is raised. -/
def dmaTerminal (ch : Bool) (s : State) : State :=
  let c := s.pcb.dma ch
  let tc := c.ctl.getLsbD 9
  let s := if tc || c.unsynchronized then s.setDma ch { c with ctl := putBit c.ctl 1 false } else s
  if tc && c.ctl.getLsbD 8 then
    s.setIc { s.pcb.ic with reqDma := putBit s.pcb.ic.reqDma (if ch then 1 else 0) true }
  else s

/-- `DmaTransfer` (R550): pointers and count move after the deposit, from what the registers then hold (R545). Timer 2's request is
one latch, which any transfer of the channel clears (DESIGN CHOICE, log 31). -/
def dmaTransfer (ch : Bool) (s : State) : State :=
  let c := s.pcb.dma ch
  let (v, s) := dmaFetch (c.ctl.getLsbD 12) c.width c.src s
  let s := dmaDeposit (c.ctl.getLsbD 15) c.width c.dst v s
  let n : Phys := BitVec.ofNat 20 c.width.bytes
  let c := s.pcb.dma ch
  let c := { c with
    src := dmaMove c.src (c.ctl.getLsbD 10) (c.ctl.getLsbD 11) n
    dst := dmaMove c.dst (c.ctl.getLsbD 13) (c.ctl.getLsbD 14) n
    count := c.count - 1
    tmrReq := false }
  let s := { s with pcb := { s.pcb.setDma ch c with dmaLast := ch } }
  if c.count = 0 then dmaTerminal ch s else s

/-- A transfer of a channel, if it has a request and its turn and DMA is not halted. -/
def dmaStep (ch : Bool) (s : State) : State :=
  if s.pcb.dmaWins ch && !s.dmaHalted then dmaTransfer ch s else s

/-- Does an unsynchronized channel that is started keep the CPU off the bus (R549, R551)? -/
def State.dmaMonopolizes (s : State) : Bool :=
  let due (c : DmaChan) : Bool := c.started && c.unsynchronized
  s.is186 && !s.dmaHalted && (due s.pcb.dma0 || due s.pcb.dma1)

/-- The channel that moves while the CPU waits for an unsynchronized one: the other channel takes its turns too (R549, R551). -/
def State.dmaFirst (s : State) : Option Bool :=
  if s.dmaMonopolizes then
    if s.pcb.dmaWins false then some false else if s.pcb.dmaWins true then some true else none
  else none

end Sys2Proof.Machine
end

