-- ==== Sys2Proof/Machine/IopSyntax.lean ====
section
/-! DEFINITION. The 8089's instructions and their decoding (49_iop_8089.md R468, R524; PRESUMED by the spec itself, D36: log 51). They
are no rows of spec/opcode_table.json: a channel program is no CPU code. -/

namespace Sys2Proof.Machine

/-- The registers of the RRR field (R468). -/
inductive IopReg where
  | ga | gb | gc | bc | tp | ix | cc | mc
deriving DecidableEq, Repr

/-- The base registers of the MM field (R468). -/
inductive IopBase where
  | ga | gb | gc | pp
deriving DecidableEq, Repr

/-- The addressing modes of the AA field (R466). -/
inductive IopMode where
  | based
  | offset (d : Byte)
  | indexed
  | autoInc
deriving DecidableEq, Repr

/-- A memory operand. -/
structure IopMem where
  base : IopBase
  mode : IopMode
deriving DecidableEq, Repr

/-- The two-operand operations. -/
inductive IopAlu where
  | add | or | and
deriving DecidableEq, Repr

/-- One 8089 instruction (R470 to R512). A byte immediate or displacement stands sign-extended to 16 bits. -/
inductive IopInstr where
  | nop
  | hlt
  | sintr
  | xfer
  | wid (src dst : Bool)
  | lpdi (p : IopReg) (off seg : Word)
  | aluImm (op : IopAlu) (w : Width) (r : IopReg) (imm : Word)
  | movImm (w : Width) (r : IopReg) (imm : Word)
  | notReg (r : IopReg)
  | incReg (r : IopReg)
  | decReg (r : IopReg)
  | jumpReg (zero : Bool) (r : IopReg) (disp : Word)
  | movMemImm (w : Width) (m : IopMem) (imm : Word)
  | movRegMem (w : Width) (r : IopReg) (m : IopMem)
  | movMemReg (w : Width) (m : IopMem) (r : IopReg)
  | movMemMem (w : Width) (dst src : IopMem)
  | lpd (p : IopReg) (m : IopMem)
  | movpLoad (p : IopReg) (m : IopMem)
  | movpStore (m : IopMem) (p : IopReg)
  | tsl (m : IopMem) (v : Byte) (disp : Word)
  | call (m : IopMem) (disp : Word)
  | aluRegMem (op : IopAlu) (w : Width) (r : IopReg) (m : IopMem)
  | aluMemReg (op : IopAlu) (w : Width) (m : IopMem) (r : IopReg)
  | aluMemImm (op : IopAlu) (w : Width) (m : IopMem) (imm : Word)
  | notRegMem (w : Width) (r : IopReg) (m : IopMem)
  | notMem (w : Width) (m : IopMem)
  | incMem (w : Width) (m : IopMem)
  | decMem (w : Width) (m : IopMem)
  | jumpMasked (equal : Bool) (m : IopMem) (disp : Word)
  | jumpBit (value : Bool) (b : BitVec 3) (m : IopMem) (disp : Word)
  | jumpMem (zero : Bool) (w : Width) (m : IopMem) (disp : Word)
  | setBit (value : Bool) (m : IopMem) (b : BitVec 3)
deriving DecidableEq, Repr

def IopReg.ofBits (n : BitVec 3) : IopReg :=
  match n.toNat with
  | 0 => .ga
  | 1 => .gb
  | 2 => .gc
  | 3 => .bc
  | 4 => .tp
  | 5 => .ix
  | 6 => .cc
  | _ => .mc

def IopBase.ofBits (n : BitVec 2) : IopBase :=
  match n.toNat with
  | 0 => .ga
  | 1 => .gb
  | 2 => .gc
  | _ => .pp

/-- GA, GB, GC, TP (R458). -/
def IopReg.isPointer : IopReg → Bool
  | .ga => true
  | .gb => true
  | .gc => true
  | .tp => true
  | _ => false

/-! ## Fields of the first two bytes, R468 -/

def iopRrr (b0 : Byte) : BitVec 3 := b0.extractLsb' 5 3
def iopWb (b0 : Byte) : Nat := (b0.extractLsb' 3 2).toNat
def iopAa (b0 : Byte) : Nat := (b0.extractLsb' 1 2).toNat
def iopW (b0 : Byte) : Width := if b0.getLsbD 0 then .word else .byte
def iopOpcode (b1 : Byte) : Nat := b1.toNat / 4
def iopMm (b1 : Byte) : BitVec 2 := b1.extractLsb' 0 2

/-- Does the opcode have a memory operand? -/
def iopHasMem (b1 : Byte) : Bool := 32 ≤ iopOpcode b1 || iopOpcode b1 == 19

/-- The bytes after the first two, but for the rest of a memory-to-memory move (R468). -/
def iopExtra (b0 b1 : Byte) : Nat :=
  let off := if iopHasMem b1 && iopAa b0 == 1 then 1 else 0
  if iopOpcode b1 = 2 then 4
  else if iopOpcode b1 = 36 then off + 2
  else off + min (iopWb b0) 2

/-- A byte immediate, sign-extended. -/
def sx16 (b : Byte) : Word := b.signExtend 16

/-- The value of the immediate or displacement bytes, one or two. -/
def iopValue : List Byte → Option Word
  | [b] => some (sx16 b)
  | [lo, hi] => some (Word.mk hi lo)
  | _ => none

/-- The memory operand of a unit and the bytes after it. -/
def iopOperand (b0 b1 : Byte) (rest : List Byte) : Option (IopMem × List Byte) :=
  let base := IopBase.ofBits (iopMm b1)
  match iopAa b0, rest with
  | 0, rest => some (⟨base, .based⟩, rest)
  | 1, d :: rest => some (⟨base, .offset d⟩, rest)
  | 2, rest => some (⟨base, .indexed⟩, rest)
  | 3, rest => some (⟨base, .autoInc⟩, rest)
  | _, _ => none

/-- Keep a value only if a condition holds. -/
def guardSome {α : Type} (c : Bool) (v : α) : Option α := if c then some v else none

/-- The immediate of a form whose `w` says how many bytes it has (R524). -/
def iopImm (b0 : Byte) (rest : List Byte) : Option Word :=
  match iopW b0, iopWb b0 with
  | .byte, 1 => iopValue rest
  | .word, 2 => iopValue rest
  | _, _ => none

/-- The displacement of a form with one or two bytes of it, whatever `w`. -/
def iopDisp (b0 : Byte) (rest : List Byte) : Option Word :=
  match iopWb b0 with
  | 1 => iopValue rest
  | 2 => iopValue rest
  | _ => none

/-- The forms without a memory operand (R524). -/
def iopDecodeReg (b0 b1 : Byte) (rest : List Byte) : Option IopInstr :=
  let r := IopReg.ofBits (iopRrr b0)
  let plain := iopWb b0 == 0 && iopW b0 == .byte
  match iopOpcode b1 with
  | 0 =>
    if !plain then none
    else match (iopRrr b0).toNat with
      | 0 => some .nop
      | 2 => some .sintr
      | 3 => some .xfer
      | 4 => some (.wid false false)
      | 5 => some (.wid false true)
      | 6 => some (.wid true false)
      | 7 => some (.wid true true)
      | _ => none
  | 2 =>
    match rest with
    | [a, b, c, d] =>
      guardSome (iopWb b0 == 2 && iopW b0 == .word && r.isPointer) (.lpdi r (Word.mk b a) (Word.mk d c))
    | _ => none
  | 8 => (iopImm b0 rest).map (.aluImm .add (iopW b0) r)
  | 9 => (iopImm b0 rest).map (.aluImm .or (iopW b0) r)
  | 10 => (iopImm b0 rest).map (.aluImm .and (iopW b0) r)
  | 11 => guardSome plain (.notReg r)
  | 12 => (iopImm b0 rest).map (.movImm (iopW b0) r)
  | 14 => guardSome plain (.incReg r)
  | 15 => guardSome plain (.decReg r)
  | 16 => if iopW b0 = .byte then (iopDisp b0 rest).map (.jumpReg false r) else none
  | 17 => if iopW b0 = .byte then (iopDisp b0 rest).map (.jumpReg true r) else none
  | 18 => guardSome (plain && iopRrr b0 == 1) .hlt
  | _ => none

/-- The second unit of a memory-to-memory move (R468). -/
def iopDecodeDest (w : Width) (src : IopMem) (rest : List Byte) : Option IopInstr :=
  match rest with
  | d0 :: d1 :: rest =>
    if iopOpcode d1 = 51 ∧ iopRrr d0 = 0 ∧ iopWb d0 = 0 ∧ iopW d0 = w then
      match iopOperand d0 d1 rest with
      | some (dst, []) => some (.movMemMem w dst src)
      | _ => none
    else none
  | _ => none

/-- The forms with a memory operand `m` (R524). -/
def iopDecodeMem (b0 b1 : Byte) (m : IopMem) (rest : List Byte) : Option IopInstr :=
  let r := IopReg.ofBits (iopRrr b0)
  let b := iopRrr b0
  let w := iopW b0
  let r0 := iopRrr b0 == 0
  let bare := iopWb b0 == 0
  let byte := w == .byte
  match iopOpcode b1 with
  | 19 => if r0 then (iopImm b0 rest).map (.movMemImm w m) else none
  | 32 => guardSome bare (.movRegMem w r m)
  | 33 => guardSome bare (.movMemReg w m r)
  | 34 => guardSome (bare && !byte && r.isPointer) (.lpd r m)
  | 35 => guardSome (bare && !byte && r.isPointer) (.movpLoad r m)
  | 36 => if r0 && bare then iopDecodeDest w m rest else none
  | 37 =>
    match rest with
    | [v, d] => guardSome (r0 && iopWb b0 == 3 && byte) (.tsl m v (sx16 d))
    | _ => none
  | 38 => guardSome (bare && !byte && r.isPointer) (.movpStore m r)
  | 39 => if iopRrr b0 = 4 ∧ w = .word then (iopDisp b0 rest).map (.call m) else none
  | 40 => guardSome bare (.aluRegMem .add w r m)
  | 41 => guardSome bare (.aluRegMem .or w r m)
  | 42 => guardSome bare (.aluRegMem .and w r m)
  | 43 => guardSome bare (.notRegMem w r m)
  | 44 => if r0 && byte then (iopDisp b0 rest).map (.jumpMasked true m) else none
  | 45 => if r0 && byte then (iopDisp b0 rest).map (.jumpMasked false m) else none
  | 46 => if byte then (iopDisp b0 rest).map (.jumpBit false b m) else none
  | 47 => if byte then (iopDisp b0 rest).map (.jumpBit true b m) else none
  | 48 => if r0 then (iopImm b0 rest).map (.aluMemImm .add w m) else none
  | 49 => if r0 then (iopImm b0 rest).map (.aluMemImm .or w m) else none
  | 50 => if r0 then (iopImm b0 rest).map (.aluMemImm .and w m) else none
  | 52 => guardSome bare (.aluMemReg .add w m r)
  | 53 => guardSome bare (.aluMemReg .or w m r)
  | 54 => guardSome bare (.aluMemReg .and w m r)
  | 55 => guardSome (r0 && bare) (.notMem w m)
  | 56 => if r0 then (iopDisp b0 rest).map (.jumpMem false w m) else none
  | 57 => if r0 then (iopDisp b0 rest).map (.jumpMem true w m) else none
  | 58 => guardSome (r0 && bare) (.incMem w m)
  | 59 => guardSome (r0 && bare) (.decMem w m)
  | 61 => guardSome (bare && byte) (.setBit true m b)
  | 62 => guardSome (bare && byte) (.setBit false m b)
  | _ => none

/-- Decode one instruction from all its bytes; anything not in the table of R524 is none (U51). -/
def iopDecode : List Byte → Option IopInstr
  | b0 :: b1 :: rest =>
    if iopHasMem b1 then
      match iopOperand b0 b1 rest with
      | some (m, rest) => iopDecodeMem b0 b1 m rest
      | none => none
    else if iopAa b0 = 0 ∧ iopMm b1 = 0 then iopDecodeReg b0 b1 rest
    else none
  | _ => none

end Sys2Proof.Machine
end

