-- ==== Sys2Proof/Machine/Iop.lean ====
section
/-! DEFINITION. The 8089: its bus accesses (49_iop_8089.md R464), registers (R467), memory operands (R466), the execution of one
instruction of a channel program (R470 to R512). -/

namespace Sys2Proof.Machine

/-! ## Channels -/

/-- A channel: false = channel 1, true = channel 2. -/
def Iop.chan (p : Iop) (ch : Bool) : IopChan := if ch then p.ch2 else p.ch1
/-- Replace a channel. -/
def Iop.setChan (ch : Bool) (c : IopChan) (p : Iop) : Iop := if ch then { p with ch2 := c } else { p with ch1 := c }
def State.chan (ch : Bool) (s : State) : IopChan := s.iop.chan ch
def State.setChan (ch : Bool) (c : IopChan) (s : State) : State := { s with iop := s.iop.setChan ch c }

/-! ## Buses, R464: space false = system, true = I/O -/

/-- The 16-bit address of an I/O space access, as 20 bits (R459). -/
def ioAddr (a : Phys) : Phys := (a.setWidth 16 : Word).setWidth 20

/-- A byte read of the private I/O space: its memory's byte, what a device there presents, else any value (R464; log 52). -/
def remoteRead8 (a : Nat) (s : State) : Byte × State :=
  match regionAt s.cfg.iop.regions a with
  | some .absent => drawByte s
  | some .device =>
    match presented s.iop.remoteIn a with
    | some v => (v, s.event (.remoteRead a v))
    | none =>
      let (v, s) := drawByte s
      (v, s.event (.remoteRead a v))
  | _ => (s.iop.remoteIo.read a, s)

/-- A byte write of the private I/O space. -/
def remoteWrite8 (a : Nat) (v : Byte) (s : State) : State :=
  match regionAt s.cfg.iop.regions a with
  | some .rom => s
  | some .absent => s
  | some .device => s.event (.remoteWrite a v)
  | none => { s with iop := { s.iop with remoteIo := s.iop.remoteIo.write a v } }

/-- A byte read cycle. The system space is the CPU's memory; the I/O space is the CPU's (local) or the 8089's own (remote). -/
def iopReadCycle (space : Bool) (a : Phys) (s : State) : Byte × State :=
  if !space then busRead8 a s
  else if s.cfg.iop.remote then remoteRead8 (ioAddr a).toNat s
  else portRead8 (a.setWidth 16) s

/-- A byte write cycle. -/
def iopWriteCycle (space : Bool) (a : Phys) (v : Byte) (s : State) : State :=
  if !space then busWrite8 a v s
  else if s.cfg.iop.remote then remoteWrite8 (ioAddr a).toNat v s
  else portWrite8 (a.setWidth 16) v s

/-- Before a cycle of the 8089 another master takes its turn (R529), but on the 8089's own remote bus. -/
def State.iopYield (space : Bool) (s : State) : State := if space && s.cfg.iop.remote then s else s.yieldBus false

/-- The physical width of a space's bus: true = 16 bits (R452). -/
def Iop.wide (p : Iop) (space : Bool) : Bool := if space then p.ioWord else p.sysWord

/-- Between the halves of a word at an even address or not: one cycle if the bus is 16 bits wide, two separate ones if not (R464, D40). -/
def State.iopYieldHalf (space odd : Bool) (s : State) : State :=
  if !odd && s.iop.wide space then s else s.iopYield space

/-- A byte read. -/
def iopRead8 (space : Bool) (a : Phys) (s : State) : Byte × State := iopReadCycle space a (s.iopYield space)

/-- A byte write. -/
def iopWrite8 (space : Bool) (a : Phys) (v : Byte) (s : State) : State := iopWriteCycle space a v (s.iopYield space)

/-- A read of `k` instruction bytes as one (R465), low byte first; the address wraps in its space (D38). -/
def iopRead (space : Bool) (k : Nat) (a : Phys) (s : State) : List Byte × State :=
  match k with
  | 0 => ([], s)
  | k + 1 =>
    let (b, s) := iopReadCycle space a s
    let (rest, s) := iopRead space k (a + 1) s
    (b :: rest, s)

/-- A word read (R464, D40). -/
def iopRead16 (space : Bool) (a : Phys) (s : State) : Word × State :=
  let (lo, s) := iopRead8 space a s
  let (hi, s) := iopReadCycle space (a + 1) (s.iopYieldHalf space (a.getLsbD 0))
  (Word.mk hi lo, s)

/-- A word write. -/
def iopWrite16 (space : Bool) (a : Phys) (v : Word) (s : State) : State :=
  iopWriteCycle space (a + 1) v.hi ((iopWrite8 space a v.lo s).iopYieldHalf space (a.getLsbD 0))

/-! ## Registers, R458, R467 -/

/-- A register as 20 bits; a 16-bit one has zeros above. -/
def IopChan.get (c : IopChan) : IopReg → Phys
  | .ga => c.ga.addr
  | .gb => c.gb.addr
  | .gc => c.gc.addr
  | .tp => c.tp.addr
  | .bc => c.bc.setWidth 20
  | .ix => c.ix.setWidth 20
  | .cc => c.cc.setWidth 20
  | .mc => c.mc.setWidth 20

/-- Write the 20 bits of a register; a 16-bit one drops the upper four (R458). The tag stays. -/
def IopChan.put (c : IopChan) (r : IopReg) (v : Phys) : IopChan :=
  match r with
  | .ga => { c with ga := { c.ga with addr := v } }
  | .gb => { c with gb := { c.gb with addr := v } }
  | .gc => { c with gc := { c.gc with addr := v } }
  | .tp => { c with tp := { c.tp with addr := v } }
  | .bc => { c with bc := v.setWidth 16 }
  | .ix => { c with ix := v.setWidth 16 }
  | .cc => { c with cc := v.setWidth 16 }
  | .mc => { c with mc := v.setWidth 16 }

/-- The tag of a register; a 16-bit one has none. -/
def IopChan.tag (c : IopChan) : IopReg → Bool
  | .ga => c.ga.tag
  | .gb => c.gb.tag
  | .gc => c.gc.tag
  | .tp => c.tp.tag
  | _ => false

/-- Set a tag (R459). -/
def IopChan.setTag (c : IopChan) (r : IopReg) (t : Bool) : IopChan :=
  match r with
  | .ga => { c with ga := { c.ga with tag := t } }
  | .gb => { c with gb := { c.gb with tag := t } }
  | .gc => { c with gc := { c.gc with tag := t } }
  | .tp => { c with tp := { c.tp with tag := t } }
  | _ => c

/-- Advance a pointer in its space: modulo 2^20, or 2^16 in the I/O space (D38). -/
def IopPtr.advance (p : IopPtr) (d : Phys) : IopPtr :=
  if p.tag then { p with addr := ioAddr (p.addr + d) } else { p with addr := p.addr + d }

/-- A 16-bit displacement or immediate as 20 bits. -/
def sx20 (v : Word) : Phys := v.signExtend 20

/-- Sign extension of an operand of the given width to 20 bits (R477). -/
def sxOperand : (w : Width) → BitVec w.bits → Phys
  | .byte, v => (v : Byte).signExtend 20
  | .word, v => (v : Word).signExtend 20

/-- The low part of a register or immediate as an operand of the given width. -/
def lowOperand : (w : Width) → Phys → BitVec w.bits
  | .byte, v => v.setWidth 8
  | .word, v => v.setWidth 16

/-! ## Memory operands, R466 -/

/-- The base register's pointer: PP has no tag. -/
def IopChan.base (c : IopChan) : IopBase → IopPtr
  | .ga => c.ga
  | .gb => c.gb
  | .gc => c.gc
  | .pp => ⟨c.pp, false⟩

/-- The effective address of a memory operand, and the channel after the auto-increment by `n` bytes (R466). -/
def IopChan.locate (c : IopChan) (m : IopMem) (n : Nat) : IopPtr × IopChan :=
  let p := c.base m.base
  match m.mode with
  | .based => (p.advance 0, c)
  | .offset d => (p.advance (d.setWidth 20), c)
  | .indexed => (p.advance (c.ix.setWidth 20), c)
  | .autoInc => (p.advance (c.ix.setWidth 20), { c with ix := c.ix + BitVec.ofNat 16 n })

/-- The address of a memory operand, with its auto-increment done. -/
def iopLocate (ch : Bool) (m : IopMem) (n : Nat) (s : State) : IopPtr × State :=
  let (p, c) := (s.chan ch).locate m n
  (p, s.setChan ch c)

/-- Read an operand of the given width at a pointer. -/
def iopReadAt : (w : Width) → IopPtr → State → BitVec w.bits × State
  | .byte, p, s => iopRead8 p.tag p.addr s
  | .word, p, s => iopRead16 p.tag p.addr s

/-- Does a channel's fetch queue hold the byte at `p` as the first byte of the next instruction: TP at an odd address of a 16-bit
bus (R465)? -/
def State.iopQueued (ch : Bool) (p : IopPtr) (s : State) : Bool :=
  let tp := (s.chan ch).tp
  s.iop.wide tp.tag && tp.addr.getLsbD 0 && tp.tag == p.tag && (tp.advance 0).addr == p.addr

/-- The cycle that stores a byte of an instruction; one that changes a queued instruction byte is refused (U42). -/
def iopStoreCycle (ch : Bool) (p : IopPtr) (v : Byte) (s : State) : State :=
  let s := if s.iopQueued ch p then s.refuse .iopSelfModify else s
  iopWriteCycle p.tag p.addr v s

/-- Store an operand of the given width at a pointer. -/
def iopStoreAt (ch : Bool) : (w : Width) → IopPtr → BitVec w.bits → State → State
  | .byte, p, v, s => iopStoreCycle ch p v (s.iopYield p.tag)
  | .word, p, v, s =>
    let s := iopStoreCycle ch p (Word.lo v) (s.iopYield p.tag)
    iopStoreCycle ch (p.advance 1) (Word.hi v) (s.iopYieldHalf p.tag (p.addr.getLsbD 0))

/-- Read a memory operand. -/
def iopLoad (ch : Bool) (w : Width) (m : IopMem) (s : State) : BitVec w.bits × State :=
  let (p, s) := iopLocate ch m w.bytes s
  iopReadAt w p s

/-- Write a memory operand. -/
def iopStore (ch : Bool) (w : Width) (m : IopMem) (v : BitVec w.bits) (s : State) : State :=
  let (p, s) := iopLocate ch m w.bytes s
  iopStoreAt ch w p v s

/-- Read, change and write back a memory operand: two bus cycles at one address. -/
def iopModify (ch : Bool) (w : Width) (m : IopMem) (f : BitVec w.bits → BitVec w.bits) (s : State) : State :=
  let (p, s) := iopLocate ch m w.bytes s
  let (v, s) := iopReadAt w p s
  iopStoreAt ch w p (f v) s

/-! ## Results -/

/-- Load a register from an operand: sign-extended, its tag set (R467, MOV family). -/
def iopMove (ch : Bool) (w : Width) (r : IopReg) (v : BitVec w.bits) (s : State) : State :=
  s.setChan ch (((s.chan ch).put r (sxOperand w v)).setTag r true)

/-- Four free bits (U38). -/
def drawNibble (s : State) : BitVec 4 × State :=
  let (v, s) := drawWord s
  (v.setWidth 4, s)

/-- A logical result in a register: a byte is sign-extended to 16 bits, bits 19 to 16 are any value (R467, U38; log 56). -/
def iopLogical (ch : Bool) (w : Width) (r : IopReg) (v : BitVec w.bits) (s : State) : State :=
  let (top, s) := drawNibble s
  let low : Word := (sxOperand w v).setWidth 16
  s.setChan ch ((s.chan ch).put r (top ++ low))

/-- A two-operand operation with a register destination (R477, R485, R489). -/
def iopAluReg (ch : Bool) (op : IopAlu) (w : Width) (r : IopReg) (v : BitVec w.bits) (s : State) : State :=
  let old := (s.chan ch).get r
  match op with
  | .add =>
    let sum := old + sxOperand w v
    let c := (s.chan ch).put r sum
    s.setChan ch (if r = .tp then { c with tp := c.tp.advance 0 } else c)
  | .or => iopLogical ch w r (lowOperand w old ||| v) s
  | .and => iopLogical ch w r (lowOperand w old &&& v) s

/-- The operation on memory operands. -/
def iopAlu (op : IopAlu) {n : Nat} (a b : BitVec n) : BitVec n :=
  match op with
  | .add => a + b
  | .or => a ||| b
  | .and => a &&& b

/-- Transfer of control by a displacement from the next instruction (R498). -/
def iopJump (ch : Bool) (c : Bool) (disp : Word) (s : State) : State :=
  if c then
    let k := s.chan ch
    s.setChan ch { k with tp := k.tp.advance (sx20 disp) }
  else s

/-- `mcmatch` (R458). -/
def mcMatch (mc : Word) (b : Byte) : Bool := (b ^^^ mc.lo) &&& mc.hi == 0

/-- The three bytes of a pointer variable (R462, D37). -/
def ptrBytes (p : IopPtr) : Byte × Byte × Byte :=
  (p.addr.setWidth 8, (p.addr >>> 8).setWidth 8, (p.addr >>> 16).setWidth 4 ++ (if p.tag then 8 else 0 : BitVec 4))

/-- A pointer from its three bytes; the low three bits of the last are ignored (R474). -/
def ptrOfBytes (b0 b1 b2 : Byte) : IopPtr := ⟨b2.extractLsb' 4 4 ++ b1 ++ b0, b2.getLsbD 3⟩

/-- Store a pointer variable, a word and a byte; an odd address is refused (U41). `check`: the bytes may hit the fetch queue. -/
def iopStorePtr (ch : Bool) (at_ : IopPtr) (v : IopPtr) (check : Bool) (s : State) : State :=
  let (b0, b1, b2) := ptrBytes v
  let s := if at_.addr.getLsbD 0 then s.refuse .iopOddSave else s
  let put (p : IopPtr) (b : Byte) (s : State) : State := if check then iopStoreCycle ch p b s else iopWriteCycle p.tag p.addr b s
  let s := put (at_.advance 1) b1 ((put at_ b0 (s.iopYield at_.tag)).iopYieldHalf at_.tag (at_.addr.getLsbD 0))
  put (at_.advance 2) b2 (s.iopYield at_.tag)

/-- A pointer from a doubleword variable: segment * 16 + offset, tag 0 (R454, R475). -/
def farPointer (off seg : Word) : IopPtr := ⟨phys seg off, false⟩

/-- The address of a channel's half of the control block (R453). -/
def State.cbBase (ch : Bool) (s : State) : Phys := s.iop.cb + (if ch then 8 else 0)

/-- Write a channel's BUSY byte (R453, R457). -/
def iopBusy (ch : Bool) (v : Byte) (s : State) : State := iopWrite8 false (s.cbBase ch + 1) v s

/-- A single register result of INC, DEC (R481, R483). DESIGN CHOICE (log 51): INC and DEC of TP in the I/O space count modulo 2^20 as
these rules say, where a program transfer and ADD to TP wrap at 16 bits (D38); the fetch ignores the upper four bits either way. -/
def iopStepReg (ch : Bool) (r : IopReg) (d : Phys) (s : State) : State :=
  s.setChan ch ((s.chan ch).put r ((s.chan ch).get r + d))

/-! ## The instructions, R470 to R512 -/

/-- The registers an instruction writes by name (not the auto-increment of IX), for the rules on XFER and CC. -/
def IopInstr.dest : IopInstr → Option IopReg
  | .lpdi p _ _ => some p
  | .aluImm _ _ r _ => some r
  | .movImm _ r _ => some r
  | .notReg r => some r
  | .incReg r => some r
  | .decReg r => some r
  | .movRegMem _ r _ => some r
  | .lpd p _ => some p
  | .movpLoad p _ => some p
  | .aluRegMem _ _ r _ => some r
  | .notRegMem _ r _ => some r
  | _ => none

/-- Is this MOV or MOVI, the only instructions that may write CC (R460)? -/
def IopInstr.isMov : IopInstr → Bool
  | .movImm .word _ _ => true
  | .movRegMem .word _ _ => true
  | _ => false

/-- HLT (R512); a pending XFER is handled where instructions end (R509). -/
def iopHlt (ch : Bool) (s : State) : State :=
  let s := iopBusy ch 0x00 s
  let c := s.chan ch
  s.setChan ch { c with psw := c.psw &&& 0xFB, activity := if c.activity = .armed then .armed else .idle }

/-- The effect of one instruction, TP standing past it. Three points R466, R471, R490 and R497 leave open (DESIGN CHOICE, log 65): the
auto-increment of a CALL operand is 3, the bytes it stores; an auto-increment is made when its operand is located, so that with IX as
the register operand a register source is IX before it and a register destination is IX after it; in a move from memory to memory
the destination sees the source's increment. -/
def iopExec (ch : Bool) (i : IopInstr) (s : State) : State :=
  match i with
  | .nop => s
  | .hlt => iopHlt ch s
  | .sintr => s.setChan ch { s.chan ch with psw := (s.chan ch).psw ||| 0x10 }
  | .xfer => s
  | .wid src dst =>
    let wide := s.iop.sysWord || s.iop.ioWord
    let s := if (src || dst) && !wide then s.refuse .iopWidth else s
    let c := s.chan ch
    s.setChan ch { c with psw := c.psw &&& 0xFC ||| BitVec.ofNat 8 (2 * src.toNat + dst.toNat) }
  | .lpdi p off seg => s.setChan ch (((s.chan ch).put p (farPointer off seg).addr).setTag p false)
  | .aluImm op w r imm => iopAluReg ch op w r (lowOperand w (sx20 imm)) s
  | .movImm w r imm => iopMove ch w r (lowOperand w (sx20 imm)) s
  | .notReg r => iopLogical ch .word r (~~~lowOperand .word ((s.chan ch).get r)) s
  | .incReg r => iopStepReg ch r 1 s
  | .decReg r => iopStepReg ch r (-1) s
  | .jumpReg zero r disp => iopJump ch ((lowOperand .word ((s.chan ch).get r) == (0 : Word)) == zero) disp s
  | .movMemImm w m imm => iopStore ch w m (lowOperand w (sx20 imm)) s
  | .movRegMem w r m =>
    let (v, s) := iopLoad ch w m s
    iopMove ch w r v s
  | .movMemReg w m r => iopStore ch w m (lowOperand w ((s.chan ch).get r)) s
  | .movMemMem w dst src =>
    let (v, s) := iopLoad ch w src s
    iopStore ch w dst v s
  | .lpd p m =>
    let (a, s) := iopLocate ch m 4 s
    let (off, s) := iopRead16 a.tag a.addr s
    let (seg, s) := iopRead16 a.tag (a.advance 2).addr s
    s.setChan ch (((s.chan ch).put p (farPointer off seg).addr).setTag p false)
  | .movpLoad p m =>
    let (a, s) := iopLocate ch m 3 s
    let (low, s) := iopRead16 a.tag a.addr s
    let (b2, s) := iopRead8 a.tag (a.advance 2).addr s
    let v := ptrOfBytes low.lo low.hi b2
    s.setChan ch (((s.chan ch).put p v.addr).setTag p v.tag)
  | .movpStore m p =>
    let v : IopPtr := ⟨(s.chan ch).get p, (s.chan ch).tag p⟩
    let (a, s) := iopLocate ch m 3 s
    iopStorePtr ch a v true s
  | .tsl m v disp =>
    let (a, s) := iopLocate ch m 1 s
    let (b, s) := iopRead8 a.tag a.addr s
    if b = 0 then iopStoreCycle ch a v s else iopJump ch true disp s
  | .call m disp =>
    let (a, s) := iopLocate ch m 3 s
    iopJump ch true disp (iopStorePtr ch a (s.chan ch).tp false s)
  | .aluRegMem op w r m =>
    let (v, s) := iopLoad ch w m s
    iopAluReg ch op w r v s
  | .aluMemReg op w m r =>
    let v := lowOperand w ((s.chan ch).get r)
    iopModify ch w m (fun x => iopAlu op x v) s
  | .aluMemImm op w m imm => iopModify ch w m (fun x => iopAlu op x (lowOperand w (sx20 imm))) s
  | .notRegMem w r m =>
    let (v, s) := iopLoad ch w m s
    iopLogical ch w r (~~~v) s
  | .notMem w m => iopModify ch w m (fun x => ~~~x) s
  | .incMem w m => iopModify ch w m (fun x => x + 1) s
  | .decMem w m => iopModify ch w m (fun x => x - 1) s
  | .jumpMasked equal m disp =>
    let (v, s) := iopLoad ch .byte m s
    iopJump ch (mcMatch (s.chan ch).mc v == equal) disp s
  | .jumpBit value b m disp =>
    let (v, s) := iopLoad ch .byte m s
    iopJump ch (BitVec.getLsbD v b.toNat == value) disp s
  | .jumpMem zero w m disp =>
    let (v, s) := iopLoad ch w m s
    iopJump ch ((v == 0) == zero) disp s
  | .setBit value m b =>
    iopModify ch .byte m (fun x => if value then x ||| (1 : Byte) <<< b.toNat else x &&& ~~~((1 : Byte) <<< b.toNat)) s

/-- The whole instruction at TP: its bytes, in ascending order (R465). -/
def iopFetch (ch : Bool) (s : State) : List Byte × State :=
  let tp := (s.chan ch).tp
  let (b0, s) := iopReadCycle tp.tag (tp.advance 0).addr s
  let (b1, s) := iopReadCycle tp.tag (tp.advance 1).addr s
  let (rest, s) := iopRead tp.tag (iopExtra b0 b1) (tp.advance 2).addr s
  -- the offset byte of the second unit of a memory-to-memory move
  let n := rest.length
  let more := iopOpcode b1 == 36 && iopAa (rest.getD (n - 2) 0) == 1
  let (last, s) := iopRead tp.tag (if more then 1 else 0) (tp.advance (2 + BitVec.ofNat 20 n)).addr s
  (b0 :: b1 :: rest ++ last, s)

/-- The source pointer of a transfer: GA, or GB if CC.S = 1 (R460). -/
def IopChan.srcReg (c : IopChan) : IopReg := if c.cc.getLsbD 10 then .gb else .ga
/-- The destination pointer of a transfer. -/
def IopChan.dstReg (c : IopChan) : IopReg := if c.cc.getLsbD 10 then .ga else .gb

/-- Does CC ask for a transfer the rules exclude (U43, U44, U46)? -/
def Iop.badTransfer (p : Iop) (c : IopChan) : Option Refusal :=
  if c.cc.extractLsb' 11 2 = 3 then some .iopSyncReserved
  else if c.cc.getLsbD 13 && (c.psw.getLsbD 0 || c.psw.getLsbD 1) then some .iopTranslateWord
  else if c.psw.getLsbD 1 && !p.wide (c.tag c.srcReg) then some .iopWidth
  else if c.psw.getLsbD 0 && !p.wide (c.tag c.dstReg) then some .iopWidth
  else none

/-- Enter DMA transfer mode (R509, R514): PSW.XF becomes 1. -/
def iopEnter (ch : Bool) (s : State) : State :=
  let c := s.chan ch
  let s := match s.iop.badTransfer c with
    | some r => s.refuse r
    | none => s
  s.setChan ch { c with activity := .transfer, psw := c.psw ||| 0x40, hold := none, locked := false }

/-- One instruction of a channel program (R465, R470 to R512). DESIGN CHOICE (log 70): with XFER right behind XFER the transfer is
entered once, after the second, whose own pending condition is dropped; R509 lets any instruction follow and does not say what a second
pending condition does. -/
def iopInstruction (ch : Bool) (s : State) : State :=
  let armed := (s.chan ch).activity = .armed
  let (bytes, s) := iopFetch ch s
  match iopDecode bytes with
  | none => s.refuse .iopUndefinedOpcode
  | some i =>
    let c := s.chan ch
    let s := s.setChan ch { c with tp := c.tp.advance (BitVec.ofNat 20 bytes.length) }
    let s := if armed ∧ (i.dest = some .ga ∨ i.dest = some .gb ∨ i.dest = some .cc) then s.refuse .iopAfterXfer else s
    let s := if i.dest = some .cc ∧ !i.isMov then s.refuse .iopChannelControl else s
    let s := iopExec ch i s
    if armed then iopEnter ch s
    else if i = .xfer then s.setChan ch { s.chan ch with activity := .armed }
    else s

end Sys2Proof.Machine
end

