-- ==== Sys2Proof/Machine/IopDma.lean ====
section
/-! DEFINITION. The 8089's DMA transfers (49_iop_8089.md R514 to R521), the channel attention and initialization sequences (R452, R456)
and the choice between the two channels (R463). A move of a channel runs one instruction, one bus cycle of a transfer, the tests after
a store, or one attention sequence (log 54). -/

namespace Sys2Proof.Machine

/-! ## Fields of CC, R460 -/

def IopChan.srcMemory (c : IopChan) : Bool := c.cc.getLsbD 14
def IopChan.dstMemory (c : IopChan) : Bool := c.cc.getLsbD 15
def IopChan.translates (c : IopChan) : Bool := c.cc.getLsbD 13
def IopChan.syncSource (c : IopChan) : Bool := c.cc.extractLsb' 11 2 == 1
def IopChan.syncDest (c : IopChan) : Bool := c.cc.extractLsb' 11 2 == 2
def IopChan.locks (c : IopChan) : Bool := c.cc.getLsbD 9
def IopChan.chained (c : IopChan) : Bool := c.cc.getLsbD 8
def IopChan.single (c : IopChan) : Bool := c.cc.getLsbD 7
def IopChan.tx (c : IopChan) : Nat := (c.cc.extractLsb' 5 2).toNat
def IopChan.tbc (c : IopChan) : Nat := (c.cc.extractLsb' 3 2).toNat
def IopChan.tmc (c : IopChan) : Nat := (c.cc.extractLsb' 0 3).toNat

/-- The pointer in a register. -/
def IopChan.ptr (c : IopChan) (r : IopReg) : IopPtr := ⟨c.get r, c.tag r⟩

/-- EXT is recognized: active, valid only while DRQ is inactive, and asked for (R518, R519). It is sampled after every bus cycle of a
transfer: the channel's next step looks, so that the pins may change in between (log 69). -/
def IopChan.extHit (c : IopChan) : Bool := c.tx != 0 && c.ext && !c.drq && !c.single

/-! ## One transfer cycle, R515, R516 -/

/-- Table 7-8, by the parities (true = odd) and the logical widths (true = 16). -/
def iopCycleKind (srcOdd dstOdd srcWide dstWide : Bool) : IopCycle :=
  match srcWide, dstWide with
  | false, false => .byteByte
  | false, true => if dstOdd then .byteByte else .bytesWord
  | true, false => if srcOdd then .byteByte else .wordBytes
  | true, true =>
    match srcOdd, dstOdd with
    | false, false => .wordWord
    | false, true => .wordBytes
    | true, false => .bytesWord
    | true, true => .byteByte

/-- The kind of the next cycle. DEDUCED (log 54): with byte count termination and one byte left, one byte is moved. A single transfer
(TS = 1) is the complete cycle of Table 7-8: it ignores the byte count (R519). -/
def IopChan.cycleKind (c : IopChan) : IopCycle :=
  if !c.single && c.tbc != 0 && c.bc == 1 then .byteByte
  else iopCycleKind ((c.get c.srcReg).getLsbD 0) ((c.get c.dstReg).getLsbD 0) (c.psw.getLsbD 1) (c.psw.getLsbD 0)

/-- Advance a register that points to memory. -/
def IopChan.bump (c : IopChan) (r : IopReg) (memory : Bool) (n : Phys) : IopChan :=
  if memory then c.put r ((c.ptr r).advance n).addr else c

/-- Fetch one byte: BC counts it, a memory source pointer passes it (R515). -/
def iopDmaByte (ch : Bool) (s : State) : Byte × State :=
  let c := s.chan ch
  let p := c.ptr c.srcReg
  let (b, s) := iopRead8 p.tag p.addr s
  let c := s.chan ch
  (b, s.setChan ch ({ c with bc := c.bc - 1 }.bump c.srcReg c.srcMemory 1))

/-- Fetch one word. -/
def iopDmaWord (ch : Bool) (s : State) : Word × State :=
  let c := s.chan ch
  let p := c.ptr c.srcReg
  let (v, s) := iopRead16 p.tag p.addr s
  let c := s.chan ch
  (v, s.setChan ch ({ c with bc := c.bc - 2 }.bump c.srcReg c.srcMemory 2))

/-- Translate a byte through the table at GC (R517). -/
def iopTranslate (ch : Bool) (b : Byte) (s : State) : Byte × State :=
  let c := s.chan ch
  if c.translates then iopRead8 c.gc.tag (c.gc.advance (b.setWidth 20)).addr s else (b, s)

/-- The first bus cycle of a transfer cycle, a fetch (step 2 of R515) with the read of the translate table (step 3): what is held
after it. -/
def iopDmaFirst (ch : Bool) (s : State) : IopHold × State :=
  let kind := (s.chan ch).cycleKind
  match kind with
  | .byteByte =>
    let (b, s) := iopDmaByte ch s
    let (b, s) := iopTranslate ch b s
    (⟨b.setWidth 16, 1, kind, false, .store⟩, s)
  | .bytesWord =>
    let (lo, s) := iopDmaByte ch s
    (⟨lo.setWidth 16, 1, kind, false, .fetch⟩, s)
  | .wordBytes =>
    let (v, s) := iopDmaWord ch s
    (⟨v, 2, kind, false, .store⟩, s)
  | .wordWord =>
    let (v, s) := iopDmaWord ch s
    (⟨v, 2, kind, false, .store⟩, s)

/-- LOCK from the first fetch on (R521). -/
def IopChan.lockNow (c : IopChan) : IopChan := { c with locked := c.locked || c.locks }

/-- The first fetch of a cycle, LOCK becoming active before it if CC.L asks for it. -/
def iopDmaBegin (ch : Bool) (s : State) : State :=
  let (h, s) := iopDmaFirst ch (s.setChan ch (s.chan ch).lockNow)
  s.setChan ch { s.chan ch with hold := some h }

/-- The second of two fetches; an EXT recognized after the first prevents it (step 2 of R515). -/
def iopDmaSecond (ch : Bool) (h : IopHold) (s : State) : State :=
  if (s.chan ch).extHit then s.setChan ch { s.chan ch with hold := some { h with ext := true, stage := .store } }
  else
    let (hi, s) := iopDmaByte ch s
    s.setChan ch { s.chan ch with hold := some { h with value := Word.mk hi h.value.lo, count := 2, stage := .store } }

/-- Store the low byte (false) or the whole word (true) of what is held; a memory destination pointer passes it (R515). -/
def iopDmaStore (ch : Bool) (word : Bool) (v : Word) (s : State) : State :=
  let c := s.chan ch
  let p := c.ptr c.dstReg
  let s := if word then iopWrite16 p.tag p.addr v s else iopWrite8 p.tag p.addr v.lo s
  let c := s.chan ch
  s.setChan ch (c.bump c.dstReg c.dstMemory (if word then 2 else 1))

/-! ## Termination, R519 -/

/-- The offset code of a two-bit termination field. -/
def offsetOf (code : Nat) : Nat := 4 * (code - 1)

/-- The masked compare condition on a stored byte: its offset if it holds (R460, R519). -/
def IopChan.compareHit (c : IopChan) (b : Byte) : Option Nat :=
  if 1 ≤ c.tmc ∧ c.tmc ≤ 3 then (if mcMatch c.mc b then some (offsetOf c.tmc) else none)
  else if 5 ≤ c.tmc then (if mcMatch c.mc b then none else some (offsetOf (c.tmc - 4)))
  else none

/-- The larger of two offsets of conditions that hold (R519). -/
def largerOffset : Option Nat → Option Nat → Option Nat
  | some a, some b => some (max a b)
  | some a, none => some a
  | none, b => b

/-- The byte count condition (R519). -/
def IopChan.countHit (c : IopChan) : Option Nat := if c.tbc ≠ 0 ∧ c.bc = 0 then some (offsetOf c.tbc) else none

/-- The termination after a store: `ext` says that EXT was recognized, `hit` is the offset of a compare hit, `done` that the cycle is
complete. TS = 1 allows only the end of a complete cycle; byte count alone waits for it; of conditions that hold together the
largest offset counts (R519). -/
def IopChan.ending (c : IopChan) (ext : Bool) (hit : Option Nat) (done : Bool) : Option Nat :=
  if c.single then (if done then some 0 else none)
  else
    match largerOffset (if ext then some (offsetOf c.tx) else none) hit with
    | none => if done then c.countHit else none
    | some n => largerOffset (some n) c.countHit

/-- Twenty free bits. -/
def drawAddr (s : State) : Phys × State :=
  let (top, s) := drawNibble s
  let (low, s) := drawWord s
  (top ++ low, s)

/-- The end of a transfer that cut a cycle short, `left` bytes of it being fetched and not stored; `compare`: by a compare hit, else
by EXT. What Table 7-9 promises holds: a pointer it names points one past the last byte stored, as R520 derives, B/B→W no less (log 57).
BC and the other memory pointers are any value (R520, U50; log 57). -/
def iopCutShort (ch compare : Bool) (left : Nat) (s : State) : State :=
  let (bc, s) := drawWord s
  let (src, s) := drawAddr s
  let (dst, s) := drawAddr s
  let c := { s.chan ch with bc := bc }
  let c :=
    if !c.dstMemory && (compare || c.syncDest) then c.bump c.srcReg c.srcMemory (-(BitVec.ofNat 20 left))
    else if c.srcMemory then c.put c.srcReg src
    else c
  let promised := compare || (if c.srcMemory then !c.syncSource && !c.syncDest else c.syncSource)
  s.setChan ch (if c.dstMemory && !promised then c.put c.dstReg dst else c)

/-- The termination sequence (R519): LOCK released, XF cleared, TP adjusted, the channel program goes on. -/
def iopTerminate (ch : Bool) (offset : Nat) (s : State) : State :=
  let c := s.chan ch
  s.setChan ch
    { c with psw := c.psw &&& 0xBF, tp := c.tp.advance (BitVec.ofNat 20 offset), activity := .program, hold := none, locked := false }

/-- Do the bytes held go as one word (R516)? -/
def IopHold.word (h : IopHold) : Bool := h.count == 2 && (h.kind == .bytesWord || h.kind == .wordWord)

/-- One store of a cycle (step 6 of R515); an EXT recognized after the bus cycle before it is remembered. -/
def iopDmaPut (ch : Bool) (h : IopHold) (s : State) : State :=
  let ext := (s.chan ch).extHit
  let s := iopDmaStore ch h.word h.value s
  s.setChan ch { s.chan ch with hold := some { h with ext := h.ext || ext, stage := .check } }

/-- The channel whose cycle goes on to its second store, or, `done`, is complete: LOCK of a transfer that is not synchronized lasts one
cycle (R521). -/
def IopChan.afterStore (c : IopChan) (h : IopHold) (done : Bool) : IopChan :=
  if done then { c with hold := none, locked := c.locked && (c.syncSource || c.syncDest) }
  else { c with hold := some { h with value := h.value >>> 8, count := 1, stage := .store } }

/-- The tests after a store (steps 7 to 9 of R515). A compare hit or EXT ends the transfer and prevents a second store. DESIGN CHOICE
(log 71): R519's "low-order byte of each word" is that of a word stored in one cycle; of a word stored as two bytes each is compared, as
step 7 compares "the low-order byte just stored". -/
def iopDmaCheck (ch : Bool) (h : IopHold) (s : State) : State :=
  let c := s.chan ch
  let done := h.word || h.count ≤ 1
  let hit := c.compareHit h.value.lo
  match c.ending (h.ext || c.extHit) hit done with
  | none => s.setChan ch (c.afterStore h done)
  | some n =>
    let cut := !c.single && (!done || h.kind == .bytesWord && !h.word)
    iopTerminate ch n (if cut then iopCutShort ch hit.isSome (if done then 0 else 1) s else s)

/-- Is the transfer waiting for DRQ (R518)? DRQ is a level here; edge or level is not in the source (DESIGN CHOICE, log 69). -/
def IopChan.waits (c : IopChan) : Bool :=
  !c.drq && ((c.syncSource && c.hold.isNone) || (c.syncDest && c.hold.any fun h => h.stage == .store))

/-- Has a channel that waits for DRQ something to do: an EXT to recognize that it has not yet (R518)? -/
def IopChan.extNews (c : IopChan) : Bool := c.extHit && !c.hold.any fun h => h.ext

/-- EXT recognized in a wait for DRQ: with nothing held the transfer ends; bytes that are held go first, when DRQ asks for them (steps
5 to 8 of R515; log 57). -/
def iopExtWaiting (ch : Bool) (s : State) : State :=
  let c := s.chan ch
  match c.hold with
  | none => iopTerminate ch (offsetOf c.tx) s
  | some h => s.setChan ch { c with hold := some { h with ext := true } }

/-- One step of a transfer (R515): a bus cycle, or the tests after a store; a wait for DRQ, which an EXT may end. -/
def iopTransfer (ch : Bool) (s : State) : State :=
  let c := s.chan ch
  if c.waits then (if c.extNews then iopExtWaiting ch s else s)
  else match c.hold with
  | none => iopDmaBegin ch s
  | some h =>
    match h.stage with
    | .fetch => iopDmaSecond ch h s
    | .store => iopDmaPut ch h s
    | .check => iopDmaCheck ch h s

/-! ## Attention, R452, R456 -/

/-- The save area of a suspended channel (R462). -/
def iopSaveState (ch : Bool) (s : State) : State :=
  let c := s.chan ch
  let (b0, b1, b2) := ptrBytes c.tp
  iopWrite16 false (c.pp + 2) (Word.mk c.psw b2) (iopWrite16 false c.pp (Word.mk b1 b0) s)

/-- Read a doubleword pointer in system space (R454). -/
def iopPointerAt (a : Phys) (s : State) : IopPtr × State :=
  let (off, s) := iopRead16 false a s
  let (seg, s) := iopRead16 false (a + 2) s
  (farPointer off seg, s)

/-- The PSW after the P, B and interrupt control fields of a CCW (R455). -/
def pswCommand (psw ccw : Byte) : Byte :=
  let psw := psw &&& 0x5F ||| ccw &&& 0xA0
  match (ccw.extractLsb' 3 2).toNat with
  | 1 => psw &&& 0xEF
  | 2 => psw ||| 0x08
  | 3 => psw &&& 0xE7
  | _ => psw

/-- Start a channel program (R456). -/
def iopStart (ch io : Bool) (s : State) : State :=
  let (pb, s) := iopPointerAt (s.cbBase ch + 2) s
  let (tb, s) := iopPointerAt pb.addr s
  let s := iopBusy ch 0xFF s
  let c := s.chan ch
  let tp : IopPtr := if io then ⟨ioAddr tb.addr, true⟩ else tb
  s.setChan ch { c with pp := pb.addr, tp := tp, psw := c.psw &&& 0xBF ||| 0x04, activity := .program, hold := none, locked := false }

/-- Resume a suspended channel (R456, R462): with XF set in the restored PSW the transfer goes on (log 54). DESIGN CHOICE (log 53): it is
not tested again for U43, U44 and U46, which name XFER and WID; with SYN = 11 in CC it then runs unsynchronized, with TR = 1 and 16-bit
widths in the restored PSW words go untranslated, and a logical width above the physical one is taken as it is. -/
def iopResume (ch : Bool) (s : State) : State :=
  let pp := (s.chan ch).pp
  let (low, s) := iopRead16 false pp s
  let (high, s) := iopRead16 false (pp + 2) s
  let psw := high.hi
  let s := iopBusy ch 0xFF s
  let c := s.chan ch
  s.setChan ch
    { c with tp := ptrOfBytes low.lo low.hi high.lo, psw := psw, activity := if psw.getLsbD 6 then .transfer else .program, hold := none }

/-- Stop the channel (halt and suspend, R456): BUSY is cleared. -/
def iopStop (ch : Bool) (keep : Byte) (s : State) : State :=
  let s := iopBusy ch 0x00 s
  let c := s.chan ch
  s.setChan ch { c with psw := c.psw &&& keep, activity := .idle, hold := none, locked := false }

/-- The channel attention sequence of an initialized 8089 (R456). The reserved command codes 010 and 100 are taken as no operation
(DESIGN CHOICE of the two that U48 allows; log 53); the other fields of the CCW act. -/
def iopAttend (ch : Bool) (s : State) : State :=
  let (ccw, s) := iopRead8 false (s.cbBase ch) s
  let c := s.chan ch
  let s := s.setChan ch { c with psw := pswCommand c.psw ccw }
  match (ccw.extractLsb' 0 3).toNat with
  | 0 => s
  | 1 => iopStart ch true s
  | 3 => iopStart ch false s
  | 5 => iopResume ch s
  | 6 => iopStop ch 0xFB (iopSaveState ch s)
  | 7 => iopStop ch 0xBB s
  | _ => s

/-- Initialization by the first channel attention after RESET (R451, R452): the SCP at FFFF6H, the SCB, the CB address; the SEL
value tells master or slave; channel 1's BUSY is cleared at the end. Bits the rule calls 0 are ignored (log 51). The order of the
reads, and byte by byte whatever the width of the bus, are not in the source: DESIGN CHOICE (log 53). -/
def iopInitialize (ch : Bool) (s : State) : State :=
  let (sysbus, s) := iopRead8 false 0xFFFF6 s
  let (scb, s) := iopPointerAt 0xFFFF8 s
  let (soc, s) := iopRead8 false scb.addr s
  let (cb, s) := iopPointerAt (scb.addr + 2) s
  let s := { s with iop := { s.iop with
    initialized := true, initCa := none, cb := cb.addr, sysWord := sysbus.getLsbD 0, ioWord := soc.getLsbD 0, rqMode := soc.getLsbD 1, master := !ch } }
  iopBusy false 0x00 s

/-- Recognize the latched attention of a channel. -/
def iopAttention (ch : Bool) (s : State) : State :=
  let s := s.setChan ch { s.chan ch with ca := false }
  if s.iop.initialized then iopAttend ch s else iopInitialize ch s

/-! ## Scheduling, R463 -/

/-- Is the channel's attention to be recognized now: at the end of a transfer cycle, or between instructions? -/
def IopChan.attends (c : IopChan) : Bool := c.ca && c.hold.isNone && c.activity != .armed

/-- The priority of a channel's next activity, 1 highest, 4 idle (Table 7-3). DESIGN CHOICE (log 54): a channel in a transfer or a
chained program whose own attention is latched counts as priority 2, so a chained program of the other channel keeps out its attention
and its transfer: overrides 1 and 2 of R463 both apply and the rule does not say which wins. -/
def IopChan.priority (c : IopChan) : Nat :=
  if c.attends then 2
  else match c.activity with
    | .idle => 4
    | .transfer => if c.waits && !c.extNews then 4 else 1
    | .program => if c.chained then 1 else 3
    | .armed => if c.chained then 1 else 3

/-- A channel at the end of a transfer cycle, LOCK inactive, lets an attention of the other channel go first (Table 7-4, row 2). -/
def IopChan.yields (c : IopChan) : Bool := c.activity == .transfer && c.hold.isNone && !c.locked && !c.attends

/-- Does the scheduler let the channel run (R463): the first attention after RESET before all else (R451, R452); not against a locked
transfer; an attention at the other's cycle end; the higher priority; then the higher P bit; then in turn? -/
def iopRuns (ch : Bool) (s : State) : Bool :=
  let a := s.chan ch
  let b := s.chan (!ch)
  if a.priority = 4 then false
  else if s.iop.initCa = some (!ch) then false
  else if s.iop.initCa = some ch then true
  else if b.holdsBus then false
  else if a.holdsBus then true
  else if a.attends && b.yields then true
  else if b.attends && a.yields then false
  else if a.priority < b.priority then true
  else if b.priority < a.priority then false
  else if a.psw.getLsbD 7 != b.psw.getLsbD 7 then a.psw.getLsbD 7
  else s.iop.lastTwo != ch

/-- Has the channel made a store whose tests are still to come? They are no activity of their own in Table 7-3 and take no turn. -/
def IopChan.checking (c : IopChan) : Bool := c.activity == .transfer && c.hold.any fun h => h.stage == .check

/-- One step of a channel, if it may run: an attention, an instruction or a transfer step. -/
def iopStep (ch : Bool) (s : State) : State :=
  if iopRuns ch s then
    let s := if (s.chan ch).checking then s else { s with iop := { s.iop with lastTwo := ch } }
    if (s.chan ch).attends then iopAttention ch s
    else match (s.chan ch).activity with
      | .idle => s
      | .program => iopInstruction ch s
      | .armed => iopInstruction ch s
      | .transfer => iopTransfer ch s
  else s

/-- SINTR of a channel (R522). How the platform routes it is a matter of moves (log 59). -/
def IopChan.sintr (c : IopChan) : Bool := c.psw.getLsbD 4 && c.psw.getLsbD 3

end Sys2Proof.Machine
end

