-- ==== Sys2Proof/Machine/Osf.lean ====
section
/-! DEFINITION. The 80130 operating system firmware component (62_osf_80130.md): not an agent and without registers in spec/ (D43); its
presence changes nothing the CPU does (log 58). What the file fixes of its interrupt lines stands here. -/

namespace Sys2Proof.Machine

/-- The platform's 80130 (R600): present or not. -/
def State.hasOsf (s : State) : Bool := s.cfg.hasOsf

/-- The type of master interrupt line `k` (R603). -/
def osfMasterType (k : BitVec 3) : Byte := 56 + k.setWidth 8

/-- The type of line `y` of the slave on master line `x` (R603). -/
def osfSlaveType (x y : BitVec 3) : Byte := (1 : BitVec 2) ++ x ++ y

/-- The type a `line` parameter word names (R604); a word with one of bits 15 to 7 set names no line. -/
def osfLineType (w : Word) : Option Byte :=
  if w.extractLsb' 7 9 ≠ 0 then none
  else if w.getLsbD 3 then some (osfMasterType (w.extractLsb' 4 3))
  else some (osfSlaveType (w.extractLsb' 4 3) (w.extractLsb' 0 3))

/-- The line in service that a word returned by GET$LEVEL tells, as its type, or none (R604): bits 15 to 8 are ignored. -/
def osfLevelType (w : Word) : Option Byte := if w.getLsbD 7 then none else osfLineType (w &&& 0x00FF)

/-- The 80130 drives its request line with an interrupt of type `t` to give: on the 8086,88 INTR; on the 80186,188 (log 58) INT0, with
the type on INTA0, or in iRMX 86 mode as the controller outside, while the slave select INT1 is LOW (R600; 61_186_peripherals.md R588,
R593). -/
def State.osfLine (t : Byte) (s : State) : Prop :=
  if s.is186 then
    s.pcb.ic.pin.getLsbD 0 = true ∧
      if s.pcb.rmx then s.pcb.ic.pin.getLsbD 1 = false ∧ s.pins.intrType = t else s.pins.inta0Type = t
  else s.pins.intr = true ∧ s.pins.intrType = t

/-- The 80130's line is a request to the CPU's side: in master mode INT0's request bit is set as well, which in edge mode (LTM = 0)
takes a rising edge since the last acknowledge (61_186_peripherals.md R578). -/
def State.osfAsks (t : Byte) (s : State) : Prop :=
  s.osfLine t ∧ (s.is186 = true → s.pcb.rmx = false → s.pcb.ic.request false .int0 = true)

/-- Between two states of a run the 80130's request of type `t` was acknowledged: it stood, and INTA cycles ran on the line it answers
on, INTA of the 8086,88 and of iRMX 86 mode, INTA0 in master mode (not INTA1, not the internal controller as slave). -/
def OsfTick (t : Byte) (s u : State) : Prop :=
  s.osfAsks t ∧ .intAck 0 ∈ u.io.trace.take (u.io.trace.length - s.io.trace.length)

/-- Does the CPU have the next step? -/
def State.cpuTurn (s : State) : Prop := s.moves = [] ∨ s.moves.head? = some .cpu

/-- Is the next step a RESET? -/
def State.resets (s : State) : Prop := s.moves.head? = some .reset ∨ ∃ a, s.moves.head? = some (.resetDuring a)

/-- Again and again on an unending run. -/
def Recurs (p : Nat → Prop) : Prop := ∀ n, ∃ m, n ≤ m ∧ p m

/-- Fairness of the 80130's timers (R610(c)) on an unending run: the CPU goes on, and the system clock interrupt, of type `t`, is
requested and acknowledged again and again, so that a requested time limit expires; or from some moment on a request of it stands with
its line never given up, and the CPU does not take it (IF, the masks and the priorities are the program's affair); or RESET comes again
and again, so that no time limit stands. A line that only stays HIGH in edge mode after one acknowledge is none of the three. It is the
one obligation of the environment that spec/ states; no statement of the model rests on it (log 58). -/
def OsfClockFair (t : Byte) (run : Nat → State) : Prop :=
  Recurs (fun k => (run k).cpuTurn)
    ∧ (Recurs (fun k => OsfTick t (run k) (run (k + 1)))
      ∨ (∃ m, (run m).osfAsks t
          ∧ ∀ k, m ≤ k → (run k).osfLine t ∧ ¬OsfTick t (run k) (run (k + 1)) ∧ ¬(run k).resets)
      ∨ Recurs (fun k => (run k).resets))

end Sys2Proof.Machine
end

