-- ==== Sys2Proof/Machine/Cycle.lean ====
section
/-! DEFINITION. One step of the CPU: fetch and decode one item (an instruction, or one prefix byte, or one pass of a repeated string
instruction), run it, recognize interrupts (60_exceptions.md R256 to R267); and what each move of the platform and of the other
agents does (70_reset_and_hazards.md R290, R291, R307). -/

namespace Sys2Proof.Machine

/-! ## Fetch -/

/-- The physical address of byte `k` of the code at CS:IP; the offset wraps at 16 bits (30_encoding.md R67, D9). -/
def State.codeAddr (s : State) (k : Nat) : Phys := phys s.segs.cs (s.ip + BitVec.ofNat 16 k)

/-- Is a byte plain memory for a fetch: RAM or ROM, not the control block, not the destination of an unfinished 8087 store? -/
def State.plainCode (s : State) (a : Phys) : Bool :=
  match regionAt s.cfg.regions a.toNat with
  | some .absent => false
  | some .device => false
  | _ => !s.pcbMem a && !s.npxStoring a

/-- One byte of code: memory's, else any value (log 11). -/
def State.fetchByte (s : State) (a : Phys) : Byte :=
  if s.plainCode a then s.mem.read a.toNat else Config.freeFetch s.fresh a.toNat

/-- The six bytes at CS:IP, the length of the longest instruction (D6). -/
def State.fetch (s : State) : List Byte :=
  [s.fetchByte (s.codeAddr 0), s.fetchByte (s.codeAddr 1), s.fetchByte (s.codeAddr 2),
   s.fetchByte (s.codeAddr 3), s.fetchByte (s.codeAddr 4), s.fetchByte (s.codeAddr 5)]

/-- The bytes the next item is decoded from: those at CS:IP; between two repetitions of a string instruction or two test cycles of a
WAIT the opcode byte that was decoded, since the bytes of an instruction are read once (20_memory.md R44, D6). -/
def State.code (s : State) : List Byte :=
  match s.ctl.phase with
  | .repeating => [s.ctl.opByte]
  | .waiting => [s.ctl.opByte]
  | _ => s.fetch

/-! ## Items -/

/-- The string instructions (43_string.md R164 to R170). -/
def isString (i : Instr) : Bool :=
  match i with
  | .movs _ => true
  | .cmps _ => true
  | .scas _ => true
  | .lods _ => true
  | .stos _ => true
  | .ins _ => true
  | .outs _ => true
  | _ => false

/-- May an item follow a repeat prefix: a string instruction, or another prefix (U12)? -/
def repeatable (i : Instr) : Bool :=
  isString i || match i with
  | .repPrefix _ => true
  | .segPrefix _ => true
  | .lockPrefix => true
  | _ => false

/-- WAIT and FWAIT: no single-step trap follows them (R265). -/
def isWait (i : Instr) : Bool :=
  match i with
  | .wait => true
  | .fwait => true
  | _ => false

/-- The start of an item (R259): its first byte and its offset are remembered; at an instruction's first byte TF is sampled, the
offset remembered as the instruction's, the latches cleared. -/
def Control.begin (c : Control) (tf : Bool) (ip : Word) (first : Byte) : Control :=
  match c.phase with
  | .prefixed => { c with opIp := ip, opByte := first, phase := .fresh }
  | .repeating => { c with opIp := ip, opByte := first, phase := .fresh }
  | .waiting => { c with opIp := ip, opByte := first, phase := .fresh }
  | _ => { c with tfSampled := tf, firstIp := ip, latches := .none, opIp := ip, opByte := first, phase := .fresh }

/-- The machine as the meaning of an item of `n` bytes finds it: IP is past the item; the fetch has drawn its free bytes. -/
def State.enter (s : State) (n : Nat) : State :=
  { s with
    ctl := s.ctl.begin s.flags.tf s.ip (s.code.headD 0)
    ip := s.ip + BitVec.ofNat 16 n
    fresh := s.fresh + 1 }

/-! ## Recognition, R256 to R267 -/

/-- The maskable request as the CPU sees it (R256; 61_186_peripherals.md R585, R593). -/
def State.intrLevel (s : State) : Bool :=
  if s.is186 then s.pcb.ic.cpuRequest s.pcb.rmx else s.pins.intr

/-- An external acknowledge: INTA cycles on a line, and the type byte (R262); no other master comes between the two cycles (R276). -/
def externalAck (line : Nat) (t : Byte) (s : State) : Byte × State := (t, (s.yieldBus false).event (.intAck line))

/-- The acknowledge of the integrated controller in master mode (61_186_peripherals.md R586, R588). DESIGN CHOICE (log 33): SFNM = 1 with
C = 0 gives the pin's own type, as R586 has it, though R589 speaks of vectors for pins in neither mode. -/
def masterAck (s : State) : Byte × State :=
  let ic := s.pcb.ic
  match ic.best false with
  | none => drawByte s
  | some u =>
    let s := s.setIc (ic.ack false u)
    if ic.cascade u then
      if u = .int0 then externalAck 0 s.pins.inta0Type s else externalAck 1 s.pins.inta1Type s
    else (ic.masterType u, s)

/-- The acknowledge in iRMX 86 mode: the internal controller answers in the INTA cycles when INT1, the slave select, is active (R593,
R596); with no request of its own it answers any type (log 33). DESIGN CHOICE (log 33): the active level of the select is HIGH, which
R593 does not say. -/
def slaveAck (s : State) : Byte × State :=
  let ic := s.pcb.ic
  if ic.pin.getLsbD 1 then
    match ic.best true with
    | none =>
      let (t, s) := drawByte s
      externalAck 0 t s
    | some u => externalAck 0 (ic.rmxType u) (s.setIc (ic.ack true u))
  else externalAck 0 s.pins.intrType s

/-- `IntAck()` (R262). -/
def intAck (s : State) : Byte × State :=
  if s.is186 then (if s.pcb.rmx then slaveAck s else masterAck s) else externalAck 0 s.pins.intrType s

/-- NMI taken (R257); the 80186,188 set DHLT (61_186_peripherals.md R584). -/
def takeNmi (savedIp : Word) (s : State) : State :=
  let s : State := { s with ctl := { s.ctl with nmiPending := false } }
  let s := if s.is186 then s.setIc { s.pcb.ic with dhlt := true } else s
  interrupt 2 savedIp s

/-- The NMI and INTR tests of R259: was one taken, and the state after; `delay` holds INTR. After an NMI sequence IF = 0, so INTR
waits. -/
def recognize (delay : Bool) (savedIp : Word) (s : State) : Bool × State :=
  if s.ctl.nmiPending then (true, takeNmi savedIp s)
  else if s.intrLevel && s.flags.ie && !delay then
    let (t, s) := intAck s
    (true, interrupt t savedIp s)
  else (false, s)

/-- `int_inhibit` and `intr_delay` have held their one boundary (R261); the first test inside the next instruction looks at them
again (R259). -/
def State.dropHolds (s : State) : State :=
  { s with ctl := { s.ctl with
      intInhibit := false, intrDelay := false, heldAll := s.ctl.intInhibit, heldIntr := s.ctl.intrDelay } }

/-- An instruction is complete: no prefix state is left (R56). -/
def State.complete (s : State) : State := { s with ctl := { s.ctl with phase := .fresh, latches := .none } }

/-- The boundary after an instruction (R259, R261, R265); `trap`: a single-step trap is due. -/
def boundary (trap : Bool) (s : State) : State :=
  let s := s.complete
  if s.ctl.intInhibit then s.dropHolds
  else
    let s := (recognize s.ctl.intrDelay s.ip s).2.dropHolds
    if trap then interrupt 1 s.ip s else s

/-- The NMI and INTR tests inside a repeated string instruction or a WAIT (R259): was one taken, and the state after. The first of
them looks at `int_inhibit` and `intr_delay` as the instruction before left them. A taken interrupt ends the instruction for now;
`trap`: the single-step trap follows it (D16). -/
def midItem (savedIp : Word) (trap : Bool) (s : State) : Bool × State :=
  let held := s.ctl
  let s : State := { s with ctl := { held with heldAll := false, heldIntr := false } }
  let (taken, s) := if held.heldAll then (false, s) else recognize held.heldIntr savedIp s
  if taken then
    let s := s.complete
    (true, if trap then interrupt 1 s.ip s else s)
  else (false, s)

/-- The saved IP of an interrupt before a repetition (R254, 43_string.md R163): the first prefix byte, on the 8086,88 the one
in front of the opcode. -/
def State.repeatIp (s : State) : Word := if s.is186 then s.ctl.firstIp else s.ctl.opIp - 1

/-- What follows an item. A prefix: its instruction; a repetition: the next one. HLT with the trap due does not halt (R259). DESIGN CHOICE
(log 34): the interrupt sequence of a request or trap recognized here is part of the item, so that after an instruction that starts an
unsynchronized DMA channel its bus cycles come before the channel's first transfer (61_186_peripherals.md R551). -/
def afterItem (i : Instr) (s : State) : State :=
  match s.ctl.phase with
  | .prefixed => s
  | .repeating => s
  | .waiting => (midItem s.ctl.firstIp false s).2
  | .halted =>
    if s.ctl.tfSampled then boundary true s
    else { s with ctl := { s.ctl with latches := .none } }
  | .fresh => boundary (s.ctl.tfSampled && !isWait i) s

/-- A step of a halted CPU: NMI, or INTR with IF = 1, wakes it (R259, 46_processor_control.md R237). -/
def haltedStep (s : State) : State :=
  if s.ctl.nmiPending || (s.intrLevel && s.flags.ie) then boundary false s else s

/-- Run an instruction and what follows it. -/
def finishItem (i : Instr) (s : State) : Host.Outcome State Fault Refusal :=
  match exec i s with
  | .next t => .next (afterItem i t)
  | .fault r => .fault r
  | .refused r => .refused r

/-- Does a pass of a repeated string instruction begin here, CX being not 0 (43_string.md R162)? -/
def State.passBegins (s : State) (i : Instr) : Bool := isString i && s.ctl.latches.rep.isSome && s.get .cx != 0

/-- Run the item at CS:IP. At the top of each pass of a repeated string instruction NMI and INTR are tested (43_string.md R162,
R163). -/
def runItem (s : State) : Host.Outcome State Fault Refusal :=
  match decode s.code with
  | .error e => .refused (.undefinedEncoding e)
  | .ok (i, n) =>
    let s := s.enter n
    if s.ctl.latches.rep.isSome && !repeatable i then .refused .repeatBeforeNonString
    else if s.passBegins i then
      let (taken, s) := midItem s.repeatIp s.ctl.tfSampled s
      if taken then .next s else finishItem i s
    else finishItem i s

/-! ## The CPU's turn, 20_memory.md R42, R43 -/

/-- One step of the CPU: it waits for a locked transfer of the 8089; an unsynchronized integrated DMA channel goes first (R551), ahead of
a whole item with the interrupt sequence that ends it (`afterItem`; DESIGN CHOICE, log 34); otherwise its own item, or its halt. -/
def cpuStep (s : State) : Host.Outcome State Fault Refusal :=
  if s.iopHolds then .next s
  else
    match if s.ctl.latches.lock then none else s.dmaFirst with
    | some ch => .next (dmaTransfer ch s)
    | none => if s.ctl.phase = .halted then .next (haltedStep s) else runItem s

/-! ## Moves, 70_reset_and_hazards.md R307 -/

/-- RESET (R290, R291, R317, R451, R595): what `State.reset` says, but memory, the devices, the levels on the input pins and the turns of
other masters stay, and so do the 8087's data registers and exception pointers. A store of the 8087 that runs is abandoned
(47_npx_8087_state.md R317). -/
def resetMachine (s : State) : State :=
  let s := npxAbort s
  { State.reset with
    cfg := s.cfg
    pins := s.pins
    mem := s.mem
    io := s.io
    pcb := { Pcb.reset with
      dma0 := { DmaChan.reset with drq := s.pcb.dma0.drq }
      dma1 := { DmaChan.reset with drq := s.pcb.dma1.drq }
      tmr0 := { Timer.reset with pin := s.pcb.tmr0.pin }
      tmr1 := { Timer.reset with pin := s.pcb.tmr1.pin }
      ic := { Ic.reset with pin := s.pcb.ic.pin } }
    npx := { Npx.reset with r := s.npx.r, xip := s.npx.xip, xop := s.npx.xop, xopc := s.npx.xopc }
    iop := { Iop.reset with
      ch1 := { IopChan.reset with drq := s.iop.ch1.drq, ext := s.iop.ch1.ext }
      ch2 := { IopChan.reset with drq := s.iop.ch2.drq, ext := s.iop.ch2.ext }
      remoteIo := s.iop.remoteIo
      remoteIn := s.iop.remoteIn }
    fresh := s.fresh
    stop := s.stop
    moves := s.moves
    turns := s.turns }

/-- A memory after a part of the writes of a step: each byte that the step changed has been changed or not, which is free; `d` numbers
the draws. -/
def Memory.partly (d : Nat) (old new : Memory) : Memory :=
  ((old ++ new).zipIdx d).foldl (fun m c => if Config.freeBit c.2 then m.write c.1.1 (new.read c.1.1) else m) old

/-- What is left of a step from `s` to `t` that RESET cuts short (R290): a part of its memory writes, of its bus events the earlier
ones, and of the 8087's registers each as it was or as it became. DESIGN CHOICE which (log 66). -/
def abandon (s t : State) : State :=
  let d := t.fresh
  let dMem := d + 11
  let dRemote := dMem + s.mem.length + t.mem.length
  let n := s.npx
  let m := t.npx
  let events := t.io.trace.length - s.io.trace.length
  { t with
    mem := Memory.partly dMem s.mem t.mem
    io := { t.io with trace := t.io.trace.drop ((Config.freeWord d).toNat % (events + 1)) }
    npx := { m with
      r := Vector.ofFn fun k => if Config.freeBit (d + k) then m.r[k] else n.r[k]
      xip := if Config.freeBit (d + 8) then m.xip else n.xip
      xop := if Config.freeBit (d + 9) then m.xop else n.xop
      xopc := if Config.freeBit (d + 10) then m.xopc else n.xopc }
    iop := { t.iop with remoteIo := Memory.partly dRemote s.iop.remoteIo t.iop.remoteIo }
    fresh := dRemote + s.iop.remoteIo.length + t.iop.remoteIo.length }

/-- A move of an agent the machine has. -/
def agent (present : Bool) (s : State) : Host.Outcome State Fault Refusal :=
  if present then .next s else .fault .noSuchAgent

/-- A step of an agent. A bus master that may not have the bus now does nothing: the schedule asks again. -/
def agentStep (a : BusAgent) (s : State) : Host.Outcome State Fault Refusal :=
  match a with
  | .cpu => cpuStep s
  | .dma ch => agent s.is186 (if s.busFree then dmaStep ch s else s)
  | .iop ch => agent s.cfg.hasIop (if s.ctl.latches.lock then s else iopStep ch s)
  | .npx => agent s.cfg.hasNpx (npxProceed s.busFree s)

/-- RESET in the middle of a step of an agent. -/
def resetDuring (a : BusAgent) (s : State) : Host.Outcome State Fault Refusal :=
  match agentStep a s with
  | .next t => .next (resetMachine (abandon s t))
  | .fault r => .fault r
  | .refused r => .refused r

/-- What one move does (log 7). -/
def applyMove (m : Move) (s : State) : Host.Outcome State Fault Refusal :=
  match m with
  | .cpu => agentStep .cpu s
  | .reset => .next (resetMachine s)
  | .resetDuring a => resetDuring a s
  | .nmi => .next { s with ctl := { s.ctl with nmiPending := true } }
  | .intr level t => .next { s with pins := { s.pins with intr := level, intrType := t } }
  | .cascadeType line t =>
    .next { s with pins := if line then { s.pins with inta1Type := t } else { s.pins with inta0Type := t } }
  | .test level => .next { s with pins := { s.pins with test := level } }
  | .busAccess c => .next (if s.busFree then busAccess c s else s)
  | .busTurns turns => .next { s with turns := turns }
  | .portInput p v => .next { s with io := { s.io with inputs := present s.io.inputs p v } }
  | .remoteInput p v =>
    agent s.cfg.hasIop { s with iop := { s.iop with remoteIn := present s.iop.remoteIn (p % 2 ^ 16) v } }
  | .drq ch level => agent s.is186 (s.setDma ch { s.pcb.dma ch with drq := level })
  | .timerPin k level => agent s.is186 { s with pcb := s.pcb.timerPin k level }
  | .clock => agent s.is186 { s with pcb := s.pcb.clock }
  | .intPin k level => agent s.is186 (s.setIc (s.pcb.ic.setPin k.toNat level))
  | .dma ch => agentStep (.dma ch) s
  | .ca ch => agent s.cfg.hasIop (s.latchCa ch)
  | .iop ch => agentStep (.iop ch) s
  | .iopDrq ch level => agent s.cfg.hasIop (s.setChan ch { s.chan ch with drq := level })
  | .iopExt ch level => agent s.cfg.hasIop (s.setChan ch { s.chan ch with ext := level })
  | .npx => agentStep .npx s

end Sys2Proof.Machine
end

