-- ==== Sys2Proof/Machine/Step.lean ====
section
/-! DEFINITION. The step of the machine: the first move of the schedule, or, when there is none, a step of the CPU (log 7); and where an
instruction's bytes are placed so that the next step runs it. -/

namespace Sys2Proof.Machine

/-- A refusal raised inside a bus access is the answer of the step. -/
def settle (o : Host.Outcome State Fault Refusal) : Host.Outcome State Fault Refusal :=
  match o with
  | .next s =>
    match s.stop with
    | none => .next s
    | some r => .refused r
  | .fault r => .fault r
  | .refused r => .refused r

/-- One step of the machine. -/
def step (s : State) : Host.Outcome State Fault Refusal :=
  match s.moves with
  | [] => settle (cpuStep s)
  | m :: rest => settle (applyMove m { s with moves := rest })

/-- The bytes of an instruction stored at CS:IP, for the next step to fetch: no move stands before it, and the CPU stands at an
instruction's first byte. -/
def State.withFetchWord (s : State) (nbits w : Nat) : State :=
  let put (m : Memory) (p : Byte × Nat) : Memory := m.write (s.codeAddr p.2).toNat p.1
  { s with
    mem := (tableBytes nbits w).zipIdx.foldl put s.mem
    ctl := { s.ctl with phase := .fresh, latches := .none }
    moves := [] }

end Sys2Proof.Machine
end

