-- ==== Sys2Proof/WellFormed.lean ====
section
/-! DEFINITION. Well-formed instructions: the operands an encoding of 30_encoding.md admits (R54, R55, R63, R65). -/

namespace Sys2Proof

/-- An r/m operand with an encoding: mod 00 with r/m 110 is the direct address, so `ind .bp` has none (R55). -/
def Rm.wellFormed : Rm → Bool
  | .reg _ => true
  | .ind b => b != .bp
  | .disp8 _ _ => true
  | .disp16 _ _ => true
  | .direct _ => true

/-- A well-formed memory operand (mod not 11). -/
def Rm.wellFormedMem : Rm → Bool
  | .reg _ => false
  | .ind b => b != .bp
  | .disp8 _ _ => true
  | .disp16 _ _ => true
  | .direct _ => true

/-- Does the 8087 table (48_npx_8087_instructions.md R424) name an instruction with a memory operand for these opcode and reg bits? -/
def escNamedMem (lo reg : Nat) : Bool :=
  match lo with
  | 0 => [0, 1, 2, 3, 4, 5, 6, 7].contains reg
  | 1 => [0, 2, 3, 4, 5, 6, 7].contains reg
  | 2 => [0, 1, 2, 3, 4, 5, 6, 7].contains reg
  | 3 => [0, 2, 3, 5, 7].contains reg
  | 4 => [0, 1, 2, 3, 4, 5, 6, 7].contains reg
  | 5 => [0, 2, 3, 4, 6, 7].contains reg
  | 6 => [0, 1, 2, 3, 4, 5, 6, 7].contains reg
  | _ => [0, 2, 3, 4, 5, 6, 7].contains reg

/-- The same for the register forms (mod = 11), by opcode, reg and r/m bits. -/
def escNamedReg (lo reg i : Nat) : Bool :=
  match lo, reg with
  | 0, 0 => true
  | 0, 1 => true
  | 0, 2 => true
  | 0, 3 => true
  | 0, 4 => true
  | 0, 5 => true
  | 0, 6 => true
  | 0, 7 => true
  | 1, 0 => true
  | 1, 1 => true
  | 1, 2 => [0].contains i
  | 1, 4 => [0, 1, 4, 5].contains i
  | 1, 5 => [0, 1, 2, 3, 4, 5, 6].contains i
  | 1, 6 => [0, 1, 2, 3, 4, 6, 7].contains i
  | 1, 7 => [0, 1, 2, 4, 5].contains i
  | 3, 4 => [0, 1, 2, 3].contains i
  | 4, 0 => true
  | 4, 1 => true
  | 4, 4 => true
  | 4, 5 => true
  | 4, 6 => true
  | 4, 7 => true
  | 5, 0 => true
  | 5, 2 => true
  | 5, 3 => true
  | 6, 0 => true
  | 6, 1 => true
  | 6, 3 => [1].contains i
  | 6, 4 => true
  | 6, 5 => true
  | 6, 6 => true
  | 6, 7 => true
  | _, _ => false

/-- The register number of an r/m operand with mod = 11. -/
def Reg.number : Reg → Nat
  | .ax => 0
  | .cx => 1
  | .dx => 2
  | .bx => 3
  | .sp => 4
  | .bp => 5
  | .si => 6
  | .di => 7

/-- A plain ESC (R71) is one whose bits no 8087 row names. -/
def escPlain (x : BitVec 6) (rm : Rm) : Bool :=
  match rm with
  | .reg r => !escNamedReg (x.toNat / 8) (x.toNat % 8) r.number
  | _ => !escNamedMem (x.toNat / 8) (x.toNat % 8)

/-- The instruction has an encoding. -/
def Instr.wellFormed : Instr → Bool
  | .movRmReg _ _ rm _ => rm.wellFormed
  | .movRmImm rm _ => rm.wellFormed
  | .movRegImm _ _ => true
  | .movAccAddr _ _ => true
  | .movAddrAcc _ _ => true
  | .movSregRm sr rm => sr != .cs && rm.wellFormed
  | .movRmSreg rm _ => rm.wellFormed
  | .pushRm rm => rm.wellFormed
  | .pushReg _ => true
  | .pushSreg _ => true
  | .pushImm16 _ => true
  | .pushImm8 _ => true
  | .popRm rm => rm.wellFormed
  | .popReg _ => true
  | .popSreg _ => true
  | .pusha => true
  | .popa => true
  | .xchgRmReg _ rm _ => rm.wellFormed
  | .xchgAxReg _ => true
  | .xlat => true
  | .inAccPort _ _ => true
  | .inAccDx _ => true
  | .outPortAcc _ _ => true
  | .outDxAcc _ => true
  | .lea _ rm => rm.wellFormedMem
  | .lds _ rm => rm.wellFormedMem
  | .les _ rm => rm.wellFormedMem
  | .lahf => true
  | .sahf => true
  | .pushf => true
  | .popf => true
  | .addRmReg _ _ rm _ => rm.wellFormed
  | .addRmImm rm _ => rm.wellFormed
  | .addAccImm _ => true
  | .orRmReg _ _ rm _ => rm.wellFormed
  | .orRmImm rm _ => rm.wellFormed
  | .orAccImm _ => true
  | .adcRmReg _ _ rm _ => rm.wellFormed
  | .adcRmImm rm _ => rm.wellFormed
  | .adcAccImm _ => true
  | .sbbRmReg _ _ rm _ => rm.wellFormed
  | .sbbRmImm rm _ => rm.wellFormed
  | .sbbAccImm _ => true
  | .andRmReg _ _ rm _ => rm.wellFormed
  | .andRmImm rm _ => rm.wellFormed
  | .andAccImm _ => true
  | .subRmReg _ _ rm _ => rm.wellFormed
  | .subRmImm rm _ => rm.wellFormed
  | .subAccImm _ => true
  | .xorRmReg _ _ rm _ => rm.wellFormed
  | .xorRmImm rm _ => rm.wellFormed
  | .xorAccImm _ => true
  | .cmpRmReg _ _ rm _ => rm.wellFormed
  | .cmpRmImm rm _ => rm.wellFormed
  | .cmpAccImm _ => true
  | .incRm _ rm => rm.wellFormed
  | .incReg _ => true
  | .decRm _ rm => rm.wellFormed
  | .decReg _ => true
  | .aaa => true
  | .daa => true
  | .aas => true
  | .das => true
  | .negRm _ rm => rm.wellFormed
  | .mulRm _ rm => rm.wellFormed
  | .imulRm _ rm => rm.wellFormed
  | .divRm _ rm => rm.wellFormed
  | .idivRm _ rm => rm.wellFormed
  | .imulImm16 _ rm _ => rm.wellFormed
  | .imulImm8 _ rm _ => rm.wellFormed
  | .aam => true
  | .aad => true
  | .cbw => true
  | .cwd => true
  | .notRm _ rm => rm.wellFormed
  | .testRmReg _ rm _ => rm.wellFormed
  | .testRmImm rm _ => rm.wellFormed
  | .testAccImm _ => true
  | .rolRm _ _ rm => rm.wellFormed
  | .rolRmImm _ rm _ => rm.wellFormed
  | .rorRm _ _ rm => rm.wellFormed
  | .rorRmImm _ rm _ => rm.wellFormed
  | .rclRm _ _ rm => rm.wellFormed
  | .rclRmImm _ rm _ => rm.wellFormed
  | .rcrRm _ _ rm => rm.wellFormed
  | .rcrRmImm _ rm _ => rm.wellFormed
  | .shlRm _ _ rm => rm.wellFormed
  | .shlRmImm _ rm _ => rm.wellFormed
  | .shrRm _ _ rm => rm.wellFormed
  | .shrRmImm _ rm _ => rm.wellFormed
  | .sarRm _ _ rm => rm.wellFormed
  | .sarRmImm _ rm _ => rm.wellFormed
  | .repPrefix _ => true
  | .movs _ => true
  | .cmps _ => true
  | .scas _ => true
  | .lods _ => true
  | .stos _ => true
  | .ins _ => true
  | .outs _ => true
  | .callNear _ => true
  | .callNearRm rm => rm.wellFormed
  | .callFar _ _ => true
  | .callFarRm rm => rm.wellFormedMem
  | .retNear => true
  | .retNearImm _ => true
  | .retFar => true
  | .retFarImm _ => true
  | .jmpNear _ => true
  | .jmpShort _ => true
  | .jmpNearRm rm => rm.wellFormed
  | .jmpFar _ _ => true
  | .jmpFarRm rm => rm.wellFormedMem
  | .jo _ => true
  | .jno _ => true
  | .jb _ => true
  | .jae _ => true
  | .je _ => true
  | .jne _ => true
  | .jbe _ => true
  | .ja _ => true
  | .js _ => true
  | .jns _ => true
  | .jp _ => true
  | .jnp _ => true
  | .jl _ => true
  | .jge _ => true
  | .jle _ => true
  | .jg _ => true
  | .loop _ => true
  | .loope _ => true
  | .loopne _ => true
  | .jcxz _ => true
  | .intType _ => true
  | .int3 => true
  | .into => true
  | .iret => true
  | .enter _ _ => true
  | .leave => true
  | .bound _ rm => rm.wellFormedMem
  | .clc => true
  | .cmc => true
  | .stc => true
  | .cld => true
  | .std => true
  | .cli => true
  | .sti => true
  | .hlt => true
  | .wait => true
  | .esc x rm => rm.wellFormed && escPlain x rm
  | .lockPrefix => true
  | .nop => true
  | .segPrefix _ => true
  | .unused63 => true
  | .unused64 => true
  | .unused65 => true
  | .unused66 => true
  | .unused67 => true
  | .unusedF1 => true
  | .unusedFE7 rm => rm.wellFormed
  | .unusedFF7 rm => rm.wellFormed
  | .faddM32 rm => rm.wellFormedMem
  | .faddM64 rm => rm.wellFormedMem
  | .faddStSti _ => true
  | .fmulM32 rm => rm.wellFormedMem
  | .fmulM64 rm => rm.wellFormedMem
  | .fmulStSti _ => true
  | .fcomM32 rm => rm.wellFormedMem
  | .fcomM64 rm => rm.wellFormedMem
  | .fcomSti _ => true
  | .fcompM32 rm => rm.wellFormedMem
  | .fcompM64 rm => rm.wellFormedMem
  | .fcompSti _ => true
  | .fsubM32 rm => rm.wellFormedMem
  | .fsubM64 rm => rm.wellFormedMem
  | .fsubStSti _ => true
  | .fsubrM32 rm => rm.wellFormedMem
  | .fsubrM64 rm => rm.wellFormedMem
  | .fsubrStSti _ => true
  | .fdivM32 rm => rm.wellFormedMem
  | .fdivM64 rm => rm.wellFormedMem
  | .fdivStSti _ => true
  | .fdivrM32 rm => rm.wellFormedMem
  | .fdivrM64 rm => rm.wellFormedMem
  | .fdivrStSti _ => true
  | .fiaddI32 rm => rm.wellFormedMem
  | .fiaddI16 rm => rm.wellFormedMem
  | .fimulI32 rm => rm.wellFormedMem
  | .fimulI16 rm => rm.wellFormedMem
  | .ficomI32 rm => rm.wellFormedMem
  | .ficomI16 rm => rm.wellFormedMem
  | .ficompI32 rm => rm.wellFormedMem
  | .ficompI16 rm => rm.wellFormedMem
  | .fisubI32 rm => rm.wellFormedMem
  | .fisubI16 rm => rm.wellFormedMem
  | .fisubrI32 rm => rm.wellFormedMem
  | .fisubrI16 rm => rm.wellFormedMem
  | .fidivI32 rm => rm.wellFormedMem
  | .fidivI16 rm => rm.wellFormedMem
  | .fidivrI32 rm => rm.wellFormedMem
  | .fidivrI16 rm => rm.wellFormedMem
  | .faddStiSt _ => true
  | .fmulStiSt _ => true
  | .fsubrStiSt _ => true
  | .fsubStiSt _ => true
  | .fdivrStiSt _ => true
  | .fdivStiSt _ => true
  | .faddpStiSt _ => true
  | .fmulpStiSt _ => true
  | .fsubrpStiSt _ => true
  | .fsubpStiSt _ => true
  | .fdivrpStiSt _ => true
  | .fdivpStiSt _ => true
  | .fcompp => true
  | .fldM32 rm => rm.wellFormedMem
  | .fstM32 rm => rm.wellFormedMem
  | .fstpM32 rm => rm.wellFormedMem
  | .fldenv rm => rm.wellFormedMem
  | .fldcw rm => rm.wellFormedMem
  | .fstenv rm => rm.wellFormedMem
  | .fstcw rm => rm.wellFormedMem
  | .fildI32 rm => rm.wellFormedMem
  | .fistI32 rm => rm.wellFormedMem
  | .fistpI32 rm => rm.wellFormedMem
  | .fldM80 rm => rm.wellFormedMem
  | .fstpM80 rm => rm.wellFormedMem
  | .fldM64 rm => rm.wellFormedMem
  | .fstM64 rm => rm.wellFormedMem
  | .fstpM64 rm => rm.wellFormedMem
  | .frstor rm => rm.wellFormedMem
  | .fsave rm => rm.wellFormedMem
  | .fstsw rm => rm.wellFormedMem
  | .fildI16 rm => rm.wellFormedMem
  | .fistI16 rm => rm.wellFormedMem
  | .fistpI16 rm => rm.wellFormedMem
  | .fbld rm => rm.wellFormedMem
  | .fildI64 rm => rm.wellFormedMem
  | .fbstp rm => rm.wellFormedMem
  | .fistpI64 rm => rm.wellFormedMem
  | .fldSti _ => true
  | .fxchSti _ => true
  | .fnop => true
  | .fchs => true
  | .fabs => true
  | .ftst => true
  | .fxam => true
  | .fld1 => true
  | .fldl2t => true
  | .fldl2e => true
  | .fldpi => true
  | .fldlg2 => true
  | .fldln2 => true
  | .fldz => true
  | .f2xm1 => true
  | .fyl2x => true
  | .fptan => true
  | .fpatan => true
  | .fxtract => true
  | .fdecstp => true
  | .fincstp => true
  | .fprem => true
  | .fyl2xp1 => true
  | .fsqrt => true
  | .frndint => true
  | .fscale => true
  | .feni => true
  | .fdisi => true
  | .fclex => true
  | .finit => true
  | .ffreeSti _ => true
  | .fstSti _ => true
  | .fstpSti _ => true
  | .fwait => true

end Sys2Proof
end

