-- ==== Sys2Proof/Safety.lean ====
section
/-! DEFINITION. The vocabulary of the claims: what a step answers, what an instruction leaves alone, which state is ordinary memory,
the arithmetic the flags report, and the invariants every step keeps. -/

namespace Sys2Proof.Machine

/-! ## Outcomes -/

/-- The outcome is a next state with a property. -/
def Gives (o : Host.Outcome State Fault Refusal) (p : State → Prop) : Prop := ∃ t, o = .next t ∧ p t

/-- The step answers a next state. -/
def Runs (s : State) : Prop := ∃ t, step s = .next t

/-! ## Ordinary memory -/

/-- Every address of the memory space is RAM, and no access to it does anything else: no other region, no control block, no
attention address, no unfinished 8087 operation, no turn of another master between the CPU's bus cycles. -/
def State.PlainMemory (s : State) : Prop :=
  s.cfg.regions = [] ∧ (s.is186 = true → s.pcb.inMemory = false) ∧ (s.cfg.hasIop = true → s.cfg.iop.caMemory = false)
    ∧ s.npx.running = none ∧ s.turns = []

/-- Does a turn of another master that waits for the bus store to an address (70_reset_and_hazards.md R307)? -/
def State.othersStore (s : State) (a : Nat) : Prop := ∃ t ∈ s.turns, ∃ c ∈ t.accesses, ∃ b v, c = .write b v ∧ a = b % 2 ^ 20

/-- The addresses of an operand of a width at seg:off (20_memory.md R36 to R38). -/
def operandBytes (is186 : Bool) (w : Width) (seg off : Word) : List Nat :=
  match w with
  | .byte => [(phys seg off).toNat]
  | .word => [(phys seg off).toNat, (nextByte is186 seg off).toNat]

/-- The addresses of an r/m operand in memory. -/
def State.rmBytes (s : State) (w : Width) (rm : Rm) : List Nat := operandBytes s.is186 w (eaSeg s rm) (eaOff s rm)

/-- The addresses of the word at SS:sp. -/
def State.stackBytes (s : State) (sp : Word) : List Nat := operandBytes s.is186 .word s.segs.ss sp

/-- The `k` addresses from a physical address on, modulo 2^20. -/
def bytesFrom (k : Nat) (a : Phys) : List Nat := (List.range k).map fun j => (a.toNat + j) % 2 ^ 20

/-- The number that the bytes at some addresses make, the first least significant (20_memory.md R31). -/
def Memory.number (m : Memory) (addrs : List Nat) : Nat :=
  match addrs with
  | [] => 0
  | a :: rest => (m.read a).toNat + 256 * Memory.number m rest

/-- The value of an r/m operand: a register's, or the number its bytes in memory make. -/
def State.rmValue (s : State) (w : Width) (rm : Rm) : Nat :=
  match rm with
  | .reg r => (s.getReg w r).toNat
  | m => s.mem.number (s.rmBytes w m)

/-- The word at SS:SP. -/
def State.topWord (s : State) : Word := BitVec.ofNat 16 (s.mem.number (s.stackBytes (s.get .sp)))

/-- Ordinary memory in its canonical form. -/
def State.Ordinary (s : State) : Prop := s.PlainMemory ∧ s.mem.wf = true

/-- Memory reads as before outside some addresses and those that other masters store to meanwhile. -/
def MemoryKeptOutside (stored : List Nat) (s t : State) : Prop :=
  ∀ a, a ∉ stored → ¬s.othersStore a → t.mem.read a = s.mem.read a

/-- Every byte of memory reads as before but those that other masters store to meanwhile. -/
def MemoryKept (s t : State) : Prop := ∀ a, ¬s.othersStore a → t.mem.read a = s.mem.read a

/-- The state differs in memory alone, there the bytes at some addresses make a number, and every other byte reads as before. -/
def Stored (bytes : List Nat) (v : Nat) (s t : State) : Prop :=
  t = { s with mem := t.mem } ∧ t.mem.number bytes = v ∧ MemoryKeptOutside bytes s t

/-- The r/m operand alone is written, with a value. -/
def RmWritten (w : Width) (rm : Rm) (v : Nat) (s t : State) : Prop :=
  match rm with
  | .reg r => t = s.setReg w r (BitVec.ofNat w.bits v)
  | m => Stored (s.rmBytes w m) v s t

/-- A word was pushed: SP is lower by 2, the word at SS:SP is `v`, and nothing else changed (the draw count apart). -/
def Pushed (v : Word) (s t : State) : Prop :=
  t = { s with regs := s.regs.set .sp (s.get .sp - 2), mem := t.mem, fresh := t.fresh }
    ∧ t.mem.number (s.stackBytes (s.get .sp - 2)) = v.toNat ∧ MemoryKeptOutside (s.stackBytes (s.get .sp - 2)) s t

/-! ## Frames -/

/-- The registers of a channel that no access of another agent changes: all but the latched attention. -/
def IopChan.sameRegisters (c d : IopChan) : Prop := { d with ca := c.ca } = c

/-- Nothing of the other agents changes but what a bus access can raise: configuration, inputs, schedule, the 8087's registers (its
jobs may be marked as raced), the 8089 (an attention apart); of the turns of other masters the first ones are taken; and on ordinary
memory nothing. -/
def OthersKept (s t : State) : Prop :=
  t.cfg = s.cfg ∧ t.pins = s.pins ∧ t.moves = s.moves ∧ t.io.inputs = s.io.inputs
    ∧ { t.npx with running := s.npx.running, queued := s.npx.queued } = s.npx
    ∧ s.iop.ch1.sameRegisters t.iop.ch1 ∧ s.iop.ch2.sameRegisters t.iop.ch2
    ∧ { t.iop with ch1 := s.iop.ch1, ch2 := s.iop.ch2, initCa := s.iop.initCa } = s.iop
    ∧ t.turns <:+ s.turns
    ∧ (s.PlainMemory → t.pcb = s.pcb ∧ t.npx = s.npx ∧ t.iop = s.iop ∧ t.io = s.io ∧ t.stop = s.stop)

/-- Every register but the one named (a byte register: its other half too is kept). -/
def Regs.keptBut (w : Width) (r : Reg) (g h : Regs) : Prop :=
  match w with
  | .word => ∀ q, q ≠ r → h.get q = g.get q
  | .byte => (∀ q, q ≠ r.half → h.get8 q = g.get8 q) ∧ h.sp = g.sp ∧ h.bp = g.bp ∧ h.si = g.si ∧ h.di = g.di

/-- TF, IF and DF. -/
def Flags.controlKept (f g : Flags) : Prop := g.tf = f.tf ∧ g.ie = f.ie ∧ g.df = f.df

/-- Segment registers, IP, hidden control state. -/
def FlowKept (s t : State) : Prop := t.segs = s.segs ∧ t.ip = s.ip ∧ t.ctl = s.ctl

/-! ## Classes of instructions by what they write -/

/-- The instructions whose one destination is an r/m operand: its width and the operand. -/
def rmDestination (i : Instr) : Option (Width × Rm) :=
  match i with
  | .movRmReg .toRm w rm _ => some (w, rm)
  | .movRmImm rm imm => some (imm.width, rm)
  | .movRmSreg rm _ => some (.word, rm)
  | .addRmReg .toRm w rm _ => some (w, rm)
  | .addRmImm rm imm => some (ImmS.width imm, rm)
  | .orRmReg .toRm w rm _ => some (w, rm)
  | .orRmImm rm imm => some (imm.width, rm)
  | .adcRmReg .toRm w rm _ => some (w, rm)
  | .adcRmImm rm imm => some (ImmS.width imm, rm)
  | .sbbRmReg .toRm w rm _ => some (w, rm)
  | .sbbRmImm rm imm => some (ImmS.width imm, rm)
  | .andRmReg .toRm w rm _ => some (w, rm)
  | .andRmImm rm imm => some (imm.width, rm)
  | .subRmReg .toRm w rm _ => some (w, rm)
  | .subRmImm rm imm => some (ImmS.width imm, rm)
  | .xorRmReg .toRm w rm _ => some (w, rm)
  | .xorRmImm rm imm => some (imm.width, rm)
  | .incRm w rm => some (w, rm)
  | .incReg r => some (.word, .reg r)
  | .decRm w rm => some (w, rm)
  | .decReg r => some (.word, .reg r)
  | .negRm w rm => some (w, rm)
  | .notRm w rm => some (w, rm)
  | .rolRm _ w rm => some (w, rm)
  | .rolRmImm w rm _ => some (w, rm)
  | .rorRm _ w rm => some (w, rm)
  | .rorRmImm w rm _ => some (w, rm)
  | .rclRm _ w rm => some (w, rm)
  | .rclRmImm w rm _ => some (w, rm)
  | .rcrRm _ w rm => some (w, rm)
  | .rcrRmImm w rm _ => some (w, rm)
  | .shlRm _ w rm => some (w, rm)
  | .shlRmImm w rm _ => some (w, rm)
  | .shrRm _ w rm => some (w, rm)
  | .shrRmImm w rm _ => some (w, rm)
  | .sarRm _ w rm => some (w, rm)
  | .sarRmImm w rm _ => some (w, rm)
  | _ => none

/-- The instructions whose one destination is a general register: its width and the register. -/
def regDestination (i : Instr) : Option (Width × Reg) :=
  match i with
  | .movRmReg .toReg w _ r => some (w, r)
  | .movRegImm r imm => some (imm.width, r)
  | .movAccAddr w _ => some (w, .ax)
  | .addRmReg .toReg w _ r => some (w, r)
  | .addAccImm imm => some (imm.width, .ax)
  | .orRmReg .toReg w _ r => some (w, r)
  | .orAccImm imm => some (imm.width, .ax)
  | .adcRmReg .toReg w _ r => some (w, r)
  | .adcAccImm imm => some (imm.width, .ax)
  | .sbbRmReg .toReg w _ r => some (w, r)
  | .sbbAccImm imm => some (imm.width, .ax)
  | .andRmReg .toReg w _ r => some (w, r)
  | .andAccImm imm => some (imm.width, .ax)
  | .subRmReg .toReg w _ r => some (w, r)
  | .subAccImm imm => some (imm.width, .ax)
  | .xorRmReg .toReg w _ r => some (w, r)
  | .xorAccImm imm => some (imm.width, .ax)
  | .imulImm16 r _ _ => some (.word, r)
  | .imulImm8 r _ _ => some (.word, r)
  | .lea r _ => some (.word, r)
  | .xlat => some (.byte, .ax)
  | .cbw => some (.word, .ax)
  | .cwd => some (.word, .dx)
  | .daa => some (.byte, .ax)
  | .das => some (.byte, .ax)
  | .aaa => some (.word, .ax)
  | .aas => some (.word, .ax)
  | .aam => some (.word, .ax)
  | .aad => some (.word, .ax)
  | _ => none

/-- The instructions that write no register and no memory: the comparisons, and the flag operations. -/
def writesFlagsOnly (i : Instr) : Bool :=
  match i with
  | .cmpRmReg _ _ _ _ => true
  | .cmpRmImm _ _ => true
  | .cmpAccImm _ => true
  | .testRmReg _ _ _ => true
  | .testRmImm _ _ => true
  | .testAccImm _ => true
  | .sahf => true
  | .clc => true
  | .cmc => true
  | .stc => true
  | _ => false

/-- The instructions of these classes that change no flag at all. -/
def keepsFlags (i : Instr) : Bool :=
  match i with
  | .movRmReg _ _ _ _ => true
  | .movRmImm _ _ => true
  | .movRmSreg _ _ => true
  | .movRegImm _ _ => true
  | .movAccAddr _ _ => true
  | .lea _ _ => true
  | .xlat => true
  | .cbw => true
  | .cwd => true
  | .notRm _ _ => true
  | _ => false

/-- The instructions of these classes that keep CF: INC and DEC (41_arithmetic.md R114, R119). -/
def keepsCarry (i : Instr) : Bool :=
  match i with
  | .incRm _ _ => true
  | .incReg _ => true
  | .decRm _ _ => true
  | .decReg _ => true
  | _ => false

/-- The rotates: of the flags only CF and OF change (42_bit_manipulation.md R147). -/
def isRotate (i : Instr) : Bool :=
  match i with
  | .rolRm _ _ _ => true
  | .rolRmImm _ _ _ => true
  | .rorRm _ _ _ => true
  | .rorRmImm _ _ _ => true
  | .rclRm _ _ _ => true
  | .rclRmImm _ _ _ => true
  | .rcrRm _ _ _ => true
  | .rcrRmImm _ _ _ => true
  | _ => false

/-- What happens to the flags in these classes. -/
def FlagsKeptAsStated (i : Instr) (f g : Flags) : Prop :=
  f.controlKept g ∧ (keepsFlags i = true → g = f) ∧ (keepsCarry i = true → g.cf = f.cf)
    ∧ (isRotate i = true → g.sf = f.sf ∧ g.zf = f.zf ∧ g.pf = f.pf ∧ g.af = f.af)

/-! ## The 8087 instructions, 48_npx_8087_instructions.md R424 -/

/-- Part 1 of `npxMemoryForms`. -/
def npxMemoryFormsA : List ((Rm → Instr) × BitVec 6 × NpxOp) :=
  [(.faddM32, 0, .arithMem .add .real32),
   (.fmulM32, 1, .arithMem .mul .real32),
   (.fcomM32, 2, .compareMem .real32 false),
   (.fcompM32, 3, .compareMem .real32 true),
   (.fsubM32, 4, .arithMem .sub .real32),
   (.fsubrM32, 5, .arithMem .subr .real32),
   (.fdivM32, 6, .arithMem .div .real32),
   (.fdivrM32, 7, .arithMem .divr .real32),
   (.fldM32, 8, .load .real32),
   (.fstM32, 10, .store .real32 false),
   (.fstpM32, 11, .store .real32 true),
   (.fldenv, 12, .ldenv),
   (.fldcw, 13, .ldcw),
   (.fstenv, 14, .stenv),
   (.fstcw, 15, .stcw),
   (.fiaddI32, 16, .arithMem .add .int32),
   (.fimulI32, 17, .arithMem .mul .int32),
   (.ficomI32, 18, .compareMem .int32 false),
   (.ficompI32, 19, .compareMem .int32 true),
   (.fisubI32, 20, .arithMem .sub .int32),
   (.fisubrI32, 21, .arithMem .subr .int32),
   (.fidivI32, 22, .arithMem .div .int32),
   (.fidivrI32, 23, .arithMem .divr .int32),
   (.fildI32, 24, .load .int32)]
/-- Part 2 of `npxMemoryForms`. -/
def npxMemoryFormsB : List ((Rm → Instr) × BitVec 6 × NpxOp) :=
  [(.fistI32, 26, .store .int32 false),
   (.fistpI32, 27, .store .int32 true),
   (.fldM80, 29, .load .real80),
   (.fstpM80, 31, .store .real80 true),
   (.faddM64, 32, .arithMem .add .real64),
   (.fmulM64, 33, .arithMem .mul .real64),
   (.fcomM64, 34, .compareMem .real64 false),
   (.fcompM64, 35, .compareMem .real64 true),
   (.fsubM64, 36, .arithMem .sub .real64),
   (.fsubrM64, 37, .arithMem .subr .real64),
   (.fdivM64, 38, .arithMem .div .real64),
   (.fdivrM64, 39, .arithMem .divr .real64),
   (.fldM64, 40, .load .real64),
   (.fstM64, 42, .store .real64 false),
   (.fstpM64, 43, .store .real64 true),
   (.frstor, 44, .rstor),
   (.fsave, 46, .save),
   (.fstsw, 47, .stsw),
   (.fiaddI16, 48, .arithMem .add .int16),
   (.fimulI16, 49, .arithMem .mul .int16),
   (.ficomI16, 50, .compareMem .int16 false),
   (.ficompI16, 51, .compareMem .int16 true),
   (.fisubI16, 52, .arithMem .sub .int16),
   (.fisubrI16, 53, .arithMem .subr .int16)]
/-- Part 3 of `npxMemoryForms`. -/
def npxMemoryFormsC : List ((Rm → Instr) × BitVec 6 × NpxOp) :=
  [(.fidivI16, 54, .arithMem .div .int16),
   (.fidivrI16, 55, .arithMem .divr .int16),
   (.fildI16, 56, .load .int16),
   (.fistI16, 58, .store .int16 false),
   (.fistpI16, 59, .store .int16 true),
   (.fbld, 60, .load .bcd),
   (.fildI64, 61, .load .int64),
   (.fbstp, 62, .store .bcd true),
   (.fistpI64, 63, .store .int64 true)]
/-- The forms with a memory operand: the instruction, its ESC code, what it asks of the 8087. -/
def npxMemoryForms : List ((Rm → Instr) × BitVec 6 × NpxOp) := npxMemoryFormsA ++ npxMemoryFormsB ++ npxMemoryFormsC

/-- Part 1 of `npxStackForms`. -/
def npxStackFormsA : List ((BitVec 3 → Instr) × BitVec 6 × (BitVec 3 → NpxOp)) :=
  [(.faddStSti, 0, fun i => .arithSt .add i),
   (.fmulStSti, 1, fun i => .arithSt .mul i),
   (.fcomSti, 2, fun i => .compareSt i 0),
   (.fcompSti, 3, fun i => .compareSt i 1),
   (.fsubStSti, 4, fun i => .arithSt .sub i),
   (.fsubrStSti, 5, fun i => .arithSt .subr i),
   (.fdivStSti, 6, fun i => .arithSt .div i),
   (.fdivrStSti, 7, fun i => .arithSt .divr i),
   (.fldSti, 8, fun i => .loadSt i),
   (.fxchSti, 9, fun i => .exchange i),
   (.faddStiSt, 32, fun i => .arithSti .add i false),
   (.fmulStiSt, 33, fun i => .arithSti .mul i false),
   (.fsubrStiSt, 36, fun i => .arithSti .subr i false),
   (.fsubStiSt, 37, fun i => .arithSti .sub i false),
   (.fdivrStiSt, 38, fun i => .arithSti .divr i false),
   (.fdivStiSt, 39, fun i => .arithSti .div i false),
   (.ffreeSti, 40, fun i => .free i),
   (.fstSti, 42, fun i => .storeSt i false),
   (.fstpSti, 43, fun i => .storeSt i true),
   (.faddpStiSt, 48, fun i => .arithSti .add i true),
   (.fmulpStiSt, 49, fun i => .arithSti .mul i true),
   (.fsubrpStiSt, 52, fun i => .arithSti .subr i true),
   (.fsubpStiSt, 53, fun i => .arithSti .sub i true),
   (.fdivrpStiSt, 54, fun i => .arithSti .divr i true)]
/-- Part 2 of `npxStackForms`. -/
def npxStackFormsB : List ((BitVec 3 → Instr) × BitVec 6 × (BitVec 3 → NpxOp)) :=
  [(.fdivpStiSt, 55, fun i => .arithSti .div i true)]
/-- The forms with a stack register: the instruction, its ESC code, what it asks of the 8087. -/
def npxStackForms : List ((BitVec 3 → Instr) × BitVec 6 × (BitVec 3 → NpxOp)) := npxStackFormsA ++ npxStackFormsB

/-- Part 1 of `npxFixedForms`. -/
def npxFixedFormsA : List (Instr × BitVec 6 × BitVec 3 × NpxOp) :=
  [(.fnop, 10, 0, .nop),
   (.fchs, 12, 0, .chs),
   (.fabs, 12, 1, .abs),
   (.ftst, 12, 4, .test),
   (.fxam, 12, 5, .examine),
   (.fld1, 13, 0, .const .one),
   (.fldl2t, 13, 1, .const .l2t),
   (.fldl2e, 13, 2, .const .l2e),
   (.fldpi, 13, 3, .const .pi),
   (.fldlg2, 13, 4, .const .lg2),
   (.fldln2, 13, 5, .const .ln2),
   (.fldz, 13, 6, .const .zero),
   (.f2xm1, 14, 0, .f2xm1),
   (.fyl2x, 14, 1, .yl2x),
   (.fptan, 14, 2, .ptan),
   (.fpatan, 14, 3, .patan),
   (.fxtract, 14, 4, .xtract),
   (.fdecstp, 14, 6, .decstp),
   (.fincstp, 14, 7, .incstp),
   (.fprem, 15, 0, .prem),
   (.fyl2xp1, 15, 1, .yl2xp1),
   (.fsqrt, 15, 2, .sqrt),
   (.frndint, 15, 4, .rndint),
   (.fscale, 15, 5, .scale)]
/-- Part 2 of `npxFixedForms`. -/
def npxFixedFormsB : List (Instr × BitVec 6 × BitVec 3 × NpxOp) :=
  [(.feni, 28, 0, .eni),
   (.fdisi, 28, 1, .disi),
   (.fclex, 28, 2, .clex),
   (.finit, 28, 3, .init),
   (.fcompp, 51, 1, .compareSt 1 2)]
/-- The forms without operand: the instruction, its ESC code, its r/m bits, what it asks of the 8087. -/
def npxFixedForms : List (Instr × BitVec 6 × BitVec 3 × NpxOp) := npxFixedFormsA ++ npxFixedFormsB

/-! ## Arithmetic -/

/-- SF, ZF and PF report a result: its sign bit, whether it is 0, whether its low byte has an even number of 1 bits (10_state.md R20). -/
def ReportsResult {n : Nat} (g : Flags) (r : BitVec n) : Prop :=
  g.sf = r.msb ∧ (g.zf = true ↔ r.toNat = 0) ∧ (g.pf = true ↔ (List.range 8).countP (fun k => r.getLsbD k) % 2 = 0)

/-- The six status flags report the sum of `a`, `b` and a carry: CF and AF carries out of the operand and out of its low digit, OF
a sum out of signed range (10_state.md R20). -/
def ReportsSum {n : Nat} (g : Flags) (a b : BitVec n) (c : Bool) : Prop :=
  ReportsResult g (BitVec.ofNat n (a.toNat + b.toNat + c.toNat))
    ∧ (g.cf = true ↔ 2 ^ n ≤ a.toNat + b.toNat + c.toNat)
    ∧ (g.af = true ↔ 16 ≤ a.toNat % 16 + b.toNat % 16 + c.toNat)
    ∧ (g.of = true ↔ a.toInt + b.toInt + c.toNat < -2 ^ (n - 1) ∨ 2 ^ (n - 1) ≤ a.toInt + b.toInt + c.toNat)

/-- The same for the difference of `a`, `b` and a borrow. -/
def ReportsDifference {n : Nat} (g : Flags) (a b : BitVec n) (c : Bool) : Prop :=
  ReportsResult g (BitVec.ofInt n ((a.toNat : Int) - b.toNat - c.toNat))
    ∧ (g.cf = true ↔ a.toNat < b.toNat + c.toNat)
    ∧ (g.af = true ↔ a.toNat % 16 < b.toNat % 16 + c.toNat)
    ∧ (g.of = true ↔ a.toInt - b.toInt - c.toNat < -2 ^ (n - 1) ∨ 2 ^ (n - 1) ≤ a.toInt - b.toInt - c.toNat)

/-- The forms of 41_arithmetic.md R111: each answers the next state in which the destination is written (or, `store` false, is not)
and the flags are those that `spec` allows for the two operands, the old flags and the result; the draw count apart, nothing else
changes. `imm`: the immediates of the r/m form. -/
def TwoOperandForms {Imm' : Type} (width : Imm' → Width) (value : (i : Imm') → BitVec (width i).bits)
    (spec : {n : Nat} → BitVec n → BitVec n → Flags → BitVec n → Flags → Prop) (store : Bool)
    (rr : Dir → Width → Rm → Reg → Instr) (ri : Rm → Imm' → Instr) (ai : Imm → Instr) : Prop :=
  ∀ s : State,
    (∀ w rm r, ∃ v f k, spec (readRm w rm s).1 (s.getReg w r) s.flags v f ∧
      exec (rr .toRm w rm r) s =
        .next (let u := { (readRm w rm s).2 with flags := f, fresh := k }
          if store then writeRm w rm v u else u))
    ∧ (∀ w rm r, ∃ v f k, spec (s.getReg w r) (readRm w rm s).1 s.flags v f ∧
      exec (rr .toReg w rm r) s =
        .next (let u := { (readRm w rm s).2 with flags := f, fresh := k }
          if store then u.setReg w r v else u))
    ∧ (∀ rm i, ∃ v f k, spec (readRm (width i) rm s).1 (value i) s.flags v f ∧
      exec (ri rm i) s =
        .next (let u := { (readRm (width i) rm s).2 with flags := f, fresh := k }
          if store then writeRm (width i) rm v u else u))
    ∧ (∀ i : Imm, ∃ v f k, spec (s.acc i.width) (Imm.value i) s.flags v f ∧
      exec (ai i) s =
        .next (let u : State := { s with flags := f, fresh := k }
          if store then u.setAcc i.width v else u))

/-- The forms of one operand, read once and written once. -/
def OneOperandForms (spec : {n : Nat} → BitVec n → Flags → BitVec n → Flags → Prop) (form : Width → Rm → Instr) : Prop :=
  ∀ w rm (s : State), ∃ v f, spec (readRm w rm s).1 s.flags v f
    ∧ exec (form w rm) s = .next (writeRm w rm v ((readRm w rm s).2.setFlags f))

/-- The instructions the 8086 and 8088 do not have (93_implementation_defined.md U8). -/
def needs186 (i : Instr) : Bool :=
  match i with
  | .pushImm16 _ => true
  | .pushImm8 _ => true
  | .pusha => true
  | .popa => true
  | .imulImm16 _ _ _ => true
  | .imulImm8 _ _ _ => true
  | .rolRmImm _ _ _ => true
  | .rorRmImm _ _ _ => true
  | .rclRmImm _ _ _ => true
  | .rcrRmImm _ _ _ => true
  | .shlRmImm _ _ _ => true
  | .shrRmImm _ _ _ => true
  | .sarRmImm _ _ _ => true
  | .ins _ => true
  | .outs _ => true
  | .enter _ _ => true
  | .leave => true
  | .bound _ _ => true
  | _ => false

/-- The counts of the two forms of a shift or rotate after masking (42_bit_manipulation.md R146), with the destination operand. -/
def ShiftForms (spec : {n : Nat} → (count : Nat) → BitVec n → Flags → BitVec n → Flags → Prop)
    (form : ShiftCount → Width → Rm → Instr) (imm : Width → Rm → Byte → Instr) : Prop :=
  ∀ w rm (s : State),
    let answers (i : Instr) (count : Nat) : Prop := ∃ v f,
      spec count (readRm w rm s).1 s.flags v f
        ∧ exec i s = .next (writeRm w rm v { (readRm w rm s).2 with flags := f, fresh := (readRm w rm s).2.fresh + 1 })
    answers (form .one w rm) 1
      ∧ answers (form .cl w rm) (if s.is186 then (s.get8 .cl).toNat % 32 else (s.get8 .cl).toNat)
      ∧ ∀ c : Byte, s.is186 = true → answers (imm w rm c) (c.toNat % 32)

/-! ## Numbers of the 8087, 47_npx_8087_state.md -/

/-- The number that a finite temporary real stands for (R330). -/
def realQ (v : TempReal) : ℚ :=
  (if realNeg v then -1 else 1) * realSig v * 2 ^ (((max (realField v) 1 : Nat) : ℤ) - 16446)

/-- The number that a finite real of a memory format with `e` exponent and `f` fraction bits stands for (R329). -/
def memQ (e f u : Nat) : ℚ :=
  let field := u / 2 ^ f % 2 ^ e
  let sig := u % 2 ^ f + if field = 0 then 0 else 2 ^ f
  (if u / 2 ^ (e + f) % 2 = 1 then -1 else 1) * sig * 2 ^ (((max field 1 : Nat) : ℤ) - ((2 ^ (e - 1) - 1 + f : Nat) : ℤ))

/-- `r` is `q` rounded to a multiple of `u` (R332): by less than `u`; to the nearer one, on a tie the even one; down; up; toward 0. -/
def IsRounded (rc : Rounding) (u q r : ℚ) : Prop :=
  |r - q| < u ∧ ∃ k : ℤ, r = k * u ∧
    match rc with
    | .nearest => 2 * |r - q| ≤ u ∧ (2 * |r - q| = u → k % 2 = 0)
    | .down => r ≤ q
    | .up => q ≤ r
    | .chop => |r| ≤ |q|

/-- The unit of the last of `p` significant bits of a number that is not 0. -/
def lastPlace (p : Nat) (q : ℚ) : ℚ := 2 ^ (Int.log 2 |q| + 1 - p)

/-- The precision exception, if the delivered number is not the exact one. -/
def inexact (c : Bool) : BitVec 6 := if c then 0x20 else 0

/-- The answer `a` delivers the exact result `q`, not 0, with `p` bits (R335, R338 to R340): the rounded number; beyond the largest
number the masked response (infinity, or with a rounding directed away from it the largest number and P alone, R339), or the
exponent lowered by 24576 (G10); below the smallest normal the denormalized number, or the exponent raised by 24576. -/
def DeliversNumber (cw : Word) (p : Nat) (q : ℚ) (a : NpxAnswer) : Prop :=
  let rc := rounding cw
  let neg := decide (q < 0)
  a.before = 0 ∧ ∃ r, IsRounded rc (lastPlace p q) q r ∧
    if 2 ^ (16384 : ℤ) ≤ |r| then
      if cw.getLsbD 3 then
        a.value = (if rc = .down ∧ 0 < q ∨ rc = .up ∧ q < 0 then packReal neg 0x7FFE (2 ^ 64 - 1) else npxInf neg)
          ∧ a.after = (if rc = .down ∨ rc = .up then 0x20 else 0x28)
      else realClass a.value = .normal ∧ realQ a.value * 2 ^ (24576 : ℤ) = r ∧ a.after = 0x08 ||| inexact (r ≠ q)
    else if |q| < 2 ^ (-16382 : ℤ) then
      if cw.getLsbD 4 then
        realNeg a.value = neg ∧ realField a.value ≤ 1 ∧ IsRounded rc (2 ^ (-16445 : ℤ)) q (realQ a.value)
          ∧ a.after = 0x10 ||| inexact (r ≠ q ∨ realQ a.value ≠ q)
      else realClass a.value = .normal ∧ realQ a.value = r * 2 ^ (24576 : ℤ) ∧ a.after = 0x10 ||| inexact (r ≠ q)
    else realClass a.value = .normal ∧ realQ a.value = r ∧ a.after = inexact (r ≠ q)

/-! ## What an 8087 operation leaves -/

/-- The 8087 is there and gets every ESC, over ordinary memory, and runs no operation: an unmasked exception may keep it BUSY. -/
def State.NpxStopped (s : State) : Prop :=
  s.PlainMemory ∧ s.cfg.hasNpx = true ∧ (s.is186 = true → s.pcb.reloc.getLsbD 15 = false)

/-- The 8087 is there, idle, and runs its operations at their ESC, over ordinary memory. -/
def State.NpxReady (s : State) : Prop := s.NpxStopped ∧ s.cfg.npxOverlap = false ∧ s.npx.busy = false

/-- Only the 8087 differs (the draw count apart). -/
def NpxOnly (s t : State) : Prop := t = { s with npx := t.npx, fresh := t.fresh }

/-- The memory operand's bytes as an operation that loads `k` of them gets them, as a number: the first word is that of the CPU's dummy
read, which wraps as a word access does; the rest follow in ascending order (R311, R312). -/
def State.npxOperand (s : State) (k : Nat) (rm : Rm) : Nat :=
  if k = 0 then 0
  else s.mem.number (s.rmBytes .word rm ++ bytesFrom (k - 2) (phys (eaSeg s rm) (eaOff s rm) + 2))

/-- The reply to exceptions (R318, R319, R337): their flags are added to SW; one that is unmasked sets IR and keeps BUSY, else BUSY ends. -/
def NpxReplies (n m : Npx) (e : BitVec 6) : Prop :=
  let trap : Prop := ∃ k < 6, e.getLsbD k = true ∧ n.cw.getLsbD k = false
  m.cw = n.cw ∧ (m.sw.setWidth 6 : BitVec 6) = n.sw.setWidth 6 ||| e ∧ (m.sw.getLsbD 15 = true ↔ trap)
    ∧ (m.sw.getLsbD 7 = true ↔ n.sw.getLsbD 7 = true ∨ trap)

/-- Registers, top and tags are as they were. -/
def NpxStackKept (n m : Npx) : Prop := m.r = n.r ∧ m.top = n.top ∧ m.tw = n.tw

/-- The operation answers `a` to ST(i), and pops if `pop`: an unmasked exception found before it leaves the stack as it was (R319). -/
def NpxDelivers (n m : Npx) (i : BitVec 3) (pop : Bool) (a : NpxAnswer) : Prop :=
  let k := n.phys i
  if unmasked n.cw a.before ≠ 0 then NpxReplies n m a.before ∧ NpxStackKept n m
  else NpxReplies n m (a.before ||| a.after) ∧ m.top = n.top + (if pop then 1 else 0) ∧ m.reg k = a.value
    ∧ m.tag k = (if pop ∧ i = 0 then 3 else tagOf a.value) ∧ (pop = true → m.tag n.top = 3)
    ∧ ∀ j, j ≠ k → m.reg j = n.reg j ∧ (pop = true ∧ j = n.top ∨ m.tag j = n.tag j)

/-- A number was pushed: onto a register that is not empty, masked, the indefinite (R320, D33); `e`: exceptions of the operand. -/
def NpxPushes (n m : Npx) (e : BitVec 6) (v : TempReal) : Prop :=
  let all := if n.isEmpty 7 then e else e ||| 1
  if unmasked n.cw all ≠ 0 then NpxStackKept n m ∧ ∃ e', NpxReplies n m e' ∧ e' ≠ 0 ∧ unmasked n.cw e' ≠ 0 ∧ e' &&& ~~~all = 0
  else NpxReplies n m all ∧ m.top = n.top - 1 ∧ m.st 0 = (if n.isEmpty 7 then v else npxIndef) ∧ m.tag m.top = tagOf (m.st 0)
    ∧ ∀ j, j ≠ m.top → m.reg j = n.reg j ∧ m.tag j = n.tag j

/-- ST(0) was replaced by `x`, then `y` was pushed (FPTAN, FXTRACT: R383, R394); `before`: exceptions of the operand, `after`: of the
result. The push onto a full stack is invalid, masked it pushes the indefinite (R320, D33); an unmasked exception found before leaves
the stack as it was (R319). -/
def NpxReplacesAndPushes (n m : Npx) (before after : BitVec 6) (x y : TempReal) : Prop :=
  let all := if n.isEmpty 7 then before else before ||| 1
  if unmasked n.cw all ≠ 0 then NpxReplies n m all ∧ NpxStackKept n m
  else NpxReplies n m (all ||| after) ∧ m.top = n.top - 1 ∧ m.st 1 = x ∧ m.tag n.top = tagOf x
    ∧ m.st 0 = (if n.isEmpty 7 then y else npxIndef) ∧ m.tag m.top = tagOf (m.st 0)
    ∧ ∀ j, j ≠ m.top → j ≠ n.top → m.reg j = n.reg j ∧ m.tag j = n.tag j

/-- The condition code C3, C2, C0 (R321). -/
def Npx.order (n : Npx) : Bool × Bool × Bool := (n.sw.getLsbD 14, n.sw.getLsbD 10, n.sw.getLsbD 8)

/-! ## What the 8089 leaves -/

/-- An address in the 8089's system space, modulo 2^20, or (`io`) in its I/O space, modulo 2^16 (49_iop_8089.md R459, D38). -/
def inSpace (io : Bool) (a : Nat) : Nat := a % if io then 2 ^ 16 else 2 ^ 20

/-- `k` addresses of a space, one after the other. -/
def spaceBytes (io : Bool) (k a : Nat) : List Nat := (List.range k).map fun j => inSpace io (a + j)

/-- The byte the 8089 reads at an address of a space, and the events of the read (R464): memory's byte; in the I/O space what a device
presents, at a port of the CPU's (local) or at an address of the 8089's own bus (remote). `none`: nothing fixes the byte. -/
def State.iopSees (s : State) (io : Bool) (a : Nat) : Option (Byte × List BusEvent) :=
  if !io then some (s.mem.read a, [])
  else if !s.cfg.iop.remote then (presented s.io.inputs a).map fun v => (v, [.portRead a v])
  else match regionAt s.cfg.iop.regions a with
    | some .absent => none
    | some .device => (presented s.iop.remoteIn a).map fun v => (v, [.remoteRead a v])
    | _ => some (s.iop.remoteIo.read a, [])

/-- The bytes the 8089 reads at some addresses of a space, one after the other, and the events, the latest first. -/
def State.iopSeesAll (s : State) (io : Bool) : List Nat → Option (List Byte × List BusEvent)
  | [] => some ([], [])
  | a :: rest => do
    let (b, e) ← s.iopSees io a
    let (bs, es) ← s.iopSeesAll io rest
    return (b :: bs, es ++ e)

/-- The number that bytes make, the first least significant. -/
def bytesNumber : List Byte → Nat
  | [] => 0
  | b :: rest => b.toNat + 256 * bytesNumber rest

/-- The `k` bytes of a number, the least significant first. -/
def numberBytes (k v : Nat) : List Byte := (List.range k).map fun j => BitVec.ofNat 8 (v / 256 ^ j)

/-- What memory reads once some bytes were stored in turn. -/
def Memory.overlaid (m : Memory) (stored : List (Nat × Byte)) (a : Nat) : Byte :=
  ((stored.reverse.find? fun p => p.1 == a).map (·.2)).getD (m.read a)

/-- The event of a byte stored by the 8089 in its I/O space (R464): a port write (local), a device write (remote), none in memory there. -/
def State.iopStoreEvent (s : State) (p : Nat × Byte) : Option BusEvent :=
  if !s.cfg.iop.remote then some (.portWrite p.1 p.2)
  else if regionAt s.cfg.iop.regions p.1 = some .device then some (.remoteWrite p.1 p.2)
  else none

/-- A step of a channel that reads with events `es`, the latest first, then stores bytes at addresses of a space: every byte of memory and
of the 8089's private memory, the platform's events and the other channel are accounted for, and nothing else changes but the
channel and the draw count. -/
def IopDoes (ch : Bool) (es : List BusEvent) (io : Bool) (stored : List (Nat × Byte)) (s t : State) : Prop :=
  t = { s with
      iop := { s.iop.setChan ch (t.chan ch) with remoteIo := t.iop.remoteIo }
      mem := t.mem
      io := { s.io with trace := t.io.trace }
      fresh := t.fresh }
    ∧ t.io.trace = (if io then stored.reverse.filterMap s.iopStoreEvent else []) ++ es ++ s.io.trace
    ∧ (∀ a, t.mem.read a = if io then s.mem.read a else s.mem.overlaid stored a)
    ∧ ∀ a, t.iop.remoteIo.read a =
        if io && s.cfg.iop.remote && (regionAt s.cfg.iop.regions a).isNone then s.iop.remoteIo.overlaid stored a else s.iop.remoteIo.read a

/-- The space and the address of a memory operand (49_iop_8089.md R466). -/
def IopMem.place (c : IopChan) (m : IopMem) : Bool × Nat :=
  let p := c.base m.base
  let d : Nat :=
    match m.mode with
    | .based => 0
    | .offset d => d.toNat
    | .indexed => c.ix.toNat
    | .autoInc => c.ix.toNat
  (p.tag, inSpace p.tag (p.addr.toNat + d))

/-- The channel once a memory operand is located: IX is past it by `n` in the auto-increment mode (R466). -/
def IopMem.stepped (c : IopChan) (m : IopMem) (n : Nat) : IopChan :=
  if m.mode = .autoInc then { c with ix := BitVec.ofNat 16 (c.ix.toNat + n) } else c

/-- One register is written: all 20 bits and the tag of a pointer register, the low 16 bits of another (R458, R467). -/
def IopChan.Writes (c d : IopChan) (r : IopReg) (v : Int) (tag : Bool) : Prop :=
  d.get r = (if r.isPointer then BitVec.ofInt 20 v else BitVec.ofNat 20 (v % 2 ^ 16).toNat) ∧ (r.isPointer = true → d.tag r = tag)
    ∧ (∀ q, q ≠ r → d.get q = c.get q ∧ d.tag q = c.tag q)
    ∧ d = { c with ga := d.ga, gb := d.gb, gc := d.gc, tp := d.tp, ix := d.ix, bc := d.bc, mc := d.mc, cc := d.cc }

/-- A number as a signed one of a width (R477). -/
def signedOf (w : Width) (v : Nat) : Int := (BitVec.ofNat w.bits v).toInt

/-- The doubleword pointer at an address of memory, converted (R454). -/
def State.pointerAt (s : State) (a : Phys) : Phys :=
  BitVec.ofNat 20 (16 * s.mem.number (bytesFrom 2 (a + 2)) + s.mem.number (bytesFrom 2 a))

/-! ## Encodings of the shared forms -/

/-- Opcode byte and data bytes of an immediate of the `100000sw` form (41_arithmetic.md R111). -/
def ImmS.data : ImmS → Byte × List Byte
  | .byte b => (0x80, [b])
  | .word v => (0x81, [v.lo, v.hi])
  | .byteAlias b => (0x82, [b])
  | .sext b => (0x83, [b])

/-- The same for the `1000000w` form of AND, OR and XOR (42_bit_manipulation.md R140). -/
def Imm.data : Imm → Byte × List Byte
  | .byte b => (0x80, [b])
  | .word v => (0x81, [v.lo, v.hi])

/-- The encodings of the three forms of 41_arithmetic.md R111 with the operation number `ooo`. -/
def TwoOperandEncodings {Imm' : Type} (ooo : BitVec 3) (data : Imm' → Byte × List Byte)
    (rr : Dir → Width → Rm → Reg → Instr) (ri : Rm → Imm' → Instr) (ai : Imm → Instr) : Prop :=
  (∀ d w rm r, encode (rr d w rm r) =
      ((0 : BitVec 2) ++ ooo ++ (0 : BitVec 1) ++ d.bit ++ w.bit) :: encodeModRm r.bits rm)
    ∧ (∀ rm i, encode (ri rm i) = (data i).1 :: (encodeModRm ooo rm ++ (data i).2))
    ∧ ∀ i : Imm, encode (ai i) = ((0 : BitVec 2) ++ ooo ++ (2 : BitVec 2) ++ i.width.bit) :: (Imm.data i).2

/-- The encodings of a shift or rotate with the operation number `ooo` (42_bit_manipulation.md R146). -/
def ShiftEncodings (ooo : BitVec 3) (form : ShiftCount → Width → Rm → Instr) (imm : Width → Rm → Byte → Instr) : Prop :=
  (∀ v w rm, encode (form v w rm) = ((0x34 : BitVec 6) ++ v.bit ++ w.bit) :: encodeModRm ooo rm)
    ∧ ∀ w rm count, encode (imm w rm count) = ((0x60 : BitVec 7) ++ w.bit) :: (encodeModRm ooo rm ++ [count])

/-- The encoding of an instruction with a w bit, an r/m operand and an opcode extension. -/
def UnaryEncoding (op : BitVec 7) (ooo : BitVec 3) (form : Width → Rm → Instr) : Prop :=
  ∀ w rm, encode (form w rm) = (op ++ w.bit) :: encodeModRm ooo rm

/-! ## Invariants -/

/-- Memory, and the 8089's private I/O space, are in canonical form (20_memory.md R30; log 3). -/
def State.MemoryCanonical (s : State) : Prop :=
  s.mem.wf = true ∧ s.iop.remoteIo.wf = true ∧ ∀ c ∈ s.mem, c.1 < 2 ^ 20

/-- The bits of the control block that the spec fixes read as it fixes them: the chip-select registers (61_186_peripherals.md R535 to
R538), bit 2 of a DMA control word (R546), bit 14 of a timer mode word and the four bits timer 2 does not have (R563), and the
register bits the interrupt controller does not have (R577). -/
def Pcb.HardWired (p : Pcb) : Prop :=
  p.cs.umcs &&& 0xC038 = 0xC038 ∧ p.cs.lmcs &&& 0xC038 = 0x0038 ∧ p.cs.mmcs &&& 0x01F8 = 0x01F8
    ∧ p.cs.pacs &&& 0x0038 = 0x0038 ∧ p.cs.mpcs &&& 0x8038 = 0x8038
    ∧ p.dma0.ctl &&& 0x0004 = 0 ∧ p.dma1.ctl &&& 0x0004 = 0
    ∧ p.tmr0.mode &&& 0x4FC0 = 0 ∧ p.tmr1.mode &&& 0x4FC0 = 0 ∧ p.tmr2.mode &&& 0x5FDE = 0
    ∧ p.ic.timer &&& 0xFFF0 = 0 ∧ p.ic.dma0 &&& 0xFFF0 = 0 ∧ p.ic.dma1 &&& 0xFFF0 = 0
    ∧ p.ic.int0 &&& 0xFF80 = 0 ∧ p.ic.int1 &&& 0xFF80 = 0 ∧ p.ic.int2 &&& 0xFFE0 = 0 ∧ p.ic.int3 &&& 0xFFE0 = 0

/-- The 8087 is BUSY whenever it requests an interrupt (47_npx_8087_state.md R318, D27); while an operation runs BUSY is set and no
request stands; behind it only FSTENV and FSAVE wait (R315). -/
def Npx.BusyWithRequest (n : Npx) : Prop :=
  (n.sw.getLsbD 7 = true → n.sw.getLsbD 15 = true)
    ∧ (n.running ≠ none → n.sw.getLsbD 7 = false ∧ n.sw.getLsbD 15 = true)
    ∧ ∀ q, n.queued = some q → q.op = .stenv ∨ q.op = .save

/-- Between instructions no prefix is latched (30_encoding.md R56, 60_exceptions.md R259). -/
def State.NoStalePrefix (s : State) : Prop :=
  s.ctl.phase = .fresh ∨ s.ctl.phase = .halted → s.ctl.latches = .none

end Sys2Proof.Machine
end

