-- ==== Sys2Proof/Certificates/Slice0/Obligations.lean ====
section
/-! DEFINITION. The statements for the provers. Each says which rule of spec/ it formalises, or which choice of the model (notes/assumptions). -/

open Sys2Proof Sys2Proof.Machine

/-! ## Encoding -/

/-- Every well-formed instruction, every operand at every value: its encoding, whatever follows it, decodes to it (by its canonical name,
log 61) and to its length (30_encoding.md R50 to R73; the encodings the source does not print are general knowledge, logs 23, 39). -/
def Obligations.DecodeInvertsEncode : Prop :=
  ∀ i : Instr, i.wellFormed = true → ∀ rest : List Byte, decode (encode i ++ rest) = .ok (canonical i, (encode i).length)

/-- The other direction: what decodes is a well-formed instruction of 1 to 6 bytes whose encoding is the bytes read, so that no two
instructions share an encoding and no byte read is dropped (30_encoding.md R50 to R73; the encodings the source does not print are
general knowledge, logs 23, 39). -/
def Obligations.EncodeInvertsDecode : Prop :=
  ∀ (bytes : List Byte) (i : Instr) (n : Nat), decode bytes = .ok (i, n) →
    i.wellFormed = true ∧ canonical i = i ∧ encode i = bytes.take n ∧ 1 ≤ n ∧ n ≤ 6 ∧ n ≤ bytes.length

/-- Words written out from the encodings of spec/, one of each family; the two of the 8087 (D8 C1 and DB 2E) are the spec's own general
knowledge (D30, G11; PRESUMED, log 39), not its source. -/
def Obligations.DecodedWords : Prop :=
  ∀ p ∈ [([0x8B, 0x46, 0xFE], Instr.movRmReg .toReg .word (.disp8 .bp 0xFE) .ax, 3),
      ([0x2B, 0xD2], .subRmReg .toReg .word (.reg .dx) .dx, 2),
      ([0x80, 0x64, 0x05, 0x0F], .andRmImm (.disp8 .si 0x05) (.byte 0x0F), 4),
      ([0xD3, 0xE3], .shlRm .cl .word (.reg .bx), 2),
      ([0xF3], .repPrefix true, 1),
      ([0xA5], .movs .word, 1),
      ([0x75, 0xFB], .jne 0xFB, 2),
      ([0x9A, 0x34, 0x12, 0x78, 0x56], .callFar 0x1234 0x5678, 5),
      ([0xC8, 0x10, 0x00, 0x01], .enter 0x0010 1, 4),
      ([0xFB], .sti, 1),
      ([0xD8, 0xC1], .faddStSti 1, 2),
      ([0xDB, 0x2E, 0x00, 0x10], .fldM80 (.direct 0x1000), 4)],
    decode (p.1 : List Byte) = .ok (p.2.1, p.2.2)

/-! ## Fetch and step -/

/-- The next item is decoded from the six bytes of memory at CS:IP, the offset wrapping at 64K (20_memory.md R33; 30_encoding.md R67;
D3, D9: log 12); in the middle of a repeated string instruction or a WAIT from the opcode byte already read (R44, D6; log 17). When
the schedule has no move, no other master holds the bus and the CPU is not halted, and the bytes decode to an instruction, the step
is `exec` of it at the state with IP past it, and what follows an item (70_reset_and_hazards.md R307). Before each pass of a repeated
string instruction NMI and INTR are tested (43_string.md R162, R163). After a repeat prefix the instruction must be one that may
follow it. -/
def Obligations.StepRunsDecoded : Prop :=
  (∀ s : State, (s.PlainMemory →
      s.fetch = (List.range 6).map fun k => s.mem.read ((16 * s.segs.cs.toNat + (s.ip.toNat + k) % 2 ^ 16) % 2 ^ 20))
    ∧ s.code = if s.ctl.phase = .repeating ∨ s.ctl.phase = .waiting then [s.ctl.opByte] else s.fetch)
  ∧ ∀ (s : State) (i : Instr) (n : Nat),
    s.moves = [] → s.iopHolds = false → (s.ctl.latches.lock = true ∨ s.dmaFirst = none) → s.ctl.phase ≠ .halted →
    decode s.code = .ok (i, n) → ((s.enter n).ctl.latches.rep = none ∨ repeatable i = true) →
      let u := s.enter n
      let run (v : State) : Host.Outcome State Fault Refusal :=
        match exec i v with
        | .next t => .next (afterItem i t)
        | .fault r => .fault r
        | .refused r => .refused r
      let pass : Prop := isString i = true ∧ u.ctl.latches.rep ≠ none ∧ s.get .cx ≠ 0
      let test := midItem u.repeatIp u.ctl.tfSampled u
      u.ip = s.ip + BitVec.ofNat 16 n ∧ u.ctl.opIp = s.ip ∧ u.ctl.opByte = s.code.headD 0
        ∧ u = { s with ip := u.ip, ctl := u.ctl, fresh := u.fresh }
        ∧ (s.ctl.phase = .fresh → u.ctl.firstIp = s.ip ∧ u.ctl.tfSampled = s.flags.tf ∧ u.ctl.latches = .none)
        ∧ (s.ctl.phase ≠ .fresh → u.ctl.firstIp = s.ctl.firstIp ∧ u.ctl.tfSampled = s.ctl.tfSampled ∧ u.ctl.latches = s.ctl.latches)
        ∧ (¬pass → step s = settle (run u)) ∧ (pass → step s = settle (if test.1 then .next test.2 else run test.2))

/-! ## Registers, addresses, operands -/

/-- A register, and a half register, is read back as written and the others stay (of the other halves all seven), and a register is its
two halves, the high one first (10_state.md R14). -/
def Obligations.HalfRegisters : Prop :=
  ∀ (g : Regs) (r : Reg8) (v : Byte),
    (∀ (p : Reg) (x : Word), (g.set p x).get p = x ∧ ∀ q, q ≠ p → (g.set p x).get q = g.get q)
      ∧ (g.set8 r v).get8 r = v ∧ (∀ q, q ≠ r → (g.set8 r v).get8 q = g.get8 q)
      ∧ (g.set8 r v).sp = g.sp ∧ (g.set8 r v).bp = g.bp ∧ (g.set8 r v).si = g.si ∧ (g.set8 r v).di = g.di
      ∧ g.ax.toNat = 256 * (g.get8 .ah).toNat + (g.get8 .al).toNat ∧ g.bx.toNat = 256 * (g.get8 .bh).toNat + (g.get8 .bl).toNat
      ∧ g.cx.toNat = 256 * (g.get8 .ch).toNat + (g.get8 .cl).toNat ∧ g.dx.toNat = 256 * (g.get8 .dh).toNat + (g.get8 .dl).toNat

/-- The physical address of seg:off is 16 * seg + off modulo 2^20 (20_memory.md R33; D3), and the byte after offset FFFFH is at offset 0
on the 8086,88, at offset 10000H on the 80186,188 (R38; D4): log 12. The effective address of every r/m row: base and index registers and
the displacement, sign-extended if it is one byte, added modulo 2^16; the segment is SS when BP is the base, else DS, unless an override
is latched (30_encoding.md R55, R61; 20_memory.md R35). -/
def Obligations.EffectiveAddresses : Prop :=
  (∀ seg off : Word, (phys seg off).toNat = (16 * seg.toNat + off.toNat) % 2 ^ 20
    ∧ ∀ b : Bool, (nextByte b seg off).toNat =
        (16 * seg.toNat + (if b then off.toNat + 1 else (off.toNat + 1) % 2 ^ 16)) % 2 ^ 20)
  ∧ ∀ s : State,
    (∀ p ∈ [(Base.bxsi, s.regs.bx.toNat + s.regs.si.toNat, SReg.ds), (.bxdi, s.regs.bx.toNat + s.regs.di.toNat, .ds),
        (.bpsi, s.regs.bp.toNat + s.regs.si.toNat, .ss), (.bpdi, s.regs.bp.toNat + s.regs.di.toNat, .ss),
        (.si, s.regs.si.toNat, .ds), (.di, s.regs.di.toNat, .ds), (.bp, s.regs.bp.toNat, .ss), (.bx, s.regs.bx.toNat, .ds)],
      (eaOff s (.ind p.1)).toNat = p.2.1 % 2 ^ 16
        ∧ (∀ d, ((eaOff s (.disp8 p.1 d)).toNat : Int) = ((p.2.1 : Int) + d.toInt) % 2 ^ 16)
        ∧ (∀ d, (eaOff s (.disp16 p.1 d)).toNat = (p.2.1 + d.toNat) % 2 ^ 16)
        ∧ ∀ (d : Byte) (e : Word), ∀ rm ∈ [Rm.ind p.1, .disp8 p.1 d, .disp16 p.1 e],
            eaSeg s rm = s.segs.get (match s.ctl.latches.seg with
              | some o => o
              | none => p.2.2))
      ∧ ∀ a, eaOff s (.direct a) = a ∧ eaSeg s (.direct a) = s.segs.get (match s.ctl.latches.seg with
          | some o => o
          | none => .ds)

/-- On ordinary memory reading an operand gives its bytes, the low-order byte first, and changes nothing; writing it writes its bytes and
changes nothing else (20_memory.md R31, R36, R37; 30_encoding.md R61). -/
def Obligations.OperandsInMemory : Prop :=
  ∀ (s : State) (w : Width) (rm : Rm), s.Ordinary →
    (readRm w rm s).1.toNat = s.rmValue w rm ∧ (readRm w rm s).2 = s
      ∧ ∀ v : BitVec w.bits, RmWritten w rm v.toNat s (writeRm w rm v s)

/-! ## Frames -/

/-- The instructions whose one destination is an r/m operand answer a next state, on every state; they leave every other register,
every byte of memory outside the operand (but those that a waiting turn of another master stores to, 70_reset_and_hazards.md R307,
log 7), segment registers, IP, the hidden control state, TF, IF, DF (and, for those that say so, the status flags) and everything of the
other agents as it was. The same for the instructions whose one destination is a general
register: they leave all of memory; and for the comparisons and the status flag operations: they change status flags alone. -/
def Obligations.FrameOfDestinations : Prop :=
  (∀ (i : Instr) (w : Width) (rm : Rm) (s : State), rmDestination i = some (w, rm) → (needs186 i = true → s.is186 = true) →
    Gives (exec i s) fun t =>
      OthersKept s t ∧ FlowKept s t ∧ FlagsKeptAsStated i s.flags t.flags
        ∧ match rm with
          | .reg r => Regs.keptBut w r s.regs t.regs ∧ MemoryKept s t
          | m => t.regs = s.regs ∧ MemoryKeptOutside (s.rmBytes w m) s t)
  ∧ (∀ (i : Instr) (w : Width) (r : Reg) (s : State), regDestination i = some (w, r) → i.wellFormed = true →
    (needs186 i = true → s.is186 = true) →
    Gives (exec i s) fun t =>
      OthersKept s t ∧ FlowKept s t ∧ FlagsKeptAsStated i s.flags t.flags ∧ Regs.keptBut w r s.regs t.regs ∧ MemoryKept s t)
  ∧ ∀ (i : Instr) (s : State), writesFlagsOnly i = true →
    Gives (exec i s) fun t =>
      OthersKept s t ∧ FlowKept s t ∧ s.flags.controlKept t.flags ∧ t.regs = s.regs ∧ MemoryKept s t

/-! ## Data transfer, 40_data_transfer.md -/

/-- Every form of MOV (R80 to R86): the destination holds the source's value and nothing else changes; a MOV to a segment register (never
CS: R83) also holds the recognition of interrupts (60_exceptions.md R261). With the encodings. -/
def Obligations.MovMovesTheValue : Prop :=
  (∀ d w rm r, encode (.movRmReg d w rm r) = ((0x22 : BitVec 6) ++ d.bit ++ w.bit) :: encodeModRm r.bits rm)
  ∧ (∀ rm imm, encode (.movRmImm rm imm) = ((0x63 : BitVec 7) ++ imm.width.bit) :: (encodeModRm 0 rm ++ (Imm.data imm).2))
  ∧ (∀ r imm, encode (.movRegImm r imm) = ((0xB : BitVec 4) ++ imm.width.bit ++ r.bits) :: (Imm.data imm).2)
  ∧ (∀ w a, encode (.movAccAddr w a) = [(0x50 : BitVec 7) ++ w.bit, a.lo, a.hi]
      ∧ encode (.movAddrAcc w a) = [(0x51 : BitVec 7) ++ w.bit, a.lo, a.hi])
  ∧ (∀ sr rm, encode (.movSregRm sr rm) = 0x8E :: encodeModRm ((0 : BitVec 1) ++ sr.bits) rm
      ∧ encode (.movRmSreg rm sr) = 0x8C :: encodeModRm ((0 : BitVec 1) ++ sr.bits) rm)
  ∧ ∀ s : State, s.Ordinary →
    (∀ w rm r, Gives (exec (.movRmReg .toRm w rm r) s) (RmWritten w rm (s.getReg w r).toNat s))
    ∧ (∀ w rm r, exec (.movRmReg .toReg w rm r) s = .next (s.setReg w r (BitVec.ofNat w.bits (s.rmValue w rm))))
    ∧ (∀ rm imm, Gives (exec (.movRmImm rm imm) s) (RmWritten imm.width rm (Imm.value imm).toNat s))
    ∧ (∀ r imm, exec (.movRegImm r imm) s = .next (s.setReg imm.width r (Imm.value imm)))
    ∧ (∀ w a, exec (.movAccAddr w a) s =
        .next (s.setAcc w (BitVec.ofNat w.bits (s.mem.number (operandBytes s.is186 w (s.segFor .ds) a)))))
    ∧ (∀ w a, Gives (exec (.movAddrAcc w a) s) (Stored (operandBytes s.is186 w (s.segFor .ds) a) (s.acc w).toNat s))
    ∧ (∀ sr rm, sr ≠ .cs → exec (.movSregRm sr rm) s =
        .next { s.setSeg sr (BitVec.ofNat 16 (s.rmValue .word rm)) with ctl := { s.ctl with intInhibit := true } })
    ∧ (∀ rm sr, Gives (exec (.movRmSreg rm sr) s) (RmWritten .word rm (s.segs.get sr).toNat s))

/-- Every form of PUSH, and PUSHF (R87 to R89, R93, R106): SP goes down by 2, the word goes to SS:SP; an immediate byte is
sign-extended; the flag image holds the nine flags, its other bits being free (log 4). Which SP is stored is the model's choice
(log 15): 54H stores the new SP (R88, derived), FF F4 the old one (R181, decision D17). With the encodings; those of PUSH
immediate are general knowledge (log 23). -/
def Obligations.PushStoresAtTheNewTop : Prop :=
  (∀ rm, encode (.pushRm rm) = 0xFF :: encodeModRm 6 rm) ∧ (∀ r : Reg, encode (.pushReg r) = [(0xA : BitVec 5) ++ r.bits])
  ∧ (∀ sr : SReg, encode (.pushSreg sr) = [(0 : BitVec 3) ++ sr.bits ++ (6 : BitVec 3)])
  ∧ (∀ v : Word, encode (.pushImm16 v) = [0x68, v.lo, v.hi]) ∧ (∀ b, encode (.pushImm8 b) = [0x6A, b]) ∧ encode .pushf = [0x9C]
  ∧ ∀ s : State, s.Ordinary →
    (∀ r, Gives (exec (.pushReg r) s) (Pushed (if r = .sp then s.get .sp - 2 else s.get r) s))
    ∧ (∀ rm, Gives (exec (.pushRm rm) s) (Pushed (BitVec.ofNat 16 (s.rmValue .word rm)) s))
    ∧ (∀ sr, Gives (exec (.pushSreg sr) s) (Pushed (s.segs.get sr) s))
    ∧ (s.is186 = true → (∀ v, Gives (exec (.pushImm16 v) s) (Pushed v s))
        ∧ ∀ b, Gives (exec (.pushImm8 b) s) (Pushed (BitVec.ofInt 16 b.toInt) s))
    ∧ Gives (exec .pushf s) fun t => ∃ image, Flags.ofImage image = s.flags ∧ Pushed image s t

/-- Every form of POP, and POPF (R90 to R92, R107): the destination holds the word at SS:SP and SP goes up by 2 (POP SP ends as the word
popped, log 15); POP to a segment register holds the recognition of interrupts. 0FH is POP CS on the 8086,88 alone; on the
80186,188 it is an unused opcode, interrupt 6 with the instruction's first byte as saved IP (decision D21; DEDUCED, log 20).
With the encodings. -/
def Obligations.PopLoadsTheTop : Prop :=
  (∀ rm, encode (.popRm rm) = 0x8F :: encodeModRm 0 rm) ∧ (∀ r : Reg, encode (.popReg r) = [(0xB : BitVec 5) ++ r.bits])
  ∧ (∀ sr : SReg, encode (.popSreg sr) = [(0 : BitVec 3) ++ sr.bits ++ (7 : BitVec 3)]) ∧ encode .popf = [0x9D]
  ∧ ∀ s : State, s.Ordinary →
    (∀ r, exec (.popReg r) s = .next ((s.set .sp (s.get .sp + 2)).set r s.topWord)
      ∧ exec (.popRm (.reg r)) s = .next ((s.set .sp (s.get .sp + 2)).set r s.topWord))
    ∧ (∀ rm, rm.wellFormedMem = true → Gives (exec (.popRm rm) s)
        (Stored (s.rmBytes .word rm) s.topWord.toNat (s.set .sp (s.get .sp + 2))))
    ∧ (∀ sr, ¬(sr = .cs ∧ s.is186 = true) → exec (.popSreg sr) s =
        .next { (s.set .sp (s.get .sp + 2)).setSeg sr s.topWord with ctl := { s.ctl with intInhibit := true } })
    ∧ (s.is186 = true → exec (.popSreg .cs) s = .next (interrupt 6 s.ctl.firstIp s))
    ∧ exec .popf s = .next ((s.set .sp (s.get .sp + 2)).setFlags (Flags.ofImage s.topWord))

/-- PUSHA and POPA (R94, R95): the eight registers in order, SP as it was before; POPA discards the SP word, so that POPA after
PUSHA restores every register. -/
def Obligations.PushaAndPopa : Prop :=
  encode .pusha = [0x60] ∧ encode .popa = [0x61] ∧ ∀ s : State, s.Ordinary → s.is186 = true →
    (Gives (exec .pusha s) fun t =>
      t = { s with regs := s.regs.set .sp (s.get .sp - 16), mem := t.mem }
        ∧ (∀ p ∈ [(2, Reg.ax), (4, .cx), (6, .dx), (8, .bx), (10, .sp), (12, .bp), (14, .si), (16, .di)],
            t.mem.number (s.stackBytes (s.get .sp - BitVec.ofNat 16 p.1)) = (s.get p.2).toNat)
        ∧ MemoryKeptOutside ([2, 4, 6, 8, 10, 12, 14, 16].flatMap fun k => s.stackBytes (s.get .sp - BitVec.ofNat 16 k)) s t
        ∧ Gives (exec .popa t) fun u => u.regs = s.regs)
    ∧ exec .popa s =
        (let w (k : Nat) : Word := BitVec.ofNat 16 (s.mem.number (s.stackBytes (s.get .sp + BitVec.ofNat 16 k)))
         .next { s with
          regs := { ax := w 14, cx := w 12, dx := w 10, bx := w 8, sp := s.get .sp + 16, bp := w 4, si := w 2, di := w 0 } })

/-- XCHG, XLAT, LEA, LDS, LES (R96 to R98, R101 to R103), with the encodings. -/
def Obligations.ExchangeTranslateAndAddress : Prop :=
  (∀ w rm r, encode (.xchgRmReg w rm r) = ((0x43 : BitVec 7) ++ w.bit) :: encodeModRm r.bits rm)
  ∧ (∀ r : Reg, encode (.xchgAxReg r) = [(0x12 : BitVec 5) ++ r.bits]) ∧ encode .xlat = [0xD7]
  ∧ (∀ r rm, encode (.lea r rm) = 0x8D :: encodeModRm r.bits rm ∧ encode (.lds r rm) = 0xC5 :: encodeModRm r.bits rm
      ∧ encode (.les r rm) = 0xC4 :: encodeModRm r.bits rm)
  ∧ ∀ s : State, s.Ordinary →
    (∀ w q r, exec (.xchgRmReg w (.reg q) r) s = .next ((s.setReg w q (s.getReg w r)).setReg w r (s.getReg w q)))
    ∧ (∀ w rm r, rm.wellFormedMem = true → Gives (exec (.xchgRmReg w rm r) s) fun t =>
        t.regs = (s.setReg w r (BitVec.ofNat w.bits (s.rmValue w rm))).regs
          ∧ Stored (s.rmBytes w rm) (s.getReg w r).toNat s { t with regs := s.regs })
    ∧ (∀ r, exec (.xchgAxReg r) s = .next ((s.set .ax (s.get r)).set r (s.get .ax)))
    ∧ exec .xlat s =
        .next (s.set8 .al (s.mem.read ((16 * (s.segFor .ds).toNat + ((s.get .bx).toNat + (s.get8 .al).toNat) % 2 ^ 16) % 2 ^ 20)))
    ∧ (∀ r rm, rm.wellFormedMem = true →
        let off : Word := BitVec.ofNat 16 (s.mem.number (operandBytes s.is186 .word (eaSeg s rm) (eaOff s rm)))
        let seg : Word := BitVec.ofNat 16 (s.mem.number (operandBytes s.is186 .word (eaSeg s rm) (eaOff s rm + 2)))
        exec (.lea r rm) s = .next (s.set r (eaOff s rm))
          ∧ exec (.lds r rm) s = .next ((s.set r off).setSeg .ds seg)
          ∧ exec (.les r rm) s = .next ((s.set r off).setSeg .es seg))

/-- IN and OUT, with a fixed port or through DX (R99, R100; 20_memory.md R47): outside the control block an IN gives the accumulator
what the ports present and an OUT shows the platform the accumulator, low byte at the lower port, which wraps at 64K (D8), no other
master coming between (R307); every IN answers a next state and changes the accumulator alone among the registers, every OUT changes no register. With the encodings. -/
def Obligations.InputAndOutput : Prop :=
  (∀ (w : Width) (b : Byte), encode (.inAccPort w b) = [(0x72 : BitVec 7) ++ w.bit, b] ∧ encode (.outPortAcc w b) = [(0x73 : BitVec 7) ++ w.bit, b]
    ∧ encode (.inAccDx w) = [(0x76 : BitVec 7) ++ w.bit] ∧ encode (.outDxAcc w) = [(0x77 : BitVec 7) ++ w.bit])
  ∧ ∀ (s : State) (w : Width) (p : Word) (inp out : Instr),
    ((inp = .inAccDx w ∧ out = .outDxAcc w ∧ p = s.get .dx)
      ∨ ∃ b : Byte, inp = .inAccPort w b ∧ out = .outPortAcc w b ∧ p = b.setWidth 16) →
    (Gives (exec inp s) fun t => Regs.keptBut w .ax s.regs t.regs ∧ FlowKept s t ∧ t.flags = s.flags ∧ MemoryKept s t ∧ t.cfg = s.cfg)
    ∧ (Gives (exec out s) fun t => t.regs = s.regs ∧ FlowKept s t ∧ t.flags = s.flags ∧ MemoryKept s t ∧ t.cfg = s.cfg)
    ∧ match w with
      | .byte => s.turns = [] → s.pcbIo p = false → s.caHit false p.toNat = false →
          (∀ lo, presented s.io.inputs p.toNat = some lo → exec inp s = .next ((s.set8 .al lo).event (.portRead p.toNat lo)))
            ∧ exec out s = .next (s.event (.portWrite p.toNat (s.get8 .al)))
      | .word => s.turns = [] → s.pcbIo p = false → s.pcbIo (p + 1) = false → s.caHit false p.toNat = false → s.caHit false (p + 1).toNat = false →
          (∀ lo hi, presented s.io.inputs p.toNat = some lo → presented s.io.inputs (p + 1).toNat = some hi →
            exec inp s = .next (((s.set .ax (BitVec.ofNat 16 (lo.toNat + 256 * hi.toNat))).event (.portRead p.toNat lo)).event
              (.portRead (p + 1).toNat hi)))
            ∧ exec out s = .next ((s.event (.portWrite p.toNat (s.get8 .al))).event (.portWrite (p + 1).toNat (s.get8 .ah)))

/-! ## Arithmetic, 41_arithmetic.md -/

/-- ADD and ADC, every form (R111 to R113): the sum modulo 2^N of the operands and, for ADC, the old carry; all six status flags report
it; TF, IF, DF stay. With the encodings. -/
def Obligations.AdditionResults : Prop :=
  let spec (useCarry : Bool) {n : Nat} (a b : BitVec n) (old : Flags) (v : BitVec n) (f : Flags) : Prop :=
    v.toNat = (a.toNat + b.toNat + (useCarry && old.cf).toNat) % 2 ^ n ∧ ReportsSum f a b (useCarry && old.cf) ∧ old.controlKept f
  TwoOperandForms ImmS.width ImmS.value (spec false) true .addRmReg .addRmImm .addAccImm
    ∧ TwoOperandForms ImmS.width ImmS.value (spec true) true .adcRmReg .adcRmImm .adcAccImm
    ∧ TwoOperandEncodings 0 ImmS.data .addRmReg .addRmImm .addAccImm ∧ TwoOperandEncodings 2 ImmS.data .adcRmReg .adcRmImm .adcAccImm

/-- SUB, SBB and CMP, every form (R111, R117, R118, R121): the difference modulo 2^N of the operands and, for SBB, the old borrow; all
six status flags report it; CMP stores nothing. With the encodings. -/
def Obligations.SubtractionResults : Prop :=
  let spec (useCarry : Bool) {n : Nat} (a b : BitVec n) (old : Flags) (v : BitVec n) (f : Flags) : Prop :=
    (v.toNat : Int) = ((a.toNat : Int) - b.toNat - (useCarry && old.cf).toNat) % 2 ^ n
      ∧ ReportsDifference f a b (useCarry && old.cf) ∧ old.controlKept f
  TwoOperandForms ImmS.width ImmS.value (spec false) true .subRmReg .subRmImm .subAccImm
    ∧ TwoOperandForms ImmS.width ImmS.value (spec true) true .sbbRmReg .sbbRmImm .sbbAccImm
    ∧ TwoOperandForms ImmS.width ImmS.value (spec false) false .cmpRmReg .cmpRmImm .cmpAccImm
    ∧ TwoOperandEncodings 5 ImmS.data .subRmReg .subRmImm .subAccImm ∧ TwoOperandEncodings 3 ImmS.data .sbbRmReg .sbbRmImm .sbbAccImm
    ∧ TwoOperandEncodings 7 ImmS.data .cmpRmReg .cmpRmImm .cmpAccImm

/-- INC and DEC (R114, R119): one more or less modulo 2^N, flags as for adding or subtracting 1 but CF kept; NEG (R120): 0 minus the
operand with the flags of that subtraction; NOT (42_bit_manipulation.md R141): every bit inverted, no flag. With the encodings. -/
def Obligations.OneOperandResults : Prop :=
  let inc {n : Nat} (a : BitVec n) (old : Flags) (v : BitVec n) (f : Flags) : Prop :=
    v.toNat = (a.toNat + 1) % 2 ^ n ∧ f.cf = old.cf ∧ old.controlKept f ∧ ∃ c, ReportsSum { f with cf := c } a 1 false
  let dec {n : Nat} (a : BitVec n) (old : Flags) (v : BitVec n) (f : Flags) : Prop :=
    (v.toNat : Int) = ((a.toNat : Int) - 1) % 2 ^ n ∧ f.cf = old.cf ∧ old.controlKept f ∧ ∃ c, ReportsDifference { f with cf := c } a 1 false
  let neg {n : Nat} (a : BitVec n) (old : Flags) (v : BitVec n) (f : Flags) : Prop :=
    (v.toNat : Int) = (-(a.toNat : Int)) % 2 ^ n ∧ ReportsDifference f 0 a false ∧ old.controlKept f
  let not {n : Nat} (a : BitVec n) (old : Flags) (v : BitVec n) (f : Flags) : Prop :=
    (∀ k < n, v.getLsbD k = !a.getLsbD k) ∧ f = old
  OneOperandForms inc .incRm ∧ (∀ r s, exec (.incReg r) s = exec (.incRm .word (.reg r)) s)
    ∧ OneOperandForms dec .decRm ∧ (∀ r s, exec (.decReg r) s = exec (.decRm .word (.reg r)) s)
    ∧ OneOperandForms neg .negRm ∧ OneOperandForms not .notRm
    ∧ UnaryEncoding 0x7F 0 .incRm ∧ UnaryEncoding 0x7F 1 .decRm ∧ UnaryEncoding 0x7B 3 .negRm ∧ UnaryEncoding 0x7B 2 .notRm
    ∧ ∀ r : Reg, encode (.incReg r) = [(8 : BitVec 5) ++ r.bits] ∧ encode (.decReg r) = [(9 : BitVec 5) ++ r.bits]

/-- MUL and IMUL (R124 to R126): the exact product, unsigned or signed, in AX or DX:AX, or its low 16 bits in the register of the
immediate form; CF and OF say that the upper half (the part dropped) is significant; SF, ZF, AF, PF are free (log 25), TF, IF, DF stay.
With the encodings; that of the immediate form is general knowledge (log 23). -/
def Obligations.MultiplicationResults : Prop :=
  let product (i : Instr) (s u : State) (regs : Regs) (big : Prop) : Prop := ∃ f k,
    exec i s = .next { u with regs := regs, flags := f, fresh := k } ∧ (f.cf = true ↔ big) ∧ f.of = f.cf ∧ s.flags.controlKept f
  UnaryEncoding 0x7B 4 .mulRm ∧ UnaryEncoding 0x7B 5 .imulRm
  ∧ (∀ (r : Reg) rm, (∀ v : Word, encode (.imulImm16 r rm v) = 0x69 :: (encodeModRm r.bits rm ++ [v.lo, v.hi]))
      ∧ ∀ b, encode (.imulImm8 r rm b) = 0x6B :: (encodeModRm r.bits rm ++ [b]))
  ∧ ∀ (s : State) (rm : Rm),
    (let u := (readRm .byte rm s).2
      let b : Byte := (readRm .byte rm s).1
      let p := (s.get8 .al).toNat * b.toNat
      let q := (s.get8 .al).toInt * b.toInt
      product (.mulRm .byte rm) s u (s.regs.set .ax (BitVec.ofNat 16 p)) (256 ≤ p)
        ∧ product (.imulRm .byte rm) s u (s.regs.set .ax (BitVec.ofInt 16 q)) (q < -128 ∨ 127 < q))
    ∧ (let u := (readRm .word rm s).2
      let b : Word := (readRm .word rm s).1
      let p := (s.get .ax).toNat * b.toNat
      let q := (s.get .ax).toInt * b.toInt
      product (.mulRm .word rm) s u ((s.regs.set .dx (BitVec.ofNat 16 (p / 65536))).set .ax (BitVec.ofNat 16 p)) (65536 ≤ p)
        ∧ product (.imulRm .word rm) s u ((s.regs.set .dx (BitVec.ofInt 16 (q / 65536))).set .ax (BitVec.ofInt 16 q))
            (q < -32768 ∨ 32767 < q)
        ∧ (s.is186 = true → ∀ (r : Reg) (imm : Word),
            product (.imulImm16 r rm imm) s u (s.regs.set r (BitVec.ofInt 16 (b.toInt * imm.toInt)))
              (b.toInt * imm.toInt < -32768 ∨ 32767 < b.toInt * imm.toInt))
        ∧ (s.is186 = true → ∀ (r : Reg) (imm : Byte),
            product (.imulImm8 r rm imm) s u (s.regs.set r (BitVec.ofInt 16 (b.toInt * imm.toInt)))
              (b.toInt * imm.toInt < -32768 ∨ 32767 < b.toInt * imm.toInt)))

/-- DIV and IDIV (R128, R129): AL and AH, or AX and DX, hold quotient and remainder of AX, or DX:AX; IDIV truncates toward
0 and its remainder has the sign of the dividend; the most negative quotient is accepted by the 80186,188 alone (C44); the status
flags are free (log 25). By 0, or with a quotient that does not fit: quotient, remainder and status flags are free (log 26), then
interrupt type 0 with the next instruction as saved IP (60_exceptions.md R254, R263). With the encodings. -/
def Obligations.DivisionResults : Prop :=
  let traps (w : Width) (i : Instr) (s u : State) : Prop := ∃ q r f k,
    exec i s = .next (interrupt 0 s.ip { u with
        regs := match w with
          | .byte => (s.regs.set8 .al (Word.lo q)).set8 .ah (Word.lo r)
          | .word => (s.regs.set .ax q).set .dx r
        flags := f, fresh := k })
      ∧ s.flags.controlKept f
  let divided (i : Instr) (s u : State) (regs : Regs) : Prop := ∃ f k,
    exec i s = .next { u with regs := regs, flags := f, fresh := k } ∧ s.flags.controlKept f
  UnaryEncoding 0x7B 6 .divRm ∧ UnaryEncoding 0x7B 7 .idivRm ∧ ∀ (s : State) (rm : Rm),
    (let u := (readRm .byte rm s).2
      let d : Byte := (readRm .byte rm s).1
      let n := (s.get .ax).toNat
      let m := (s.get .ax).toInt
      (d ≠ 0 → n / d.toNat < 256 →
        divided (.divRm .byte rm) s u (s.regs.set .ax (BitVec.ofNat 16 (n / d.toNat + 256 * (n % d.toNat)))))
      ∧ (d ≠ 0 → (if s.is186 then -128 else -127) ≤ m.tdiv d.toInt → m.tdiv d.toInt ≤ 127 →
        divided (.idivRm .byte rm) s u
          ((s.regs.set8 .al (BitVec.ofInt 8 (m.tdiv d.toInt))).set8 .ah (BitVec.ofInt 8 (m.tmod d.toInt))))
      ∧ (d = 0 ∨ 256 ≤ n / d.toNat → traps .byte (.divRm .byte rm) s u)
      ∧ (d = 0 ∨ m.tdiv d.toInt < (if s.is186 then -128 else -127) ∨ 127 < m.tdiv d.toInt → traps .byte (.idivRm .byte rm) s u))
    ∧ (let u := (readRm .word rm s).2
      let d : Word := (readRm .word rm s).1
      let n := 65536 * (s.get .dx).toNat + (s.get .ax).toNat
      let m := 65536 * (s.get .dx).toInt + (s.get .ax).toNat
      (d ≠ 0 → n / d.toNat < 65536 →
        divided (.divRm .word rm) s u ((s.regs.set .ax (BitVec.ofNat 16 (n / d.toNat))).set .dx (BitVec.ofNat 16 (n % d.toNat))))
      ∧ (d ≠ 0 → (if s.is186 then -32768 else -32767) ≤ m.tdiv d.toInt → m.tdiv d.toInt ≤ 32767 →
        divided (.idivRm .word rm) s u
          ((s.regs.set .ax (BitVec.ofInt 16 (m.tdiv d.toInt))).set .dx (BitVec.ofInt 16 (m.tmod d.toInt))))
      ∧ (d = 0 ∨ 65536 ≤ n / d.toNat → traps .word (.divRm .word rm) s u)
      ∧ (d = 0 ∨ m.tdiv d.toInt < (if s.is186 then -32768 else -32767) ∨ 32767 < m.tdiv d.toInt →
          traps .word (.idivRm .word rm) s u))

/-- The adjustments and conversions (R115, R116, R122, R123, R127, R130 to R132): AL and AH, the flags each defines; the status flags
that it leaves undefined are free (log 25), TF, IF, DF stay. With the encodings. -/
def Obligations.AdjustmentResults : Prop :=
  (∀ p ∈ [(([0x37] : List Byte), Instr.aaa), ([0x3F], .aas), ([0x27], .daa), ([0x2F], .das), ([0xD4, 0x0A], .aam), ([0xD5, 0x0A], .aad),
      ([0x98], .cbw), ([0x99], .cwd)], encode p.2 = p.1)
  ∧ ∀ s : State,
    let al := (s.get8 .al).toNat
    let ah := (s.get8 .ah).toNat
    let hit : Bool := 9 < al % 16 || s.flags.af
    let answers (i : Instr) (newAh newAl : Nat) (defined : Flags → Prop) : Prop := ∃ f,
      exec i s = .next { s with regs := s.regs.set .ax (BitVec.ofNat 16 (256 * newAh + newAl)), flags := f, fresh := s.fresh + 1 }
        ∧ defined f ∧ s.flags.controlKept f
    answers .aaa (if hit then (ah + 1) % 256 else ah) (if hit then (al + 6) % 16 else al % 16) (fun f => f.af = hit ∧ f.cf = hit)
      ∧ answers .aas (if hit then (ah + 255) % 256 else ah) (if hit then (al + 10) % 16 else al % 16)
          (fun f => f.af = hit ∧ f.cf = hit)
      ∧ (let low := if hit then (al + 6) % 256 else al
        let hit2 : Bool := 0x9F < low || s.flags.cf
        let r := if hit2 then (low + 0x60) % 256 else low
        answers .daa ah r (fun f => f.af = hit ∧ f.cf = hit2 ∧ ReportsResult f (BitVec.ofNat 8 r)))
      ∧ (let low := if hit then (al + 250) % 256 else al
        let hit2 : Bool := 0x9F < low || s.flags.cf
        let r := if hit2 then (low + 0xA0) % 256 else low
        answers .das ah r (fun f => f.af = hit ∧ f.cf = hit2 ∧ ReportsResult f (BitVec.ofNat 8 r)))
      ∧ answers .aam (al / 10) (al % 10) (fun f => ReportsResult f (BitVec.ofNat 8 (al % 10)))
      ∧ answers .aad 0 ((10 * ah + al) % 256) (fun f => ReportsResult f (BitVec.ofNat 8 (10 * ah + al)))
      ∧ exec .cbw s = .next (s.set .ax (BitVec.ofInt 16 (s.get8 .al).toInt))
      ∧ exec .cwd s = .next (s.set .dx (if (s.get .ax).toInt < 0 then 0xFFFF else 0))

/-! ## Bit manipulation, 42_bit_manipulation.md -/

/-- AND, OR, XOR and TEST, every form (R140, R142 to R145): each bit of the result, CF and OF cleared, SF, ZF, PF from the result, AF free
(log 25); TEST stores nothing. With the encodings. -/
def Obligations.LogicalResults : Prop :=
  let spec (bit : Bool → Bool → Bool) {n : Nat} (a b : BitVec n) (old : Flags) (v : BitVec n) (f : Flags) : Prop :=
    (∀ k < n, v.getLsbD k = bit (a.getLsbD k) (b.getLsbD k)) ∧ ReportsResult f v ∧ f.cf = false ∧ f.of = false ∧ old.controlKept f
  TwoOperandForms Imm.width Imm.value (spec and) true .andRmReg .andRmImm .andAccImm
    ∧ TwoOperandForms Imm.width Imm.value (spec or) true .orRmReg .orRmImm .orAccImm
    ∧ TwoOperandForms Imm.width Imm.value (spec xor) true .xorRmReg .xorRmImm .xorAccImm
    ∧ TwoOperandForms Imm.width Imm.value (spec and) false (fun _ => .testRmReg) .testRmImm .testAccImm
    ∧ TwoOperandEncodings 4 Imm.data .andRmReg .andRmImm .andAccImm ∧ TwoOperandEncodings 1 Imm.data .orRmReg .orRmImm .orAccImm
    ∧ TwoOperandEncodings 6 Imm.data .xorRmReg .xorRmImm .xorAccImm
    ∧ (∀ w rm r, encode (.testRmReg w rm r) = ((0x42 : BitVec 7) ++ w.bit) :: encodeModRm r.bits rm)
    ∧ (∀ rm i, encode (.testRmImm rm i) = ((0x7B : BitVec 7) ++ i.width.bit) :: (encodeModRm 0 rm ++ (Imm.data i).2))
    ∧ ∀ i, encode (.testAccImm i) = ((0x54 : BitVec 7) ++ i.width.bit) :: (Imm.data i).2

/-- SHL, SHR, SAR by any count (R146 to R150, R155): the value shifted by the whole count, CF the last bit shifted out, SF, ZF, PF from
the result; a count of 0 leaves operand and CF; OF after a count of 1 says that the sign changed (SHL, SHR), SAR clears it (C7); what
else a count leaves undefined is free (log 25). With the encodings; that of the immediate count is general knowledge (log 23). -/
def Obligations.ShiftResults : Prop :=
  let spec (value : {n : Nat} → BitVec n → Nat → BitVec n) (out : {n : Nat} → BitVec n → Nat → Bool) (sar : Bool)
      {n : Nat} (count : Nat) (a : BitVec n) (old : Flags) (v : BitVec n) (f : Flags) : Prop :=
    v = value a count ∧ old.controlKept f ∧ (count = 0 → f.cf = old.cf)
      ∧ (count ≠ 0 → f.cf = out a count ∧ ReportsResult f v)
      ∧ (if sar then count ≠ 0 → f.of = false else count = 1 → f.of = (v.msb != a.msb))
  ShiftForms (spec (fun a k => a <<< k) (fun {n} a k => k ≤ n && a.getLsbD (n - k)) false) .shlRm .shlRmImm
    ∧ ShiftForms (spec (fun a k => a >>> k) (fun a k => a.getLsbD (k - 1)) false) .shrRm .shrRmImm
    ∧ ShiftForms (spec (fun a k => a.sshiftRight k) (fun a k => (a.sshiftRight (k - 1)).getLsbD 0) true) .sarRm .sarRmImm
    ∧ ShiftEncodings 4 .shlRm .shlRmImm ∧ ShiftEncodings 5 .shrRm .shrRmImm ∧ ShiftEncodings 7 .sarRm .sarRmImm

/-- ROL, ROR, RCL, RCR by any count (R146, R147, R151 to R155): the operand, or the operand with CF above it, rotated by the whole
count; CF the last bit moved; OF after a count of 1 says that the two high bits of the result differ (for ROL and RCL: the high bit
and CF), after another count it is free (log 25); the other flags stay. With the encodings; that of the immediate count is general
knowledge (log 23). -/
def Obligations.RotateResults : Prop :=
  let kept (old f : Flags) : Prop :=
    old.controlKept f ∧ f.sf = old.sf ∧ f.zf = old.zf ∧ f.pf = old.pf ∧ f.af = old.af
  let left {n : Nat} (count : Nat) (v : BitVec n) (f : Flags) : Prop := count = 1 → f.of = (v.msb != f.cf)
  let right {n : Nat} (count : Nat) (v : BitVec n) (f : Flags) : Prop := count = 1 → f.of = (v.msb != v.getLsbD (n - 2))
  ShiftForms (fun count a old v f => v = a.rotateLeft count ∧ kept old f ∧ left count v f
      ∧ f.cf = if count = 0 then old.cf else v.getLsbD 0) .rolRm .rolRmImm
    ∧ ShiftForms (fun count a old v f => v = a.rotateRight count ∧ kept old f ∧ right count v f
      ∧ f.cf = if count = 0 then old.cf else v.msb) .rorRm .rorRmImm
    ∧ ShiftForms (fun count a old v f => BitVec.cons f.cf v = (BitVec.cons old.cf a).rotateLeft count ∧ kept old f ∧ left count v f)
      .rclRm .rclRmImm
    ∧ ShiftForms (fun count a old v f => BitVec.cons f.cf v = (BitVec.cons old.cf a).rotateRight count ∧ kept old f ∧ right count v f)
      .rcrRm .rcrRmImm
    ∧ ShiftEncodings 0 .rolRm .rolRmImm ∧ ShiftEncodings 1 .rorRm .rorRmImm ∧ ShiftEncodings 2 .rclRm .rclRmImm
    ∧ ShiftEncodings 3 .rcrRm .rcrRmImm

/-! ## Strings, 43_string.md -/

/-- One string instruction without a repeat prefix (R160, R161, R164 to R170): the element moved, compared or exchanged with a port, the
source at SI in DS (or the override), the destination at DI in ES; the pointers used move by the element size, down when DF = 1. With the
encodings. -/
def Obligations.StringPrimitives : Prop :=
  (∀ p ∈ [((0x52 : BitVec 7), Instr.movs), (0x53, .cmps), (0x57, .scas), (0x56, .lods), (0x55, .stos), (0x36, .ins), (0x37, .outs)],
    ∀ w : Width, encode (p.2 w) = [p.1 ++ w.bit])
  ∧ ∀ (w : Width) (s : State), s.ctl.latches.rep = none →
    let step : Int := if s.flags.df then -(w.bytes : Int) else w.bytes
    let moved (g : Regs) (si di : Bool) : Regs :=
      { g with si := if si then BitVec.ofInt 16 (s.regs.si.toNat + step) else g.si
               di := if di then BitVec.ofInt 16 (s.regs.di.toNat + step) else g.di }
    let src := readMem w (s.segFor .ds) (s.get .si) s
    let dst := readMem w s.segs.es (s.get .di)
    exec (.movs w) s = .next { writeMem w s.segs.es (s.get .di) src.1 src.2 with regs := moved s.regs true true }
      ∧ (∃ f, ReportsDifference f src.1 (dst src.2).1 false ∧ s.flags.controlKept f
          ∧ exec (.cmps w) s = .next { (dst src.2).2 with flags := f, regs := moved s.regs true true })
      ∧ (∃ f, ReportsDifference f (s.acc w) (dst s).1 false ∧ s.flags.controlKept f
          ∧ exec (.scas w) s = .next { (dst s).2 with flags := f, regs := moved s.regs false true })
      ∧ exec (.lods w) s = .next { src.2 with regs := moved (s.setAcc w src.1).regs true false }
      ∧ exec (.stos w) s = .next { writeMem w s.segs.es (s.get .di) (s.acc w) s with regs := moved s.regs false true }
      ∧ (s.is186 = true →
          exec (.ins w) s =
              .next { writeMem w s.segs.es (s.get .di) (ioRead w (s.get .dx) s).1 (ioRead w (s.get .dx) s).2 with
                regs := moved s.regs false true }
          ∧ exec (.outs w) s = .next { ioWrite w (s.get .dx) src.1 src.2 with regs := moved s.regs true false })

/-- A string instruction under a repeat prefix (R162): with CX = 0 nothing; else one pass of the primitive with CX one less, and then back
to the instruction unless CX is 0 or, for CMPS and SCAS, ZF differs from the prefix's z bit. One pass is one item of the model
(log 17). -/
def Obligations.RepeatedStringPass : Prop :=
  ∀ p ∈ [(Instr.movs, false), (.lods, false), (.stos, false), (.ins, false), (.outs, false), (.cmps, true), (.scas, true)],
    ∀ (w : Width) (s : State) (z : Bool), (needs186 (p.1 w) = true → s.is186 = true) → s.ctl.latches.rep = some z →
      let s0 : State := { s with ctl := { s.ctl with latches := { s.ctl.latches with rep := none } } }
      (s.get .cx = 0 → exec (p.1 w) s = .next s)
        ∧ (s.get .cx ≠ 0 → ∃ t, exec (p.1 w) s0 = .next t ∧
            let again := s.get .cx ≠ 1 ∧ (p.2 = true → t.flags.zf = z)
            let u := { t with regs := t.regs.set .cx (s.get .cx - 1), ctl := { t.ctl with latches := s.ctl.latches } }
            (again → exec (p.1 w) s = .next { u with ip := s.ctl.opIp, ctl := { u.ctl with phase := .repeating } })
              ∧ (¬again → exec (p.1 w) s = .next u))

/-! ## Control transfer, 44_control_transfer.md -/

/-- The sixteen conditional jumps (R195 to R211), their opcodes and conditions, and LOOP, LOOPE, LOOPNE, JCXZ (R212 to R215): the loops
first make CX one less modulo 2^16; then IP plus the signed displacement, modulo 2^16, when the condition holds; nothing else changes. -/
def Obligations.ShortJumps : Prop :=
  ∀ s : State,
    let f := s.flags
    let cx := s.get .cx
    let less : Word := BitVec.ofNat 16 (cx.toNat + 65535)
    ∀ p ∈ [((0x70 : Byte), Instr.jo, cx, f.of = true), (0x71, .jno, cx, f.of = false), (0x72, .jb, cx, f.cf = true),
        (0x73, .jae, cx, f.cf = false), (0x74, .je, cx, f.zf = true), (0x75, .jne, cx, f.zf = false),
        (0x76, .jbe, cx, f.cf = true ∨ f.zf = true), (0x77, .ja, cx, f.cf = false ∧ f.zf = false), (0x78, .js, cx, f.sf = true),
        (0x79, .jns, cx, f.sf = false), (0x7A, .jp, cx, f.pf = true), (0x7B, .jnp, cx, f.pf = false),
        (0x7C, .jl, cx, f.sf ≠ f.of), (0x7D, .jge, cx, f.sf = f.of), (0x7E, .jle, cx, f.zf = true ∨ f.sf ≠ f.of),
        (0x7F, .jg, cx, f.zf = false ∧ f.sf = f.of), (0xE0, .loopne, less, cx.toNat ≠ 1 ∧ f.zf = false),
        (0xE1, .loope, less, cx.toNat ≠ 1 ∧ f.zf = true), (0xE2, .loop, less, cx.toNat ≠ 1), (0xE3, .jcxz, cx, cx = 0)],
      ∀ d rest, decode (p.1 :: d :: rest) = .ok (p.2.1 d, 2)
        ∧ (p.2.2.2 → exec (p.2.1 d) s =
            .next { s with regs := s.regs.set .cx p.2.2.1, ip := BitVec.ofInt 16 (s.ip.toNat + d.toInt) })
        ∧ (¬p.2.2.2 → exec (p.2.1 d) s = .next { s with regs := s.regs.set .cx p.2.2.1 })

/-- JMP (R190 to R194) and CALL (R182 to R185), every form: the target; a CALL stores the offset of the next instruction at the new
top of the stack, a far one CS above it; the operand of an indirect CALL (SP itself, or words that are pushed over, included) is read
before the push (R181; decision D17, DEDUCED, log 18). RET, near and far, with and without a pop value (R186 to R189): IP, and CS,
from the stack; SP past them and the pop value. With the encodings. -/
def Obligations.JumpsCallsAndReturns : Prop :=
  (∀ d : Word, encode (.callNear d) = [0xE8, d.lo, d.hi] ∧ encode (.jmpNear d) = [0xE9, d.lo, d.hi])
  ∧ (∀ b, encode (.jmpShort b) = [0xEB, b])
  ∧ (∀ off seg : Word, encode (.callFar off seg) = [0x9A, off.lo, off.hi, seg.lo, seg.hi]
      ∧ encode (.jmpFar off seg) = [0xEA, off.lo, off.hi, seg.lo, seg.hi])
  ∧ (∀ rm, encode (.callNearRm rm) = 0xFF :: encodeModRm 2 rm ∧ encode (.callFarRm rm) = 0xFF :: encodeModRm 3 rm
      ∧ encode (.jmpNearRm rm) = 0xFF :: encodeModRm 4 rm ∧ encode (.jmpFarRm rm) = 0xFF :: encodeModRm 5 rm)
  ∧ encode .retNear = [0xC3] ∧ (∀ n : Word, encode (.retNearImm n) = [0xC2, n.lo, n.hi]) ∧ encode .retFar = [0xCB]
  ∧ (∀ n : Word, encode (.retFarImm n) = [0xCA, n.lo, n.hi])
  ∧ ∀ s : State, s.Ordinary →
    let near (i : Instr) (target : Word) : Prop := Gives (exec i s) fun t => t.ip = target ∧ Pushed s.ip s { t with ip := s.ip }
    let far (i : Instr) (off seg : Word) : Prop := Gives (exec i s) fun t =>
      t = { s with regs := s.regs.set .sp (s.get .sp - 4), segs := { s.segs with cs := seg }, ip := off, mem := t.mem }
        ∧ t.mem.number (s.stackBytes (s.get .sp - 2)) = s.segs.cs.toNat ∧ t.mem.number (s.stackBytes (s.get .sp - 4)) = s.ip.toNat
        ∧ MemoryKeptOutside (s.stackBytes (s.get .sp - 2) ++ s.stackBytes (s.get .sp - 4)) s t
    (∀ d, near (.callNear d) (BitVec.ofInt 16 (s.ip.toNat + d.toInt)))
      ∧ (∀ rm, near (.callNearRm rm) (BitVec.ofNat 16 (s.rmValue .word rm)))
      ∧ (∀ off seg, far (.callFar off seg) off seg)
      ∧ (∀ d, exec (.jmpNear d) s = .next (s.setIp (BitVec.ofInt 16 (s.ip.toNat + d.toInt))))
      ∧ (∀ d, exec (.jmpShort d) s = .next (s.setIp (BitVec.ofInt 16 (s.ip.toNat + d.toInt))))
      ∧ (∀ rm, exec (.jmpNearRm rm) s = .next (s.setIp (BitVec.ofNat 16 (s.rmValue .word rm))))
      ∧ (∀ off seg, exec (.jmpFar off seg) s = .next ((s.setSeg .cs seg).setIp off))
      ∧ (∀ rm, rm.wellFormedMem = true →
          let off : Word := BitVec.ofNat 16 (s.mem.number (operandBytes s.is186 .word (eaSeg s rm) (eaOff s rm)))
          let seg : Word := BitVec.ofNat 16 (s.mem.number (operandBytes s.is186 .word (eaSeg s rm) (eaOff s rm + 2)))
          far (.callFarRm rm) off seg ∧ exec (.jmpFarRm rm) s = .next ((s.setSeg .cs seg).setIp off))
      ∧ (let cs : Word := BitVec.ofNat 16 (s.mem.number (s.stackBytes (s.get .sp + 2)))
        exec .retNear s = .next ((s.set .sp (s.get .sp + 2)).setIp s.topWord)
          ∧ (∀ n, exec (.retNearImm n) s = .next ((s.set .sp (s.get .sp + 2 + n)).setIp s.topWord))
          ∧ exec .retFar s = .next (((s.set .sp (s.get .sp + 4)).setIp s.topWord).setSeg .cs cs)
          ∧ ∀ n, exec (.retFarImm n) s = .next (((s.set .sp (s.get .sp + 4 + n)).setIp s.topWord).setSeg .cs cs))

/-! ## Interrupts, 60_exceptions.md -/

/-- The interrupt sequence (R252, R253): SP lower by 6; from the top the saved IP, CS, and an image of the flags as they were; IF and TF
cleared; IP, read last, from the table entry as memory then holds it, and CS from the entry as it is before the saved IP is pushed (the
three words pushed are disjoint; the order of the two reads is that of R253's pseudocode, log 64); nothing else changes (the draw count
apart). INT n, INT 3 and INTO (44_control_transfer.md R216 to R218): their encodings; the interrupt of their type with the next
instruction as saved IP; INTO with OF = 0 does nothing. -/
def Obligations.InterruptSequence : Prop :=
  (∀ (s : State) (t : Byte) (rest : List Byte),
    decode (0xCD :: t :: rest) = .ok (.intType t, 2) ∧ decode (0xCC :: rest) = .ok (.int3, 1) ∧ decode (0xCE :: rest) = .ok (.into, 1)
      ∧ exec (.intType t) s = .next (interrupt t s.ip s) ∧ exec .int3 s = .next (interrupt 3 s.ip s)
      ∧ (s.flags.of = true → exec .into s = .next (interrupt 4 s.ip s)) ∧ (s.flags.of = false → exec .into s = .next s))
  ∧ ∀ (s : State) (t : Byte) (savedIp : Word), s.Ordinary →
    let slot (k : Nat) : List Nat := s.stackBytes (s.get .sp - BitVec.ofNat 16 k)
    let entry := 4 * t.toNat
    let u := interrupt t savedIp s
    let before (a : Nat) : Byte := if a ∈ slot 6 then s.mem.read a else u.mem.read a
    u = { s with
        regs := s.regs.set .sp (s.get .sp - 6)
        flags := { s.flags with ie := false, tf := false }
        segs := { s.segs with cs := before (entry + 3) ++ before (entry + 2) }
        ip := BitVec.ofNat 16 (u.mem.number [entry, entry + 1])
        mem := u.mem
        fresh := s.fresh + 1 }
      ∧ Flags.ofImage (BitVec.ofNat 16 (u.mem.number (slot 2))) = s.flags ∧ u.mem.number (slot 4) = s.segs.cs.toNat
      ∧ u.mem.number (slot 6) = savedIp.toNat ∧ MemoryKeptOutside (slot 2 ++ slot 4 ++ slot 6) s u

/-- An instruction of the 80186,188 on an 8086,88 is refused, and never on an 80186,188 (U8, D11; log 14). The unused opcodes (R270;
30_encoding.md R64) take interrupt type 6 on the 80186,188, the saved IP at the instruction's first byte (D21, log 20), and are
refused on the 8086,88 (U7, D11; log 14). -/
def Obligations.InstructionsOfOnePart : Prop :=
  (∀ (i : Instr) (s : State), needs186 i = true → i.wellFormed = true →
    (s.is186 = false → exec i s = .refused .opcodeOf80186) ∧ (s.is186 = true → ∃ t, exec i s = .next t))
  ∧ ∀ (s : State) (rm : Rm),
    ∀ i ∈ [Instr.unused63, .unused64, .unused65, .unused66, .unused67, .unusedF1, .unusedFE7 rm, .unusedFF7 rm],
      (s.is186 = true → exec i s = .next (interrupt 6 s.ctl.firstIp s)) ∧ (s.is186 = false → exec i s = .refused .unusedOpcode)

/-- IRET (44_control_transfer.md R219): IP, CS and the nine flags from the stack, SP up by 6; a change of IF from 0 to 1 delays INTR by
one instruction (R261); on the 80186,188 DHLT is cleared (61_186_peripherals.md R584). So an interrupt procedure that keeps SP and its
stack returns to the saved IP with registers, segment registers and all nine flags as they were (R253, R254). -/
def Obligations.InterruptReturn : Prop :=
  encode .iret = [0xCF] ∧ ∀ s : State, s.Ordinary →
    let word (k : Nat) : Word := BitVec.ofNat 16 (s.mem.number (s.stackBytes (s.get .sp + BitVec.ofNat 16 k)))
    let f := Flags.ofImage (word 4)
    exec .iret s = .next { s with
      regs := s.regs.set .sp (s.get .sp + 6)
      ip := word 0
      segs := { s.segs with cs := word 2 }
      flags := f
      ctl := { s.ctl with intrDelay := s.ctl.intrDelay || (f.ie && !s.flags.ie) }
      pcb := if s.is186 then { s.pcb with ic := { s.pcb.ic with dhlt := false } } else s.pcb }
    ∧ ∀ (t : Byte) (savedIp ip cs : Word) (g : Flags),
      Gives (exec .iret { interrupt t savedIp s with ip := ip, segs := { s.segs with cs := cs }, flags := g }) fun u =>
        u.ip = savedIp ∧ u.regs = s.regs ∧ u.segs = s.segs ∧ u.flags = s.flags

/-- The boundary after an instruction is the sequence of R259: nothing under `int_inhibit`; else NMI, then INTR if IF is still set and
`intr_delay` is not, then the single-step trap; the holds last one boundary (R261). Taking NMI clears its latch and on the 80186,188 sets
DHLT (R257, 61_186_peripherals.md R584). The trap is due when TF was set when the instruction began, whatever the instruction does to TF,
and not after a WAIT (R265). Three points are derived, not words of those rules: that the holds also hold the first test inside the next
instruction (heldAll, heldIntr; log 17, DEDUCED); that between two test cycles of a WAIT the offset saved is that of the instruction's
first byte (firstIp; decision D19, log 20, DEDUCED); that after HLT with TF set the trap comes at once and the CPU does not halt (R259's
own [derived] reading). -/
def Obligations.RecognitionOrder : Prop :=
  (∀ (s : State) (savedIp : Word), takeNmi savedIp s = interrupt 2 savedIp { s with
      ctl := { s.ctl with nmiPending := false }
      pcb := if s.is186 then { s.pcb with ic := { s.pcb.ic with dhlt := true } } else s.pcb })
  ∧ (∀ (s : State) (trap : Bool),
    let done : State := { s with ctl := { s.ctl with phase := .fresh, latches := .none } }
    let release (u : State) : State := { u with ctl := { u.ctl with
      intInhibit := false, intrDelay := false, heldAll := s.ctl.intInhibit, heldIntr := s.ctl.intrDelay } }
    boundary trap s =
      if s.ctl.intInhibit then release done
      else
        let a := if done.ctl.nmiPending then takeNmi s.ip done else done
        let b := if a.intrLevel && a.flags.ie && !a.ctl.intrDelay then interrupt (intAck a).1 a.ip (intAck a).2 else a
        if trap then interrupt 1 b.ip (release b) else release b)
  ∧ (∀ (i : Instr) (s t : State), exec i s = .next t →
      t.ctl.tfSampled = s.ctl.tfSampled ∧ t.ctl.nmiPending = s.ctl.nmiPending ∧ t.ctl.firstIp = s.ctl.firstIp
        ∧ t.ctl.heldAll = s.ctl.heldAll ∧ t.ctl.heldIntr = s.ctl.heldIntr)
  ∧ ∀ (i : Instr) (s : State),
    (s.ctl.phase = .fresh → i ≠ .wait → i ≠ .fwait → afterItem i s = boundary s.ctl.tfSampled s)
      ∧ (s.ctl.phase = .fresh → i = .wait ∨ i = .fwait → afterItem i s = boundary false s)
      ∧ (s.ctl.phase = .halted → afterItem i s =
          if s.ctl.tfSampled then boundary true s else { s with ctl := { s.ctl with latches := .none } })
      ∧ (s.ctl.phase = .prefixed ∨ s.ctl.phase = .repeating → afterItem i s = s)
      ∧ (s.ctl.phase = .waiting → afterItem i s = (midItem s.ctl.firstIp false s).2)

/-- A prefix byte (30_encoding.md R56, R57; 43_string.md R162; 46_processor_control.md R240) only sets its latch: F0H, F2H, F3H, and the
segment overrides 26H, 2EH, 36H, 3EH, which are the spec's general knowledge (G1; PRESUMED, log 23); nothing is recognized between it and
its instruction (R259), and the instruction that follows finds the latch. That it is an item of its own is DEDUCED (log 13); that the last
of a kind is in effect and the others stay is decision D10 (log 13). -/
def Obligations.PrefixesLatch : Prop :=
  (∀ sr : SReg, encode (.segPrefix sr) = [(1 : BitVec 3) ++ sr.bits ++ (6 : BitVec 3)]) ∧ encode .lockPrefix = [0xF0]
  ∧ encode (.repPrefix false) = [0xF2] ∧ encode (.repPrefix true) = [0xF3]
  ∧ ∀ (s : State) (n : Nat),
    (∀ sr, Gives (exec (.segPrefix sr) s) fun t =>
      t = { s with ctl := t.ctl } ∧ afterItem (.segPrefix sr) t = t
        ∧ (∀ d, (t.enter n).segFor d = s.segs.get sr) ∧ (t.enter n).ctl.latches = { s.ctl.latches with seg := some sr })
    ∧ (∀ z, Gives (exec (.repPrefix z) s) fun t =>
      t = { s with ctl := t.ctl } ∧ afterItem (.repPrefix z) t = t ∧ (t.enter n).ctl.latches = { s.ctl.latches with rep := some z })
    ∧ Gives (exec .lockPrefix s) fun t =>
      t = { s with ctl := t.ctl } ∧ afterItem .lockPrefix t = t ∧ (t.enter n).ctl.latches = { s.ctl.latches with lock := true }
        ∧ t.busFree = false

/-- While the CPU is halted a step changes nothing until NMI, or INTR with IF = 1, is there; then it goes to the boundary
(R259; 46_processor_control.md R237). Inside a repeated string instruction or a WAIT the test is R259's too, without its own single-step
test: the holds of the instruction before count for the first one; NMI first, then INTR with IF = 1; a taken interrupt ends the
instruction for now, and a trap that is due follows it (D16, log 17); else nothing changes. The saved IP before a repetition (R163, R254)
is the first prefix byte on the 80186,188, the one before the opcode on the 8086,88 (log 17). -/
def Obligations.RecognitionInsideInstructions : Prop :=
  (∀ s : State, s.moves = [] → s.iopHolds = false → s.dmaFirst = none → s.ctl.phase = .halted → s.stop = none →
    (s.ctl.nmiPending = false → (s.intrLevel = false ∨ s.flags.ie = false) → step s = .next s)
      ∧ (s.ctl.nmiPending = true ∨ (s.intrLevel = true ∧ s.flags.ie = true) → step s = settle (.next (boundary false s))))
  ∧ (∀ s : State, s.repeatIp = if s.is186 then s.ctl.firstIp else s.ctl.opIp - 1)
  ∧ ∀ (s : State) (savedIp : Word) (trap : Bool),
    let looked : State := { s with ctl := { s.ctl with heldAll := false, heldIntr := false } }
    let taken (u : State) : Bool × State :=
      let v : State := { u with ctl := { u.ctl with phase := .fresh, latches := .none } }
      (true, if trap then interrupt 1 v.ip v else v)
    midItem savedIp trap s =
      if s.ctl.heldAll then (false, looked)
      else if s.ctl.nmiPending then taken (takeNmi savedIp looked)
      else if s.intrLevel && s.flags.ie && !s.ctl.heldIntr then taken (interrupt (intAck looked).1 savedIp (intAck looked).2)
      else (false, looked)

/-! ## Processor control, 46_processor_control.md, and high-level instructions, 45_high_level_186.md -/

/-- LAHF and SAHF (40_data_transfer.md R104, R105): SF, ZF, AF, PF, CF are bits 7, 6, 4, 2, 0 of AH, the other bits LAHF stores are free
(log 4). The flag operations, HLT, NOP and WAIT (R230 to R238, R241; 48_npx_8087_instructions.md R423): STI delays INTR when IF was 0
(R261; D18, log 19); WAIT with TEST inactive goes on to its next test cycle, one for each step (log 7), until TEST is active; meanwhile
a running 8087 operation completes (log 35), unless LOCK keeps the 8087 off a bus it needs (47_npx_8087_state.md R313, log 60). -/
def Obligations.ProcessorControl : Prop :=
  (∀ p ∈ [((0x9F : Byte), Instr.lahf), (0x9E, .sahf), (0xF8, .clc), (0xF5, .cmc), (0xF9, .stc), (0xFC, .cld), (0xFD, .std), (0xFA, .cli),
      (0xFB, .sti), (0xF4, .hlt), (0x9B, .wait), (0x90, .nop)], ∀ rest, decode (p.1 :: rest) = .ok (p.2, 1))
  ∧ ∀ s : State,
    (∃ b : Byte, b.getLsbD 7 = s.flags.sf ∧ b.getLsbD 6 = s.flags.zf ∧ b.getLsbD 4 = s.flags.af ∧ b.getLsbD 2 = s.flags.pf
      ∧ b.getLsbD 0 = s.flags.cf ∧ exec .lahf s = .next { s.set8 .ah b with fresh := s.fresh + 1 })
      ∧ exec .sahf s = .next { s with flags := { s.flags with
          sf := (s.get .ax).getLsbD 15, zf := (s.get .ax).getLsbD 14, af := (s.get .ax).getLsbD 12, pf := (s.get .ax).getLsbD 10,
          cf := (s.get .ax).getLsbD 8 } }
      ∧ exec .clc s = .next { s with flags := { s.flags with cf := false } } ∧ exec .stc s = .next { s with flags := { s.flags with cf := true } }
      ∧ exec .cmc s = .next { s with flags := { s.flags with cf := !s.flags.cf } }
      ∧ exec .cld s = .next { s with flags := { s.flags with df := false } } ∧ exec .std s = .next { s with flags := { s.flags with df := true } }
      ∧ exec .cli s = .next { s with flags := { s.flags with ie := false } }
      ∧ exec .sti s = .next { s with
          flags := { s.flags with ie := true }, ctl := { s.ctl with intrDelay := s.ctl.intrDelay || !s.flags.ie } }
      ∧ exec .hlt s = .next { s with ctl := { s.ctl with phase := .halted } } ∧ exec .nop s = .next s
      ∧ ∀ i ∈ [Instr.wait, .fwait],
          (s.testActive = true → exec i s = .next s)
            ∧ (s.testActive = false →
                let u := if s.npx.running = none ∨ (s.ctl.latches.lock = true ∧ s.npx.needsBus = true) then s else npxComplete s
                exec i s = .next { u with ip := s.ctl.opIp, ctl := { s.ctl with phase := .waiting } })

/-- ENTER and LEAVE (R220 to R223): ENTER stores the old BP, BP becomes that word's offset, SP is below `level` frame pointers, of which
the last is the new BP and the others are the words below the old BP, each read when the pushes before it are made, and `size` bytes;
LEAVE is SP from BP and BP popped, so it undoes ENTER. BOUND (R224): a signed register between the two words of the operand, both
included, goes on; else interrupt type 5 with the next instruction as saved IP (60_exceptions.md R269, C4). With the encodings. -/
def Obligations.HighLevelInstructions : Prop :=
  (∀ (size : Word) (level : Byte), encode (.enter size level) = [0xC8, size.lo, size.hi, level]) ∧ encode .leave = [0xC9]
  ∧ (∀ (r : Reg) rm, encode (.bound r rm) = 0x62 :: encodeModRm r.bits rm)
  ∧ ∀ (s : State) (size : Word) (level : Byte), s.Ordinary → s.is186 = true →
    (Gives (exec (.enter size level) s) fun t =>
      let slot (k : Nat) : List Nat := s.stackBytes (s.get .sp - BitVec.ofNat 16 (2 * k + 2))
      let seen (k a : Nat) : Byte := if (List.range k).any (fun j => (slot j).contains a) then t.mem.read a else s.mem.read a
      t = { s with
          regs := (s.regs.set .bp (s.get .sp - 2)).set .sp (s.get .sp - 2 - BitVec.ofNat 16 (2 * level.toNat) - size)
          mem := t.mem }
        ∧ t.mem.number (slot 0) = (s.get .bp).toNat
        ∧ (∀ k : Nat, 0 < k → k < level.toNat →
            (slot k).map t.mem.read = (s.stackBytes (s.get .bp - BitVec.ofNat 16 (2 * k))).map (seen k))
        ∧ (level ≠ 0 → t.mem.number (slot level.toNat) = (s.get .sp - 2).toNat)
        ∧ MemoryKeptOutside ((List.range (level.toNat + 1)).flatMap slot) s t
        ∧ Gives (exec .leave t) fun u => u.regs = s.regs)
    ∧ exec .leave s = .next { s with
        regs := (s.regs.set .sp (s.get .bp + 2)).set .bp (BitVec.ofNat 16 (s.mem.number (s.stackBytes (s.get .bp)))) }
    ∧ ∀ (r : Reg) (rm : Rm), rm.wellFormedMem = true →
      let bound (k : Word) : Int := (BitVec.ofNat 16 (s.mem.number (operandBytes s.is186 .word (eaSeg s rm) (eaOff s rm + k)))).toInt
      (bound 0 ≤ (s.get r).toInt ∧ (s.get r).toInt ≤ bound 2 → exec (.bound r rm) s = .next s)
        ∧ (¬(bound 0 ≤ (s.get r).toInt ∧ (s.get r).toInt ≤ bound 2) → exec (.bound r rm) s = .next (interrupt 5 s.ip s))

/-! ## Invariants and the whole step -/

/-- Every step keeps memory, and the 8089's private I/O space, in canonical form within 20 address bits (20_memory.md R30; log 3). -/
def Obligations.StepKeepsMemoryCanonical : Prop :=
  ∀ s t : State, s.MemoryCanonical → step s = .next t → t.MemoryCanonical

/-- Every step keeps the fixed bits of the control block as the spec fixes them (61_186_peripherals.md R535 to R538, R546, R563, R577). -/
def Obligations.StepKeepsHardWiredBits : Prop :=
  ∀ s t : State, s.pcb.HardWired → step s = .next t → t.pcb.HardWired

/-- After every step in which the CPU stands at an instruction's first byte or is halted, no prefix is latched (30_encoding.md R56). -/
def Obligations.StepLeavesNoStalePrefix : Prop :=
  ∀ s t : State, s.NoStalePrefix → step s = .next t → t.NoStalePrefix

/-- What RESET leaves (10_state.md R29; 70_reset_and_hazards.md R290, R291; 61_186_peripherals.md R532, R540, R595; 47_npx_8087_state.md R317;
49_iop_8089.md R451): flags, IP, segment registers, latches, relocation register, chip selects, the DMA channels stopped, the interrupt
controller, the words of the 8087, the 8089 idle and not initialized. CW = 03FFH is the spec's own general knowledge G8 (log 36); memory's
canonical form is the model's, log 3; LMCS, MMCS, PACS and MPCS, which R291 and R540 leave undefined, are 0 under their fixed bits by the
model's DESIGN CHOICE, log 29. The invariants hold there; and RESET at any time between steps gives the same values, the configuration
staying, and memory too unless an 8087 store is running. That a RESET move also keeps the 8087's registers R[0] to R[7] and its exception
pointers is the model's DESIGN CHOICE (logs 36 and 7): R317 calls them unspecified after power-on RESET. -/
def Obligations.ResetValues : Prop :=
  let values (t : State) : Prop :=
    t.flags = Flags.clear ∧ t.ip = 0 ∧ t.segs = { es := 0, cs := 0xFFFF, ss := 0, ds := 0 }
      ∧ (t.ctl.nmiPending = false ∧ t.ctl.intInhibit = false ∧ t.ctl.intrDelay = false ∧ t.ctl.phase = .fresh ∧ t.ctl.latches = .none)
      ∧ t.pcb.reloc = 0x20FF ∧ t.pcb.cs = ⟨0xFFFB, 0x0038, 0x01F8, 0x0038, 0x8038, false, false, false, false⟩
      ∧ t.pcb.dma0.ctl.getLsbD 1 = false ∧ t.pcb.dma1.ctl.getLsbD 1 = false
      ∧ (∀ u : IcSrc, t.pcb.ic.ctl u = 0x000F)
      ∧ t.pcb.ic = { t.pcb.ic with prm := 7, isr := 0, reqDma := 0, irt := 0, edge := 0, dhlt := false }
      ∧ t.npx.cw = 0x03FF ∧ t.npx.sw &&& 0xB8BF = 0 ∧ t.npx.tw = 0xFFFF ∧ t.npx.running = none ∧ t.npx.queued = none
      ∧ t.iop.initialized = false ∧ t.iop.initCa = none
      ∧ ∀ ch, (t.chan ch).ca = false ∧ (t.chan ch).activity = .idle ∧ (t.chan ch).locked = false ∧ (t.chan ch).sintr = false
  (values State.reset ∧ State.reset.MemoryCanonical ∧ State.reset.pcb.HardWired ∧ State.reset.NoStalePrefix
    ∧ State.reset.npx.BusyWithRequest) ∧
  ∀ (s : State) (rest : List Move), s.moves = .reset :: rest → s.stop = none →
    Gives (step s) fun t =>
      values t ∧ (s.npx.running = none → t.mem = s.mem) ∧ t.cfg = s.cfg ∧ t.moves = rest
        ∧ t.npx.r = s.npx.r ∧ t.npx.xip = s.npx.xip ∧ t.npx.xop = s.npx.xop ∧ t.npx.xopc = s.npx.xopc

/-- Every step keeps the 8087's rule that it is BUSY whenever it requests an interrupt (47_npx_8087_state.md R318, D27), with what it rests
on: while an operation runs, BUSY is set and no request stands, and only the two stores R315 names wait behind it. -/
def Obligations.StepKeepsBusyWithRequest : Prop :=
  ∀ s t : State, s.npx.BusyWithRequest → step s = .next t → t.npx.BusyWithRequest

/-- A step changes no configuration, consumes exactly the first move of the schedule and leaves no refusal pending (log 7). No move of the
platform or of another agent, RESET apart, changes a register, a segment register, IP or a flag of the CPU, or the hidden control
state but for the NMI latch (70_reset_and_hazards.md R307; 20_memory.md R42). What each move does, moves being the model's convention
(log 7): the CPU's own step, which a locked transfer of the 8089 holds up (R521); RESET, also in the middle of a step, when each byte of
memory is as it was or as that step leaves it (R290; log 66); the NMI latch (R257); levels and types on pins; an access of another master
to memory or a port, while neither LOCK nor a locked transfer keeps the bus, or turns of other masters that wait to come between the
CPU's bus cycles (R307): then a word that the CPU reads in two cycles can be half as it was and half as such a turn leaves it, but not
under LOCK (R43), nor, by HOLD or RQ/GT, when the cycles are the halves of a word at an odd address (R276; that a bus arbiter lets a
master in there is DEDUCED, log 7); a byte that a device presents (R47); timer pins and clocks (R561), INT0 to INT3
(R578), DMA; an attention of the 8089 (R456), and a step of the channel that the scheduler lets run (R463): its attention, an
instruction or a bus cycle of its transfer (log 54); completion of the 8087's operation (R315), which waits for a bus that it needs. An
agent that the machine does not have gives a fault. -/
def Obligations.MovesAndTheCpu : Prop :=
  (∀ s t : State, step s = .next t → t.cfg = s.cfg ∧ t.moves = s.moves.tail ∧ t.stop = none)
  ∧ (∀ (s t : State) (m : Move) (rest : List Move), s.moves = m :: rest → m ≠ .cpu → m ≠ .reset → (∀ a, m ≠ .resetDuring a) →
    step s = .next t →
    t.regs = s.regs ∧ t.segs = s.segs ∧ t.ip = s.ip ∧ t.flags = s.flags
      ∧ { t.ctl with nmiPending := s.ctl.nmiPending } = s.ctl ∧ (m ≠ .nmi → t.ctl = s.ctl))
  ∧ (∀ (s : State) (rest : List Move),
    let u : State := { s with moves := rest }
    let free : Bool := !s.ctl.latches.lock && !s.iopHolds
    let does (m : Move) (v : State) : Prop := s.moves = m :: rest → step s = settle (.next v)
    let asks (present : Bool) (m : Move) (v : State) : Prop :=
      (present = true → does m v) ∧ (present = false → s.moves = m :: rest → step s = .fault .noSuchAgent)
    (s.iopHolds = true ↔ s.cfg.hasIop = true ∧ ∃ ch, (s.chan ch).activity = .transfer ∧ (s.chan ch).locked = true)
    ∧ (s.moves = [] → step s = settle (cpuStep s)) ∧ (s.moves = .cpu :: rest → step s = settle (cpuStep u))
    ∧ (s.iopHolds = true → cpuStep s = .next s)
    ∧ does .reset (resetMachine u)
    ∧ (∀ a, s.moves = .resetDuring a :: rest →
      let own : State := { s with moves := (match a with
        | .cpu => .cpu
        | .dma ch => .dma ch
        | .iop ch => .iop ch
        | .npx => .npx) :: rest }
      (¬Runs own → step s = step own) ∧ ∀ t, step own = .next t → step s = .next (resetMachine (abandon u t))
        ∧ (s.mem.wf = true → ∀ b, (abandon u t).mem.read b = s.mem.read b ∨ (abandon u t).mem.read b = t.mem.read b))
    ∧ does .nmi { u with ctl := { s.ctl with nmiPending := true } }
    ∧ (∀ level type, does (.intr level type) { u with pins := { s.pins with intr := level, intrType := type } })
    ∧ (∀ type, does (.cascadeType false type) { u with pins := { s.pins with inta0Type := type } }
      ∧ does (.cascadeType true type) { u with pins := { s.pins with inta1Type := type } })
    ∧ (∀ level, does (.test level) { u with pins := { s.pins with test := level } })
    ∧ (∀ c, does (.busAccess c) (if free then busAccess c u else u))
    ∧ (∀ p v, busAccess (.portWrite p v) s = s.event (.portWrite (p % 2 ^ 16) v)
      ∧ (presented s.io.inputs (p % 2 ^ 16) = some v → busAccess (.portRead p) s = s.event (.portRead (p % 2 ^ 16) v)))
    ∧ (∀ a v, s.Ordinary → busAccess (.read a) s = s ∧ Stored [a % 2 ^ 20] v.toNat s (busAccess (.write a v) s))
    ∧ (∀ turns, does (.busTurns turns) { u with turns := turns })
    ∧ (∀ (a a2 : Phys) (hold : Bool) (x y : Byte), s.Ordinary →
      let v : State := { s with turns := [⟨hold, []⟩, ⟨hold, [.write a.toNat x, .write a2.toNat y]⟩] }
      let between : Prop := free = true ∧ if a.getLsbD 0 then hold = false else s.cfg.wide = false
      (between → (memRead16 a a2 v).1 = Word.mk y (s.mem.read a.toNat) ∧ (memRead16 a a2 v).2.turns = [])
        ∧ (¬between → (memRead16 a a2 v).1 = Word.mk (s.mem.read a2.toNat) (s.mem.read a.toNat) ∧ (memRead16 a a2 v).2.turns ≠ []))
    ∧ (∀ p v, does (.portInput p v) { u with io := { s.io with inputs := present s.io.inputs p v } }
      ∧ asks s.cfg.hasIop (.remoteInput p v) { u with iop := { s.iop with remoteIn := present s.iop.remoteIn (p % 2 ^ 16) v } }
      ∧ ∀ cells q, presented (present cells p v) q = if q = p then some v else presented cells q)
    ∧ (∀ level, asks s.is186 (.drq false level) { u with pcb := { s.pcb with dma0 := { s.pcb.dma0 with drq := level } } }
      ∧ asks s.is186 (.drq true level) { u with pcb := { s.pcb with dma1 := { s.pcb.dma1 with drq := level } } })
    ∧ (∀ k level, asks s.is186 (.timerPin k level) { u with pcb := s.pcb.timerPin k level })
    ∧ asks s.is186 .clock { u with pcb := s.pcb.clock }
    ∧ (∀ k level, asks s.is186 (.intPin k level) { u with pcb := { s.pcb with ic := s.pcb.ic.setPin k.toNat level } })
    ∧ (∀ ch, asks s.is186 (.dma ch) (if free && s.pcb.dmaWins ch && !s.dmaHalted then dmaTransfer ch u else u))
    ∧ (∀ ch, asks s.cfg.hasIop (.ca ch) { u with iop := { s.iop.setChan ch { s.chan ch with ca := true } with
        initCa := if s.iop.initialized then s.iop.initCa else some (s.iop.initCa.getD ch) } })
    ∧ (∀ ch, asks s.cfg.hasIop (.iop ch) (if s.ctl.latches.lock then u else iopStep ch u))
    ∧ (∀ ch level, asks s.cfg.hasIop (.iopDrq ch level) { u with iop := s.iop.setChan ch { s.chan ch with drq := level } }
      ∧ asks s.cfg.hasIop (.iopExt ch level) { u with iop := s.iop.setChan ch { s.chan ch with ext := level } })
    ∧ asks s.cfg.hasNpx .npx (if free || !s.npx.needsBus then npxComplete u else u))
  ∧ ∀ (s : State) (ch : Bool),
    let c := s.chan ch
    let checks : Prop := c.activity = .transfer ∧ ∃ h, c.hold = some h ∧ h.stage = .check
    (iopRuns ch s = false → iopStep ch s = s)
      ∧ (iopRuns ch s = true → ∀ v : State, (checks → v = s) → (¬checks → v = { s with iop := { s.iop with lastTwo := ch } }) →
        iopStep ch s = if c.attends then iopAttention ch v
          else if c.activity = .transfer then iopTransfer ch v
          else if c.activity = .idle then v else iopInstruction ch v)

/-! ## The 8087, 46_processor_control.md R239, 47_npx_8087_state.md, 48_npx_8087_instructions.md -/

/-- ESC on the CPU's side (R239; 60_exceptions.md R271): with ET set an 80186,188 takes interrupt type 7, the saved IP at the segment override
byte or the ESC; else, without an 8087 and on ordinary memory, an ESC changes nothing. -/
def Obligations.EscapesOfTheCpu : Prop :=
  ∀ (s : State) (i : Instr),
    ((∃ p ∈ npxMemoryForms, ∃ rm : Rm, rm.wellFormedMem = true ∧ i = p.1 rm) ∨ (∃ p ∈ npxStackForms, ∃ k, i = p.1 k)
      ∨ (∃ p ∈ npxFixedForms, i = p.1) ∨ ∃ x rm, i = .esc x rm) →
    (s.is186 = true → s.pcb.reloc.getLsbD 15 = true →
      exec i s = .next (interrupt 7 (match s.ctl.latches.seg with
        | some _ => s.ctl.segIp
        | none => s.ctl.opIp) s))
    ∧ (s.cfg.hasNpx = false → s.PlainMemory → (s.is186 = true → s.pcb.reloc.getLsbD 15 = false) → exec i s = .next s)

/-- The encoding of every 8087 instruction: 11011, the upper three bits of its ESC code; mod and r/m, or the register, around the lower
three (48_npx_8087_instructions.md R424: the spec's general knowledge D30, G11; PRESUMED, log 39). With an idle 8087, or a no-wait form
while an unmasked exception keeps BUSY (R311, R315, R316, R324): the 8087 starts the operation with the opcode bits of the encoding, the
address of the ESC opcode byte, not of a prefix before it (D28; DEDUCED, log 37), and for a memory form the operand's address and the
bytes that a load captures, the first word being the one the CPU reads. On a machine whose 8087 works on alone (R310, R315) a numeric
operation then stands as the running one, with BUSY and the exception pointers set; its completion, whatever else has happened meanwhile,
does what the run at the ESC does from the 8087's state before it (`raced`: another access has met its operand, R312, U21, log 62), so
that the statements about a run at the ESC say what a completion does; a queued FSTENV or FSAVE follows as if it came then (R315). That
completion is a move, or a step of WAIT, is the model's convention (log 35). -/
def Obligations.NpxReceivesTheOperation : Prop :=
  (∀ p ∈ npxMemoryForms, ∀ rm, encode (p.1 rm) = ((27 : BitVec 5) ++ p.2.1.extractLsb' 3 3) :: encodeModRm (p.2.1.extractLsb' 0 3) rm)
  ∧ (∀ p ∈ npxStackForms, ∀ k : BitVec 3,
      encode (p.1 k) = [(27 : BitVec 5) ++ p.2.1.extractLsb' 3 3, (3 : BitVec 2) ++ p.2.1.extractLsb' 0 3 ++ k])
  ∧ (∀ p ∈ npxFixedForms, encode p.1 = [(27 : BitVec 5) ++ p.2.1.extractLsb' 3 3, (3 : BitVec 2) ++ p.2.1.extractLsb' 0 3 ++ p.2.2.1])
  ∧ (∀ s : State, s.NpxStopped →
    let job (i : Instr) (op : NpxOp) (addr : Option Phys) (data : Nat) : NpxJob :=
      { op := op, opcode := ((encode i).getD 0 0).setWidth 3 ++ (encode i).getD 1 0, ip := phys s.segs.cs s.ctl.opIp, addr := addr
        data := BitVec.ofNat 80 data, raced := false }
    (∀ p ∈ npxMemoryForms, ∀ rm, rm.wellFormedMem = true → (s.npx.busy = false ∨ p.2.2.noWait = true) →
      let a := phys (eaSeg s rm) (eaOff s rm)
      exec (p.1 rm) s = .next (npxStart (job (p.1 rm) p.2.2 (some a) (s.npxOperand p.2.2.loads rm)) s))
    ∧ (∀ p ∈ npxStackForms, ∀ k, s.npx.busy = false → exec (p.1 k) s = .next (npxStart (job (p.1 k) (p.2.2 k) none 0) s))
    ∧ ∀ p ∈ npxFixedForms, (s.npx.busy = false ∨ p.2.2.2.noWait = true) → exec p.1 s = .next (npxStart (job p.1 p.2.2.2 none 0) s))
  ∧ (∀ (s : State) (j : NpxJob), s.cfg.npxOverlap = true → j.op.immediate = false → s.npx.running = none → s.npx.queued = none →
    let n := s.npx
    let started : Npx :=
      { n with sw := n.sw ||| 0x8000, xip := j.ip, xopc := j.opcode, xop := j.addr.getD n.xop, running := some j }
    npxStart j s = { s with npx := started }
      ∧ ∀ (v : State) (r : Bool),
        let k : NpxJob := { j with raced := r }
        v.npx = { started with running := some k } →
          npxComplete v = { npxStart k { v with cfg := { v.cfg with npxOverlap := false }, npx := n } with cfg := v.cfg })
  ∧ ∀ (v : State) (q : NpxJob), v.npx.running ≠ none → v.npx.queued = some q → q.op = .stenv ∨ q.op = .save →
    npxComplete v = npxStart q (npxComplete { v with npx := { v.npx with queued := none } })

/-- The register stack (R320, R338 rows 1, 2 and 16, R350 to R354, R384, R385, R400 to R406, R419 to R422): what the constants, FLD, FST, FSTP,
FXCH, FABS, FCHS, FINCSTP, FDECSTP, FFREE and FNOP do to the registers, the top and the tags, each run at its ESC: an empty register
is invalid, masked it counts as the indefinite; a push onto a full stack is invalid, masked it pushes the indefinite (D33); FLD ST(i) of
a denormal raises D; the CPU and memory are untouched. That FLD ST(i), FXCH, FABS and FCHS raise nothing else for any operand, a NaN
included, is decision D32, that FST ST(i) does not look at its destination's tag D34 (D32 to D34 DEDUCED, log 41). The bits of the
irrational constants are the spec's general knowledge (G12, log 45). -/
def Obligations.NpxStackOperations : Prop :=
  ∀ s : State, s.NpxReady →
    let gives (i : Instr) (p : Npx → Prop) : Prop := Gives (exec i s) fun t => NpxOnly s t ∧ p t.npx
    let n := s.npx
    let quiet (i : Instr) (p : Npx → Prop) : Prop := gives i fun m => NpxReplies n m 0 ∧ p m
    let same (m : Npx) (k : BitVec 3) : Prop := m.reg k = n.reg k ∧ m.tag k = n.tag k
    let invalid : NpxAnswer := ⟨npxIndef, 1, 0⟩
    (∀ p ∈ [(Instr.fldz, (0 : TempReal)), (.fld1, 0x3FFF8000000000000000), (.fldpi, 0x4000C90FDAA22168C235),
        (.fldl2t, 0x4000D49A784BCD1B8AFE), (.fldl2e, 0x3FFFB8AA3B295C17F0BC), (.fldlg2, 0x3FFD9A209A84FBCFF799),
        (.fldln2, 0x3FFEB17217F7D1CF79AC)],
      gives p.1 fun m => NpxPushes n m 0 p.2)
    ∧ (∀ i, gives (.fldSti i) fun m =>
        if n.isEmpty i then NpxPushes n m 1 npxIndef else NpxPushes n m (if realClass (n.st i) = .denormal then 2 else 0) (n.st i))
    ∧ (∀ i, n.isEmpty 0 = false →
      (quiet (.fstSti i) fun m => m.top = n.top ∧ m.st i = n.st 0 ∧ m.tag (n.phys i) = n.tag n.top ∧ ∀ k, k ≠ n.phys i → same m k)
      ∧ quiet (.fstpSti i) fun m => m.top = n.top + 1 ∧ m.isEmpty 7 = true
          ∧ (i ≠ 0 → m.st (i - 1) = n.st 0 ∧ m.tag (n.phys i) = n.tag n.top) ∧ ∀ k, k ≠ n.phys i → k ≠ n.top → same m k)
    ∧ (∀ i, n.isEmpty 0 = true →
      (gives (.fstSti i) fun m => NpxDelivers n m i false invalid) ∧ gives (.fstpSti i) fun m => NpxDelivers n m i true invalid)
    ∧ (∀ i, let value (k : BitVec 3) : TempReal := if n.isEmpty k then npxIndef else n.st k
        let tag (k : BitVec 3) : BitVec 2 := if n.isEmpty k then 2 else n.tag (n.phys k)
        let e : BitVec 6 := if n.isEmpty 0 ∨ n.isEmpty i then 1 else 0
        gives (.fxchSti i) fun m => NpxReplies n m e
          ∧ if unmasked n.cw e ≠ 0 then NpxStackKept n m
            else m.top = n.top ∧ m.st 0 = value i ∧ m.tag n.top = tag i ∧ m.st i = value 0 ∧ m.tag (n.phys i) = tag 0
              ∧ ∀ k, k ≠ n.phys i → k ≠ n.top → same m k)
    ∧ (n.isEmpty 0 = false →
      (quiet .fabs fun m => m.top = n.top ∧ m.st 0 = n.st 0 &&& ~~~(1#80 <<< 79) ∧ m.tw = n.tw ∧ ∀ k, k ≠ n.top → same m k)
      ∧ quiet .fchs fun m => m.top = n.top ∧ m.st 0 = n.st 0 ^^^ 1#80 <<< 79 ∧ m.tw = n.tw ∧ ∀ k, k ≠ n.top → same m k)
    ∧ (n.isEmpty 0 = true → ∀ i ∈ [Instr.fabs, .fchs], gives i fun m => NpxDelivers n m 0 false invalid)
    ∧ (quiet .fincstp fun m => m.top = n.top + 1 ∧ m.tw = n.tw ∧ m.r = n.r)
    ∧ (quiet .fdecstp fun m => m.top = n.top - 1 ∧ m.tw = n.tw ∧ m.r = n.r)
    ∧ (∀ i, quiet (.ffreeSti i) fun m => m.top = n.top ∧ m.isEmpty i = true ∧ m.r = n.r ∧ ∀ k, k ≠ n.phys i → same m k)
    ∧ quiet .fnop fun m => m.top = n.top ∧ m.tw = n.tw ∧ m.r = n.r

/-- The control instructions (R408 to R413), which run at their ESC, when no operation runs: FINIT, FCLEX, FENI, FDISI and FSTCW and FSTSW,
which store the word with its reserved bits free (U24, log 46), while an unmasked exception keeps BUSY too (R316): FINIT and FCLEX clear
BUSY and IR, the others leave them, and of the word that FSTSW stores then only B = 1 is fixed (U23, log 46). FLDCW with an idle 8087 (its
reserved bits stay; a flag that the new word unmasks sets IR and B, R318; that B is 0 with IR = 0 is DEDUCED, log 62). FINIT's CW = 03FFH
is the spec's general knowledge G8 (log 36), its 0 in the reserved bit 6 of SW the model's DESIGN CHOICE (log 36). SW stays but for C3 to
C0 (U25). -/
def Obligations.NpxControlWords : Prop :=
  ∀ s : State, s.Ordinary → s.NpxStopped →
    let gives (i : Instr) (p : Npx → Prop) : Prop := Gives (exec i s) fun t => t = { s with npx := t.npx, fresh := t.fresh } ∧ p t.npx
    let n := s.npx
    (gives .finit fun m => m.cw = 0x03FF ∧ m.tw = 0xFFFF ∧ m.sw &&& 0xB8FF = 0 ∧ m.r = n.r ∧ m.xip = n.xip ∧ m.xop = n.xop)
      ∧ (gives .fclex fun m => m = { n with sw := n.sw &&& 0x7F40 })
      ∧ (gives .feni fun m => m.cw = n.cw &&& 0xFF7F ∧ m.sw &&& 0xB8FF = n.sw &&& 0xB8FF ∧ m.tw = n.tw ∧ m.r = n.r)
      ∧ (gives .fdisi fun m => m.cw = n.cw ||| 0x0080 ∧ m.sw &&& 0xB8FF = n.sw &&& 0xB8FF ∧ m.tw = n.tw ∧ m.r = n.r)
      ∧ ∀ rm, rm.wellFormedMem = true →
        let a := phys (eaSeg s rm) (eaOff s rm)
        let operand : Word := BitVec.ofNat 16 (s.npxOperand 2 rm)
        (n.busy = false → gives (.fldcw rm) fun m => m.cw &&& 0x1FBF = operand &&& 0x1FBF ∧ m.cw &&& 0xE040 = n.cw &&& 0xE040 ∧ m.tw = n.tw ∧ m.r = n.r
            ∧ m.sw &&& 0x387F = n.sw &&& 0x387F ∧ m.sw.getLsbD 15 = m.sw.getLsbD 7
            ∧ (m.sw.getLsbD 7 = true ↔ n.sw.getLsbD 7 = true ∨ ∃ k < 6, n.sw.getLsbD k = true ∧ operand.getLsbD k = false))
          ∧ (Gives (exec (.fstcw rm) s) fun t => ∃ v : Word, v &&& 0x1FBF = n.cw &&& 0x1FBF
              ∧ Stored (bytesFrom 2 a) v.toNat s { t with npx := s.npx, fresh := s.fresh }
              ∧ t.npx = { n with sw := t.npx.sw } ∧ t.npx.sw &&& 0xB8FF = n.sw &&& 0xB8FF)
          ∧ Gives (exec (.fstsw rm) s) fun t => ∃ v : Word, (if n.busy then v.getLsbD 15 = true else v &&& 0xFFBF = n.sw &&& 0xFFBF)
              ∧ Stored (bytesFrom 2 a) v.toNat s { t with npx := s.npx, fresh := s.fresh }
              ∧ t.npx = { n with sw := t.npx.sw } ∧ t.npx.sw &&& 0xB8FF = n.sw &&& 0xB8FF

/-- The end of an operation (R318, R319, R337), and the arithmetic instructions with an idle 8087, run at their ESC (R360 to R380, R382): FADD,
FSUB, FMUL, FDIV, their reversed, popping and integer forms, FSQRT, FSCALE, FRNDINT. The flags raised are added to SW; one that is
unmasked sets IR and keeps BUSY; the answer of the operation on destination and source goes to the destination register with its tag,
the popping forms pop, and nothing else changes; a source or destination tagged empty is invalid (R338 row 1). A register's operand is
its number, a denormal's the equivalent unnormal, marked (R340). What the answers are, the statements that follow say. -/
def Obligations.NpxArithmeticForms : Prop :=
  (∀ (n : Npx) (e : BitVec 6),
    let m := Npx.finish (n, e)
    m = { n with sw := m.sw } ∧ m.sw &&& 0x7F40 = n.sw &&& 0x7F40 ∧ NpxReplies n m e)
  ∧ (∀ v : TempReal,
    let o := regOperand v
    (realClass v ≠ .denormal → o = ⟨v, false⟩)
      ∧ (realClass v = .denormal → o.den = true ∧ realClass o.v = (if realSig v < 2 ^ 63 then .unnormal else .normal)
          ∧ realNeg o.v = realNeg v ∧ realSig o.v = realSig v ∧ realQ o.v = realQ v))
  ∧ ∀ s : State, s.NpxReady →
    let n := s.npx
    let x (k : BitVec 3) : NpxOperand := regOperand (n.st k)
    let gives (i : Instr) (d : BitVec 3) (pop none : Bool) (a : TempReal → NpxAnswer) : Prop :=
      Gives (exec i s) fun t => NpxOnly s t ∧ ∃ fr, NpxDelivers n t.npx d pop (if none then ⟨npxIndef, 1, 0⟩ else a fr)
    (∀ p ∈ npxMemoryForms, ∀ op f, p.2.2 = .arithMem op f → ∀ rm, rm.wellFormedMem = true →
      gives (p.1 rm) 0 false (n.isEmpty 0) fun fr =>
        arith n.cw fr op f.isInt (x 0) (loadOperand fr f (BitVec.ofNat 80 (s.npxOperand f.bytes rm))))
    ∧ (∀ p ∈ npxStackForms, ∀ k op, p.2.2 k = .arithSt op k →
      gives (p.1 k) 0 false (n.isEmpty 0 || n.isEmpty k) fun fr => arith n.cw fr op false (x 0) (x k))
    ∧ (∀ p ∈ npxStackForms, ∀ k op pop, p.2.2 k = .arithSti op k pop →
      gives (p.1 k) k pop (n.isEmpty k || n.isEmpty 0) fun fr => arith n.cw fr op false (x k) (x 0))
    ∧ gives .fsqrt 0 false (n.isEmpty 0) (fun fr => sqrtAnswer n.cw fr (x 0))
    ∧ gives .frndint 0 false (n.isEmpty 0) (fun _ => rndintAnswer n.cw (n.st 0))
    ∧ gives .fscale 0 false (n.isEmpty 0 || n.isEmpty 1) (fun fr => scaleAnswer n.cw fr (n.st 0) (n.st 1))

/-- Rounding (R322, R332): bits 11 and 10 of CW choose the mode; dropping `d` bits of a magnitude keeps an exact one; else the nearer
neighbour, on a tie the even one; toward minus infinity, toward plus infinity, or toward 0. The six operations on normals and zeros (R333,
R335, R337 to R340, R342): the exact sum, difference, product or quotient rounded to the precision of PC with the masked or unmasked
response of R339; an exact zero has its sign from the operands or RC (R342). On infinities (R343), a division by zero, NaNs (R344),
denormals (D, R337) and unnormal divisors: the answer of Table 6-30. Products of unnormals (R341): one with more than 64 leading zero
bits in total, and one with a pseudo-zero, is a pseudo-zero; its exponent is free and raises nothing, the first raises P (DESIGN CHOICE,
DEDUCED, log 43). PC applies to these operations alone (D29), PC = 01 is taken as 64 bits (U26; log 38), the 24576 of an unmasked overflow
is G10 (log 48). -/
def Obligations.NpxArithmeticResults : Prop :=
  (∀ (neg : Bool) (m d : Nat),
    let n (rc : Rounding) : Nat := (roundDrop rc neg m d).1
    let lost (rc : Rounding) : Bool := (roundDrop rc neg m d).2
    (∀ rc, (lost rc = false ↔ n rc * 2 ^ d = m) ∧ n rc * 2 ^ d < m + 2 ^ d ∧ m < n rc * 2 ^ d + 2 ^ d)
      ∧ 2 * (n .nearest * 2 ^ d) ≤ 2 * m + 2 ^ d ∧ 2 * m ≤ 2 * (n .nearest * 2 ^ d) + 2 ^ d
      ∧ (2 * (n .nearest * 2 ^ d) = 2 * m + 2 ^ d ∨ 2 * m = 2 * (n .nearest * 2 ^ d) + 2 ^ d → n .nearest % 2 = 0)
      ∧ n .chop * 2 ^ d ≤ m ∧ (if neg then m ≤ n .down * 2 ^ d else n .down * 2 ^ d ≤ m)
      ∧ (if neg then n .up * 2 ^ d ≤ m else m ≤ n .up * 2 ^ d)
      ∧ ∀ cw : Word, rounding cw = if cw.getLsbD 11 then (if cw.getLsbD 10 then .chop else .up) else if cw.getLsbD 10 then .down else .nearest)
  ∧ ∀ (cw : Word) (fr : TempReal) (int : Bool) (d s : TempReal),
    let p : Nat := if cw.getLsbD 8 then 64 else if cw.getLsbD 9 then 53 else 24
    let ans (op : NpxArith) : NpxAnswer := arith cw fr op int ⟨d, false⟩ ⟨s, false⟩
    let finite (v : TempReal) : Prop := realClass v = .normal ∨ realClass v = .zero
    let signs : Bool := realNeg d != realNeg s
    let exactZero : Bool := decide (rounding cw = .down)
    let sum (op : NpxArith) (x y : TempReal) (yNeg : Bool) : Prop :=
      let q := realQ x + (if yNeg = realNeg y then 1 else -1) * realQ y
      if q ≠ 0 then DeliversNumber cw p q (ans op)
      else ans op = ⟨npxZero (if realClass x = .zero ∧ realClass y = .zero ∧ realNeg x = yNeg then yNeg else exactZero), 0, 0⟩
    let quotient (op : NpxArith) (x y : TempReal) : Prop :=
      (finite x → finite y →
        if realQ y ≠ 0 then
          (if realQ x ≠ 0 then DeliversNumber cw p (realQ x / realQ y) (ans op) else ans op = ⟨npxZero signs, 0, 0⟩)
        else if realQ x ≠ 0 then ans op = ⟨npxInf signs, 4, 0⟩ else ans op = ⟨npxIndef, 1, 0⟩)
      ∧ (realClass x = .infinity → realClass y = .infinity → ans op = ⟨npxIndef, 1, 0⟩)
      ∧ (realClass x = .infinity → finite y → ans op = ⟨npxInf signs, 0, 0⟩)
      ∧ (finite x → realClass y = .infinity → ans op = ⟨npxZero signs, 0, 0⟩)
      ∧ (realClass x ≠ .nan → realClass y = .unnormal → ans op = ⟨npxIndef, 1, 0⟩)
    (finite d → finite s → sum .add d s (realNeg s) ∧ sum .sub d s (!realNeg s) ∧ sum .subr s d (!realNeg d)
      ∧ if realQ d * realQ s ≠ 0 then DeliversNumber cw p (realQ d * realQ s) (ans .mul) else ans .mul = ⟨npxZero signs, 0, 0⟩)
    ∧ quotient .div d s ∧ quotient .divr s d
    ∧ (∀ p ∈ [(NpxArith.add, realNeg d, realNeg s), (.sub, realNeg d, !realNeg s), (.subr, !realNeg d, realNeg s)],
      (realClass d = .infinity → finite s → ans p.1 = ⟨npxInf p.2.1, 0, 0⟩)
      ∧ (finite d → realClass s = .infinity → ans p.1 = ⟨npxInf p.2.2, 0, 0⟩)
      ∧ (realClass d = .infinity → realClass s = .infinity →
          ans p.1 = if cw.getLsbD 12 ∧ p.2.1 = p.2.2 then ⟨npxInf p.2.1, 0, 0⟩ else ⟨npxIndef, 1, 0⟩))
    ∧ (realClass d = .infinity ∨ realClass s = .infinity → realClass d ≠ .nan → realClass s ≠ .nan →
        ans .mul = if realClass d = .zero ∨ realClass s = .zero then ⟨npxIndef, 1, 0⟩ else ⟨npxInf signs, 0, 0⟩)
    ∧ (let pseudoZero (e : BitVec 6) : Prop := ∃ f, 1 ≤ f ∧ f ≤ 0x7FFE ∧ ans .mul = ⟨packReal signs f 0, 0, e⟩
      (∀ j k : Nat, realClass d = .unnormal → realClass s = .unnormal → realSig d ≠ 0 → realSig s ≠ 0 →
        realSig d < 2 ^ (64 - j) → realSig s < 2 ^ (64 - k) → 64 < j + k → pseudoZero 0x20)
      ∧ ((realClass d = .unnormal ∧ realSig d = 0 ∧ realClass s ∈ [.normal, .unnormal]
          ∨ realClass s = .unnormal ∧ realSig s = 0 ∧ realClass d ∈ [.normal, .unnormal]) → pseudoZero 0))
    ∧ (∀ op, (realClass d = .nan → (realClass s ≠ .nan ∨ realMag s < realMag d) → ans op = ⟨d, 1, 0⟩)
      ∧ (realClass s = .nan → (realClass d ≠ .nan ∨ realMag d < realMag s) → ans op = ⟨s, 1, 0⟩))
    ∧ ∀ op (a b : NpxOperand), a.den = true ∨ b.den = true →
      (cw.getLsbD 1 = false → (arith cw fr op int a b).before = 2)
        ∧ (cw.getLsbD 1 = true → realClass a.v ≠ .nan → realClass b.v ≠ .nan →
          (op = .div ∧ b.den = true ∨ op = .divr ∧ a.den = true → arith cw fr op int a b = ⟨npxIndef, 1, 0⟩)
            ∧ (op ≠ .div → op ≠ .divr → realClass a.v ≠ .infinity → realClass b.v ≠ .infinity → (arith cw fr op int a b).before = 2))

/-- FSQRT (R379): the square root of a positive normal rounded to the precision of PC, of a denormal D and then I; FRNDINT (R382): a
finite number rounded to an integer, the sign kept; FSCALE (R380): a normal times a power of 2, the response of R339 to overflow and
underflow; FPREM (R381): the exact remainder, cut to the precision of PC when normalized, with the quotient's low bits in C0, C3, C1 (D31,
G16; PRESUMED, log 40), or a smaller one that is congruent (U36, log 40); FXTRACT (R383): exponent and significand, of a denormal -16383
and its own, and what a fault of the operand gives (DEDUCED, log 62); with a full stack besides, masked, R383 gives no details, and that
the operand's response replaces the old top and the indefinite is pushed is the model's (DESIGN CHOICE, log 62). The special operands of
each as its rule says; of two NaNs the larger (R344). C2 = 0 after FPREM of a NaN or an empty register is not in R381 (DESIGN CHOICE, log 40). Not words of those rules: PC = 01,
reserved, is taken as 64 bits (U26; DESIGN CHOICE, log 38); FSCALE raises P only with a masked overflow or a masked underflow that loses
bits and keeps an unnormal as it is (DEDUCED, log 62); an unmasked overflow of FSCALE subtracts 24576 from the exponent (the spec's
general knowledge G10; PRESUMED, log 48). -/
def Obligations.NpxFunctions : Prop :=
  (∀ (cw : Word) (fr : TempReal) (v : TempReal),
    let p : Nat := if cw.getLsbD 8 then 64 else if cw.getLsbD 9 then 53 else 24
    let a := sqrtAnswer cw fr ⟨v, false⟩
    let q := realQ v
    let u : ℚ := 2 ^ (Int.log 2 q / 2 + 1 - p)
    let r := realQ a.value
    (realClass v = .normal → realNeg v = false →
      realClass a.value = .normal ∧ 0 < r ∧ a.before = 0 ∧ a.after = inexact (r * r ≠ q) ∧ (r - u) ^ 2 < q ∧ q < (r + u) ^ 2
        ∧ ∃ k : ℤ, r = k * u ∧ match rounding cw with
          | .nearest => (r - u / 2) ^ 2 ≤ q ∧ q ≤ (r + u / 2) ^ 2 ∧ ((r - u / 2) ^ 2 = q ∨ q = (r + u / 2) ^ 2 → k % 2 = 0)
          | .up => q ≤ r ^ 2
          | _ => r ^ 2 ≤ q)
      ∧ (realClass v = .zero → a = ⟨v, 0, 0⟩) ∧ (realClass v = .nan → a = ⟨v, 1, 0⟩)
      ∧ (realClass v = .infinity → a = if cw.getLsbD 12 ∧ realNeg v = false then ⟨v, 0, 0⟩ else ⟨npxIndef, 1, 0⟩)
      ∧ (realClass v = .denormal →
          let b := sqrtAnswer cw fr (regOperand v)
          b.after = 0 ∧ if cw.getLsbD 1 then b.before = 3 ∧ b.value = npxIndef else b.before = 2)
      ∧ (realClass v = .unnormal ∨ (realClass v = .normal ∧ realNeg v = true) → a = ⟨npxIndef, 1, 0⟩))
  ∧ (∀ (cw : Word) (v : TempReal),
    let a := rndintAnswer cw v
    (realClass v ∈ [.normal, .unnormal, .denormal] →
      IsRounded (rounding cw) 1 (realQ v) (realQ a.value) ∧ realNeg a.value = realNeg v ∧ realClass a.value ∈ [.normal, .zero]
        ∧ a.before = 0 ∧ a.after = inexact (realQ a.value ≠ realQ v))
      ∧ (realClass v ∈ [.zero, .infinity] → a = ⟨v, 0, 0⟩) ∧ (realClass v = .nan → a = ⟨v, 1, 0⟩))
  ∧ (∀ (cw : Word) (fr v x : TempReal) (k : ℤ),
    let a := scaleAnswer cw fr v x
    (realClass x ≠ .nan → realClass x ≠ .infinity → |(k : ℚ) - realQ x| < 1 → |(k : ℚ)| ≤ |realQ x| → 0 ≤ (k : ℚ) * realQ x →
      (k = 0 → realQ x = 0) → -32768 ≤ realQ x → realQ x < 32768 →
      (realClass v = .normal → 2 ^ (-40958 : ℤ) ≤ |realQ v| * 2 ^ k → |realQ v| * 2 ^ k < 2 ^ (40960 : ℤ) →
        DeliversNumber cw 64 (realQ v * 2 ^ k) a)
      ∧ (realClass v = .unnormal → 1 ≤ realField v + k → realField v + k ≤ 0x7FFE → -16382 ≤ (realValue v).exponent + k ∨ realSig v = 0 →
        a = ⟨packReal (realNeg v) (realField v + k).toNat (realSig v), 0, 0⟩)
      ∧ (realClass v = .zero ∨ realClass v = .infinity → a = ⟨v, 0, 0⟩))
    ∧ (realClass x = .infinity → realClass v ≠ .nan → a = if realClass v = .zero then ⟨v, 0, 0⟩ else ⟨npxIndef, 1, 0⟩)
    ∧ (realClass v = .nan → (realClass x ≠ .nan ∨ realMag x < realMag v) → a = ⟨v, 1, 0⟩)
    ∧ (realClass x = .nan → (realClass v ≠ .nan ∨ realMag v < realMag x) → a = ⟨x, 1, 0⟩))
  ∧ (∀ (cw : Word) (fr : TempReal) (z : Nat) (v m : TempReal) (dn : Bool), realClass v = .normal ∨ realClass v = .unnormal → realSig v ≠ 0 →
    realClass m = .normal → dn = false ∨ cw.getLsbD 1 = true →
    let p : Nat := if cw.getLsbD 8 then 64 else if cw.getLsbD 9 then 53 else 24
    let a := premAnswer cw fr z ⟨v, dn⟩ ⟨m, false⟩
    ∃ (k : Nat) (r : ℚ), |realQ v| = k * |realQ m| + r ∧ 0 ≤ r
      ∧ (if Int.log 2 |realQ v| < Int.log 2 |realQ m| + 64 then a.complete = true ∧ r < |realQ m| ∧ a.quotient = some (k % 8)
        else a.complete = false ∧ r < |realQ v|)
      ∧ a.ans.before = (if dn then 2 else 0) ∧ a.ans.after = (if 0 < r ∧ r < 2 ^ (-16382 : ℤ) then 0x10 else 0)
      ∧ realNeg a.ans.value = realNeg v ∧ (r = 0 → realClass a.ans.value = .zero)
      ∧ (0 < r → a.ans.after = 0 → IsRounded .chop (lastPlace p r) r |realQ a.ans.value|)
      ∧ (a.ans.after ≠ 0 → cw.getLsbD 4 = true → |realQ a.ans.value| = r))
  ∧ (∀ (cw : Word) (fr : TempReal) (z : Nat) (a m : NpxOperand),
    let p := premAnswer cw fr z a m
    let d : BitVec 6 := if a.den ∨ m.den then 2 else 0
    let ends (e : BitVec 6) (v : TempReal) : Prop := p = ⟨⟨v, e, 0⟩, true, none⟩
    (d = 2 → cw.getLsbD 1 = false → p.ans.before = 2)
    ∧ (d = 0 ∨ cw.getLsbD 1 = true →
      (realClass a.v = .nan → (realClass m.v ≠ .nan ∨ realMag m.v < realMag a.v) → ends 1 a.v)
      ∧ (realClass m.v = .nan → (realClass a.v ≠ .nan ∨ realMag a.v < realMag m.v) → ends 1 m.v)
      ∧ (realClass a.v ≠ .nan → realClass m.v ≠ .nan →
        (m.den = true ∨ realClass m.v ∈ [.unnormal, .zero] ∨ realClass a.v = .infinity → ends 1 npxIndef)
        ∧ (m.den = false → realClass m.v = .infinity → realClass a.v ≠ .infinity → ends d a.v)
        ∧ (m.den = false → realClass m.v = .normal → realClass a.v = .zero → ends d a.v))))
  ∧ ∀ s : State, s.NpxReady →
    let n := s.npx
    let v := n.st 0
    (n.isEmpty 0 = false → n.isEmpty 1 = false → Gives (exec .fprem s) fun t => NpxOnly s t ∧ ∃ fr z,
      let a := premAnswer n.cw fr z (regOperand v) (regOperand (n.st 1))
      NpxDelivers n t.npx 0 false a.ans
        ∧ (unmasked n.cw a.ans.before = 0 → t.npx.sw.getLsbD 10 = !a.complete
          ∧ ∀ k, a.quotient = some k → t.npx.sw.getLsbD 8 = k.testBit 2 ∧ t.npx.sw.getLsbD 14 = k.testBit 1 ∧ t.npx.sw.getLsbD 9 = k.testBit 0))
    ∧ ((n.isEmpty 0 = true ∨ n.isEmpty 1 = true) → Gives (exec .fprem s) fun t => NpxOnly s t ∧ NpxDelivers n t.npx 0 false ⟨npxIndef, 1, 0⟩)
    ∧ Gives (exec .fxtract s) fun t => NpxOnly s t ∧ ∃ (e : BitVec 6) (x y : TempReal),
        (if n.isEmpty 0 then e = 1 ∧ x = npxIndef ∧ y = npxIndef
        else match realClass v with
          | .nan => e = 1 ∧ x = v ∧ y = v
          | .infinity => e = 1 ∧ x = npxIndef ∧ y = npxIndef
          | .zero => e = 0 ∧ x = v ∧ y = v
          | _ => e = 0 ∧ realQ x = (realField v : ℚ) - 16383 ∧ realClass x ∈ [.normal, .zero] ∧ y = packReal (realNeg v) 0x3FFF (realSig v))
        ∧ NpxReplacesAndPushes n t.npx e 0 x y

/-- FPTAN, FPATAN, F2XM1, FYL2X, FYL2XP1 with an idle 8087, run at their ESC (R346, R394 to R398): FPTAN replaces the angle and pushes, the three
on two operands write ST(1) and pop; an empty register, and a push onto a full stack, are invalid (R350, U32). In range the results depend
on the operands alone (`npx_fn`, U33), a zero gives F2XM1 itself, and of the exceptions only those of the instruction's list come (free:
log 44); out of range the results are free and nothing is raised (U32, log 44). The angle pi/4 itself is out of range (C38). That an empty
angle, masked, gives the indefinite twice is the model's (DESIGN CHOICE, log 44): R394 gives no X for it. -/
def Obligations.NpxTranscendentals : Prop :=
  ∀ s : State, s.NpxReady →
    let n := s.npx
    let x := n.st 0
    let y := n.st 1
    let normal (v : TempReal) : Prop := realClass v = .normal
    let number (v : TempReal) : Prop := realClass v = .normal ∨ realClass v = .zero
    let result (inRange : Prop) (allowed : BitVec 6) (f : NpxFn) (a b r : TempReal) (e : BitVec 6) : Prop :=
      e &&& ~~~allowed = 0 ∧ (inRange → r = npxFunction f a b) ∧ (¬inRange → e = 0)
    let two (i : Instr) (f : NpxFn) (inRange : Prop) (allowed : BitVec 6) : Prop :=
      Gives (exec i s) fun t => NpxOnly s t ∧ ∃ r e, result inRange allowed f y x r e
        ∧ NpxDelivers n t.npx 1 true (if n.isEmpty 0 ∨ n.isEmpty 1 then ⟨npxIndef, 1, 0⟩ else ⟨r, 0, e⟩)
    two .fpatan .patan (normal x ∧ normal y ∧ 0 < realQ y ∧ realQ y < realQ x) 0x30
    ∧ two .fyl2x .yl2x (normal x ∧ 0 < realQ x ∧ number y) 0x20
    ∧ two .fyl2xp1 .yl2xp1 (normal x ∧ number y ∧ |realQ x| < 1 ∧ 1 < 2 * (1 - |realQ x|) ^ 2) 0x20
    ∧ (Gives (exec .f2xm1 s) fun t => NpxOnly s t ∧ ∃ r e,
        (if realClass x = .zero then r = x ∧ e = 0 else result (normal x ∧ 0 < realQ x ∧ realQ x ≤ 1 / 2) 0x30 .f2xm1 x x r e)
          ∧ NpxDelivers n t.npx 0 false (if n.isEmpty 0 then ⟨npxIndef, 1, 0⟩ else ⟨r, 0, e⟩))
    ∧ Gives (exec .fptan s) fun t => NpxOnly s t ∧ ∃ r q e,
        let inRange : Prop := number x ∧ (normal x → 0 < realQ x) ∧ realQ x < realQ 0x3FFEC90FDAA22168C235
        result inRange 0x20 .ptanY x x r e ∧ (inRange → q = npxFunction .ptanX x x)
          ∧ if n.isEmpty 0 then NpxReplacesAndPushes n t.npx 1 0 npxIndef npxIndef else NpxReplacesAndPushes n t.npx 0 e r q

/-- FCOM, FCOMP, FCOMPP, FICOM, FICOMP, FTST with an idle 8087 (R386 to R392): C3, C2, C0 tell the order of ST and the source, a popping form
pops; an unmasked exception leaves the stack as it was. The order of two numbers, of infinities by the closure, unordered with a
NaN or an empty register; a denormal raises D. FXAM (R393): C3, C2, C1, C0 tell class and sign. No register's value changes. That an
unnormal other than a pseudo-zero raises D as well is the model's (log 43, DEDUCED from the table of R338): R386 names denormals. -/
def Obligations.NpxComparisons : Prop :=
  (∀ (cw : Word) (a b : NpxOperand),
    let c := compareAnswer cw a b
    let odd (o : NpxOperand) : Prop := o.den = true ∨ (realClass o.v = .unnormal ∧ realSig o.v ≠ 0)
    let d : BitVec 6 := if comparesDenormal a || comparesDenormal b then 2 else 0
    (comparesDenormal a = true ↔ odd a)
    ∧ (odd a ∨ odd b → cw.getLsbD 1 = false → c.before = 2)
    ∧ (¬(odd a ∨ odd b) ∨ cw.getLsbD 1 = true →
      (realClass a.v = .nan ∨ realClass b.v = .nan → c = ⟨none, 1⟩)
      ∧ (realClass a.v ≠ .nan → realClass b.v ≠ .nan →
        (realClass a.v ≠ .infinity → realClass b.v ≠ .infinity →
          c = ⟨some (if realQ a.v < realQ b.v then .lt else if realQ b.v < realQ a.v then .gt else .eq), d⟩)
        ∧ (cw.getLsbD 12 = false → realClass a.v = .infinity ∨ realClass b.v = .infinity →
          c = if realClass a.v = .infinity ∧ realClass b.v = .infinity then ⟨some .eq, d⟩ else ⟨none, 1 ||| d⟩)
        ∧ (cw.getLsbD 12 = true → realClass a.v = .infinity → realClass b.v = .infinity →
          c = ⟨some (if realNeg a.v = realNeg b.v then .eq else if realNeg a.v then .lt else .gt), d⟩)
        ∧ (cw.getLsbD 12 = true → realClass a.v = .infinity → realClass b.v ≠ .infinity → c = ⟨some (if realNeg a.v then .lt else .gt), d⟩)
        ∧ (cw.getLsbD 12 = true → realClass a.v ≠ .infinity → realClass b.v = .infinity → c = ⟨some (if realNeg b.v then .gt else .lt), d⟩))))
  ∧ ∀ s : State, s.NpxReady →
    let n := s.npx
    let gives (i : Instr) (pops : Nat) (none? : Bool) (c : TempReal → CompareAnswer) : Prop :=
      Gives (exec i s) fun t => NpxOnly s t ∧ t.npx.r = n.r ∧ ∃ fr,
        let c := if none? then ⟨none, 1⟩ else c fr
        NpxReplies n t.npx c.before
          ∧ if unmasked n.cw c.before ≠ 0 then NpxStackKept n t.npx ∧ t.npx.order = n.order
            else t.npx.top = n.top + BitVec.ofNat 3 pops
              ∧ (∀ k : Nat, k < 8 → t.npx.tag (n.phys (BitVec.ofNat 3 k)) = if k < pops then 3 else n.tag (n.phys (BitVec.ofNat 3 k)))
              ∧ t.npx.order = match c.order with
                | some .gt => (false, false, false)
                | some .lt => (false, false, true)
                | some .eq => (true, false, false)
                | none => (true, true, true)
    (∀ p ∈ npxMemoryForms, ∀ f pop, p.2.2 = .compareMem f pop → ∀ rm, rm.wellFormedMem = true →
      gives (p.1 rm) pop.toNat (n.isEmpty 0) fun fr =>
        compareAnswer n.cw (regOperand (n.st 0)) (loadOperand fr f (BitVec.ofNat 80 (s.npxOperand f.bytes rm))))
    ∧ (∀ p ∈ npxStackForms, ∀ k pops, p.2.2 k = .compareSt k pops →
      gives (p.1 k) pops (n.isEmpty 0 || n.isEmpty k) fun _ => compareAnswer n.cw (regOperand (n.st 0)) (regOperand (n.st k)))
    ∧ gives .fcompp 2 (n.isEmpty 0 || n.isEmpty 1) (fun _ => compareAnswer n.cw (regOperand (n.st 0)) (regOperand (n.st 1)))
    ∧ gives .ftst 0 (n.isEmpty 0) (fun _ => compareAnswer n.cw (regOperand (n.st 0)) ⟨npxZero false, false⟩)
    ∧ Gives (exec .fxam s) fun t => NpxOnly s t ∧ NpxStackKept n t.npx ∧ NpxReplies n t.npx 0
        ∧ if n.isEmpty 0 then t.npx.sw.getLsbD 14 = true ∧ t.npx.sw.getLsbD 8 = true
          else t.npx.sw.getLsbD 9 = realNeg (n.st 0) ∧ t.npx.order = match realClass (n.st 0) with
            | .unnormal => (false, false, false)
            | .nan => (false, false, true)
            | .normal => (false, true, false)
            | .infinity => (false, true, true)
            | .zero => (true, false, false)
            | .denormal => (true, true, false)

/-- FLD, FILD and FBLD from memory with an idle 8087 (R329 to R331, R351, R355, R358): the operand is pushed with its tag; a denormal raises D;
onto a full stack the indefinite is pushed (D33, log 41). A short or long real keeps its number, infinity its sign, a NaN its bits; a
denormal becomes the unnormal of the same number; a temporary real is loaded as it is; an integer of 16, 32 or 64 bits, and a packed
decimal whose digits are 0 to 9, load exactly, normalized, a zero with the packed decimal's sign. -/
def Obligations.NpxLoads : Prop :=
  (∀ bits ∈ [16, 32, 64], ∀ d : TempReal,
    let i : Int := (BitVec.ofNat bits d.toNat).toInt
    let v := fromInt bits d
    (i = 0 → v = 0)
      ∧ (i ≠ 0 → realClass v = .normal ∧ realNeg v = decide (i < 0) ∧ 16383 ≤ realField v ∧ realField v ≤ 16383 + 63
          ∧ realSig v = i.natAbs * 2 ^ (16383 + 63 - realField v)))
  ∧ (∀ (fr d : TempReal), loadOperand fr .int16 d = ⟨fromInt 16 d, false⟩ ∧ loadOperand fr .int32 d = ⟨fromInt 32 d, false⟩
    ∧ loadOperand fr .int64 d = ⟨fromInt 64 d, false⟩ ∧ (loadOperand fr .real80 d).den = decide (realClass d = .denormal)
    ∧ ((∀ k < 18, d.toNat / 16 ^ k % 16 < 10) →
        let v := (loadOperand fr .bcd d).v
        realClass v ∈ [.normal, .zero] ∧ realNeg v = d.getLsbD 79 ∧ (loadOperand fr .bcd d).den = false
          ∧ |realQ v| = ((List.range 18).map fun k => d.toNat / 16 ^ k % 16 * 10 ^ k).sum)
    ∧ ∀ p ∈ [(NpxFmt.real32, 8, 23), (.real64, 11, 52)],
        let o := loadOperand fr p.1 d
        let field := d.toNat / 2 ^ p.2.2 % 2 ^ p.2.1
        let frac := d.toNat % 2 ^ p.2.2
        realNeg o.v = decide (d.toNat / 2 ^ (p.2.1 + p.2.2) % 2 = 1)
          ∧ (field ≠ 2 ^ p.2.1 - 1 → realQ o.v = memQ p.2.1 p.2.2 (d.toNat % 2 ^ (p.2.1 + p.2.2 + 1))
            ∧ realClass o.v = (if field ≠ 0 then .normal else if frac = 0 then .zero else .unnormal) ∧ o.den = decide (field = 0 ∧ frac ≠ 0))
          ∧ (field = 2 ^ p.2.1 - 1 → realField o.v = 0x7FFF ∧ realSig o.v = 2 ^ 63 + frac * 2 ^ (63 - p.2.2) ∧ o.den = false))
  ∧ ∀ s : State, s.NpxReady → ∀ p ∈ npxMemoryForms, ∀ f, p.2.2 = .load f → ∀ rm, rm.wellFormedMem = true →
    Gives (exec (p.1 rm) s) fun t => NpxOnly s t ∧ ∃ fr,
      let d : TempReal := BitVec.ofNat 80 (s.npxOperand f.bytes rm)
      let o := loadOperand fr f d
      NpxPushes s.npx t.npx (if o.den then 2 else 0) (if f = .real80 then d else o.v)

/-- FST, FSTP, FIST, FISTP, FBSTP to memory with an idle 8087 (R352, R353, R356, R357, R359): the bytes written, pop, flags; an unmasked
exception found before the store leaves memory and stack as they were (R319), and then the indefinite goes nowhere; an empty or unsuitable
register masked stores the indefinite of the format. Short and long real: the number rounded to the format, with the responses of R338 and
R339; temporary real: the register's bits; integers: rounded by RC, or invalid out of range; packed decimal: the digits of the nearer
integer (between 1/4 and 3/4: either, D35, log 42). That FBSTP pops after a masked invalid too, as the prose of R359 says and its
pseudocode does not, is the model's (DESIGN CHOICE, log 42). The FFH in bytes 9 and 8 of the packed decimal indefinite are the spec's
general knowledge (G9; PRESUMED, log 47). That a short or long real store with an unmasked overflow or underflow, which stores nothing,
raises P too when the value is inexact is the model's (log 62, DEDUCED). -/
def Obligations.NpxStores : Prop :=
  (∀ p ∈ [(8, 23), (11, 52)], ∀ (cw : Word) (v : TempReal),
    let ones : Nat := (realNeg v).toNat * 2 ^ (p.1 + p.2) + (2 ^ p.1 - 1) * 2 ^ p.2
    (realClass v = .zero → storeReal cw p.1 p.2 v = ⟨(realNeg v).toNat * 2 ^ (p.1 + p.2), 0, 0⟩)
      ∧ (realClass v = .infinity → storeReal cw p.1 p.2 v = ⟨ones, 0, 0⟩)
      ∧ (realClass v = .nan → storeReal cw p.1 p.2 v = ⟨ones + realSig v / 2 ^ (63 - p.2) % 2 ^ p.2, 0, 0⟩)
      ∧ (realClass v = .unnormal → 2 ^ (1 - ((2 ^ (p.1 - 1) - 1 : Nat) : ℤ)) ≤ |realQ v| →
          storeReal cw p.1 p.2 v = ⟨(2 ^ (p.1 + 1) - 1) * 2 ^ p.2 + 2 ^ (p.2 - 1), 1, 0⟩)
      ∧ (realClass v = .unnormal → realSig v = 0 → storeReal cw p.1 p.2 v = ⟨(realNeg v).toNat * 2 ^ (p.1 + p.2), 0x10, 0⟩)
      ∧ (realClass v = .denormal →
          storeReal cw p.1 p.2 v = ⟨(realNeg v).toNat * 2 ^ (p.1 + p.2) + realSig v / 2 ^ (63 - p.2) % 2 ^ p.2, 0, 0⟩))
  ∧ (∀ p ∈ [(8, 23), (11, 52)], ∀ (cw : Word) (v : TempReal),
    let bias : Nat := 2 ^ (p.1 - 1) - 1
    let q := realQ v
    realClass v = .normal ∨ (realClass v = .unnormal ∧ realSig v ≠ 0 ∧ |q| < 2 ^ (1 - (bias : ℤ))) →
    let a := storeReal cw p.1 p.2 v
    let rc := rounding cw
    let sign : Nat := (realNeg v).toNat * 2 ^ (p.1 + p.2)
    a.value < 2 ^ (p.1 + p.2 + 1) ∧ a.value / 2 ^ (p.1 + p.2) = (realNeg v).toNat ∧ ∃ r, IsRounded rc (lastPlace (p.2 + 1) q) q r ∧
      if 2 ^ ((bias + 1 : Nat) : ℤ) ≤ |r| then
        if cw.getLsbD 3 then
          a = ⟨sign + (if rc = .down ∧ 0 < q ∨ rc = .up ∧ q < 0 then (2 ^ p.1 - 1) * 2 ^ p.2 - 1 else (2 ^ p.1 - 1) * 2 ^ p.2), 0,
            if rc = .down ∨ rc = .up then 0x20 else 0x28⟩
        else a.before = 0x08 ||| inexact (r ≠ q)
      else if |q| < 2 ^ (1 - (bias : ℤ)) then
        if cw.getLsbD 4 then
          IsRounded rc (2 ^ (1 - (bias : ℤ) - p.2)) q (memQ p.1 p.2 a.value) ∧ a.before = 0x10
            ∧ a.after = inexact (r ≠ q ∨ memQ p.1 p.2 a.value ≠ q)
        else a.before = 0x10 ||| inexact (r ≠ q)
      else memQ p.1 p.2 a.value = r ∧ a.before = 0 ∧ a.after = inexact (r ≠ q))
  ∧ (∀ bits ∈ [16, 32, 64], ∀ (cw : Word) (v : TempReal),
    let a := storeInt cw bits v
    let bad : Prop := a = ⟨2 ^ (bits - 1), 1, 0⟩
    (realClass v = .zero → a = ⟨0, 0, 0⟩) ∧ (realClass v ≠ .zero → realClass v ≠ .normal → bad)
      ∧ (realClass v = .normal → ∃ k : ℤ, IsRounded (rounding cw) 1 (realQ v) k ∧
        if -2 ^ (bits - 1) ≤ k ∧ k < 2 ^ (bits - 1) then
          a.value < 2 ^ bits ∧ (BitVec.ofNat bits a.value).toInt = k ∧ a.before = 0 ∧ a.after = inexact (k ≠ realQ v)
        else bad))
  ∧ (∀ fr v : TempReal,
    let a := storeBcd fr v
    let bad : Prop := a.before = 1 ∧ a.after = 0 ∧ a.value / 2 ^ 64 = 0xFFFF
    (realClass v ≠ .zero → realClass v ≠ .normal → bad)
      ∧ (realClass v = .zero ∨ realClass v = .normal → ∃ m : Nat, abs ((m : ℚ) - |realQ v|) < 1
        ∧ (∀ k : Nat, 4 * abs ((k : ℚ) - |realQ v|) ≤ 1 → m = k) ∧
        if m < 10 ^ 18 then a.before = 0 ∧ a.after = 0 ∧ a.value / 2 ^ 72 = (realNeg v).toNat * 128
          ∧ ∀ k < 18, a.value / 16 ^ k % 16 = m / 10 ^ k % 10
        else bad))
  ∧ (∀ (cw : Word) (fr v : TempReal),
    let real80 : StoreAnswer := ⟨v.toNat, 0, 0⟩
    [NpxFmt.real32, .real64, .real80, .int16, .int32, .int64, .bcd].map (fun f => storeAnswer cw fr f v)
        = [storeReal cw 8 23 v, storeReal cw 11 52 v, real80, storeInt cw 16 v, storeInt cw 32 v, storeInt cw 64 v, storeBcd fr v]
      ∧ [NpxFmt.real32, .real64, .real80, .int16, .int32, .int64].map (fmtIndef fr)
        = [0xFFC00000, 0xFFF8000000000000, 0xFFFFC000000000000000, 0x8000, 0x80000000, 0x8000000000000000]
      ∧ fmtIndef fr .bcd / 2 ^ 64 = 0xFFFF)
  ∧ ∀ s : State, s.NpxReady → s.Ordinary → ∀ p ∈ npxMemoryForms, ∀ f pop, p.2.2 = .store f pop → ∀ rm, rm.wellFormedMem = true →
    let n := s.npx
    Gives (exec (p.1 rm) s) fun t => ∃ fr,
      let a : StoreAnswer := if n.isEmpty 0 then ⟨fmtIndef fr f, 1, 0⟩ else storeAnswer n.cw fr f (n.st 0)
      if unmasked n.cw a.before ≠ 0 then NpxOnly s t ∧ NpxReplies n t.npx a.before ∧ NpxStackKept n t.npx
      else Stored (bytesFrom f.bytes (phys (eaSeg s rm) (eaOff s rm))) (a.value % 2 ^ (8 * f.bytes)) s { t with npx := n, fresh := s.fresh }
        ∧ NpxReplies n t.npx (a.before ||| a.after) ∧ t.npx.r = n.r ∧ t.npx.top = n.top + (if pop then 1 else 0)
        ∧ ∀ k, t.npx.tag k = if pop ∧ k = n.top then 3 else n.tag k

/-- The exception pointers (R324): every numeric and load or store instruction, and FLDCW, FENI, FDISI, leaves its ESC address and opcode
there, and its operand's address if it has one; the ones decision D28 names leave them (DEDUCED, log 37). FSTENV and FSAVE (R325, R415,
R417), when no operation runs, also while an unmasked exception keeps BUSY (R316): the 14 bytes of the environment, the 80 of the
registers in stack order; the reserved bits of CW and SW are free (U24, log 46); then every exception is masked, or the 8087 is as FINIT
leaves it, BUSY and IR clear (R317): that CW is then 03FFH is the spec's general knowledge G8 (PRESUMED, log 36), and that the reserved bit
6 of SW is then 0 is the model's (DESIGN CHOICE, log 36; R317 and D26 give it no value). FLDENV and FRSTOR (R416, R418) load them; an unmasked flag sets IR and BUSY (R318); that BUSY is then IR,
whatever the image's B, is DEDUCED (End, R350, D27; log 62). So FRSTOR after FSAVE gives the state back. -/
def Obligations.NpxImages : Prop :=
  ∀ s : State, s.NpxStopped → s.Ordinary →
    let n := s.npx
    let points (i : Instr) (op : NpxOp) (a : Option Phys) : Prop := n.busy = false ∨ op.noWait = true → Gives (exec i s) fun t =>
      t.npx.xip = phys s.segs.cs s.ctl.opIp ∧ t.npx.xopc = ((encode i).getD 0 0).setWidth 3 ++ (encode i).getD 1 0
        ∧ t.npx.xop = a.getD n.xop
    (∀ p ∈ npxMemoryForms, p.2.2 ∉ [.stenv, .save, .stcw, .stsw, .ldenv, .rstor] → ∀ rm, rm.wellFormedMem = true →
      points (p.1 rm) p.2.2 (some (phys (eaSeg s rm) (eaOff s rm))))
    ∧ (∀ p ∈ npxStackForms, ∀ k, points (p.1 k) (p.2.2 k) none)
    ∧ (∀ p ∈ npxFixedForms, p.2.2.2 ≠ .clex → p.2.2.2 ≠ .init → points p.1 p.2.2.2 none)
    ∧ ∀ rm, rm.wellFormedMem = true →
      let a := phys (eaSeg s rm) (eaOff s rm)
      let image (m : Memory) (k : Nat) : Word := BitVec.ofNat 16 (m.number (bytesFrom 2 (a + BitVec.ofNat 20 (2 * k))))
      let kept (m : Npx) : Prop := m.xip = n.xip ∧ m.xop = n.xop ∧ m.xopc = n.xopc ∧ m.r = n.r
      let environment (m : Memory) : Prop :=
        image m 0 &&& 0x1FBF = n.cw &&& 0x1FBF ∧ image m 1 &&& 0xFFBF = n.sw &&& 0xFFBF ∧ image m 2 = n.tw
          ∧ image m 3 = n.xip.setWidth 16 ∧ image m 4 = n.xip.extractLsb' 16 4 ++ (0 : BitVec 1) ++ n.xopc
          ∧ image m 5 = n.xop.setWidth 16 ∧ image m 6 = n.xop.extractLsb' 16 4 ++ (0 : BitVec 12)
      let loaded (m : Npx) : Prop :=
        -- the first word is the one the CPU reads, see `State.npxOperand`
        let cw : Word := BitVec.ofNat 16 (s.npxOperand 2 rm)
        m.cw &&& 0x1FBF = cw &&& 0x1FBF ∧ m.cw &&& 0xE040 = n.cw &&& 0xE040
          ∧ m.sw &&& 0x7F3F = image s.mem 1 &&& 0x7F3F
          ∧ (let trap : Prop := ∃ k < 6, (image s.mem 1).getLsbD k = true ∧ m.cw.getLsbD k = false
            (m.sw.getLsbD 7 = true ↔ (image s.mem 1).getLsbD 7 = true ∨ trap) ∧ m.sw.getLsbD 15 = m.sw.getLsbD 7)
          ∧ m.tw = image s.mem 2 ∧ m.xip = (image s.mem 4).extractLsb' 12 4 ++ image s.mem 3 ∧ m.xopc = (image s.mem 4).setWidth 11
          ∧ m.xop = (image s.mem 6).extractLsb' 12 4 ++ image s.mem 5
      (Gives (exec (.fstenv rm) s) fun t => environment t.mem ∧ MemoryKeptOutside (bytesFrom 14 a) s t
          ∧ kept t.npx ∧ t.npx.cw = n.cw ||| 0x003F ∧ t.npx.sw = n.sw ∧ t.npx.tw = n.tw
          ∧ t = { s with npx := t.npx, mem := t.mem, fresh := t.fresh })
        ∧ (Gives (exec (.fsave rm) s) fun t => environment t.mem ∧ MemoryKeptOutside (bytesFrom 94 a) s t
          ∧ (∀ k : Nat, k < 8 → t.mem.number (bytesFrom 10 (a + BitVec.ofNat 20 (14 + 10 * k))) = (n.st (BitVec.ofNat 3 k)).toNat)
          ∧ kept t.npx ∧ t.npx.cw = 0x03FF ∧ t.npx.sw &&& 0xB8FF = 0 ∧ t.npx.tw = 0xFFFF
          ∧ t = { s with npx := t.npx, mem := t.mem, fresh := t.fresh }
          ∧ (s.is186 = true ∨ eaOff s rm ≠ 0xFFFF → Gives (exec (.frstor rm) t) fun u =>
              kept u.npx ∧ u.npx.cw &&& 0x1FBF = n.cw &&& 0x1FBF ∧ u.npx.sw &&& 0x7F3F = n.sw &&& 0x7F3F
                ∧ u.npx.tw = n.tw))
        ∧ (n.busy = false → Gives (exec (.fldenv rm) s) fun t => NpxOnly s t ∧ loaded t.npx ∧ t.npx.r = n.r)
        ∧ (n.busy = false → Gives (exec (.frstor rm) s) fun t => NpxOnly s t ∧ loaded t.npx
          ∧ ∀ k : Nat, k < 8 → t.npx.st (BitVec.ofNat 3 k)
              = BitVec.ofNat 80 (s.mem.number (bytesFrom 10 (a + BitVec.ofNat 20 (14 + 10 * k)))))

/-! ## The integrated peripherals, 61_186_peripherals.md -/

/-- Where the control block lies (R531, R532): the 256 bytes the relocation register names, in memory or I/O space; a word access there,
after another master's turn if one waits (R307), is one of its registers. The relocation register reads as written and takes effect with the write. That a change of RMX leaves every register
of the interrupt controller and every edge latch as it was is the model's (DESIGN CHOICE, log 28): R594 does not describe it. The other
registers, written by OUT and read back by IN (R533, R535 to R538, R546, R547, R553, R561, R563, R576 to R584, R592): the bits that exist
as written, but ST/STOP only with CHG, EN only with INH, RIU only with ALT, the requests of the pins and the bits the spec fixes as they
are; of the upper pointer words the four bits that exist. The two lists of the interrupt controller are those of master and of iRMX 86
mode; that a write of 38H or 3AH in the latter clears the bits of master mode is the model's (DESIGN CHOICE, log 28). That the bits of the
DMA control word stand where R546 puts them (G5) and DHLT is bit 15 of register 30H (G6) is the spec's general knowledge (PRESUMED, log
30). What the chip-select registers mean (R534 to R538, Tables 5-3 to 5-7), for their legal values: the addresses at which UCS, LCS, MCS0
to MCS3 and PCS0 to PCS6 are active, and where PCS5 and PCS6 show address bits instead; all but UCS once their registers were accessed,
by a word read or write alike (R540). That lines with overlapping ranges are each active is the model's (DESIGN CHOICE, log 68). -/
def Obligations.ControlBlockReadsBack : Prop :=
  (∀ (s : State) (p : Word) (a : Phys),
    (s.pcbIo p = true ↔ s.is186 = true ∧ s.pcb.reloc.getLsbD 12 = false ∧ p.toNat / 256 = s.pcb.reloc.toNat % 4096)
      ∧ (s.pcbMem a = true ↔ s.is186 = true ∧ s.pcb.reloc.getLsbD 12 = true ∧ a.toNat / 256 = s.pcb.reloc.toNat % 4096)
      ∧ (s.pcbMem a = true → a.toNat % 2 = 0 → memRead16 a (a + 1) s = (s.yieldBus false).pcbRead (a.toNat % 256)
          ∧ ∀ v, memWrite16 a (a + 1) v s = (s.yieldBus false).pcbWrite (a.toNat % 256) v))
  ∧ (∀ (c : ChipSelects) (a : Phys),
    (∀ p ∈ [(0xFF, 1), (0xFE, 2), (0xFC, 4), (0xF8, 8), (0xF0, 16), (0xE0, 32), (0xC0, 64), (0x80, 128), (0x00, 256)],
      c.umcs.toNat / 64 = 768 + p.1 → (c.ucs a = true ↔ 2 ^ 20 - 1024 * p.2 ≤ a.toNat))
    ∧ (∀ p ∈ [(0x00, 1), (0x01, 2), (0x03, 4), (0x07, 8), (0x0F, 16), (0x1F, 32), (0x3F, 64), (0x7F, 128), (0xFF, 256)],
      c.lmcs.toNat / 64 = p.1 → (c.lcs a = true ↔ c.lmcsUsed = true ∧ a.toNat < 1024 * p.2))
    ∧ (∀ j < 7, c.mpcs.toNat / 256 % 128 = 2 ^ j →
      let size := 8192 * 2 ^ j
      let base := c.mmcs.toNat / 512 * 8192
      base % size = 0 → ∀ k < 4, (c.mcs k a = true ↔ c.mmcsUsed = true ∧ c.mpcsUsed = true
        ∧ base + k * (size / 4) ≤ a.toNat ∧ a.toNat < base + (k + 1) * (size / 4)))
    ∧ (let base := c.pacs.toNat / 64 * 1024
      ∀ (mem : Bool) (b : Nat), mem = true ∨ base < 2 ^ 16 → ∀ k < 7, (c.pcs k mem b = true ↔ c.pacsUsed = true ∧ c.mpcsUsed = true
        ∧ c.mpcs.getLsbD 6 = mem ∧ (5 ≤ k → c.mpcs.getLsbD 7 = true) ∧ base + 128 * k ≤ b ∧ b < base + 128 * k + 128))
    ∧ ∀ k, c.latchedAddress k a =
        if c.mpcs.getLsbD 7 = false ∧ c.pacsUsed = true ∧ c.mpcsUsed = true ∧ (k = 5 ∨ k = 6) then some (a.getLsbD (k - 4)) else none)
  ∧ ∀ s : State, s.turns = [] → s.pcbIo (s.get .dx) = true →
    let p := s.pcb
    let off := (s.get .dx).toNat % 256
    let v := s.get .ax
    let dmaCtl (old v : Word) : Word := v &&& 0xFFF9 ||| (if v.getLsbD 2 then v else old) &&& 0x0002
    let tmrMode (bits old v : Word) : Word := v &&& bits ||| (if v.getLsbD 14 then v else old) &&& 0x8000
    let alternating (old v : Word) : Word := if v.getLsbD 1 then old &&& 0x1000 else 0
    let plain : List (Nat × Word × (Word → Word)) :=
      [0x50, 0x52, 0x54, 0x58, 0x5A, 0x5C, 0x60, 0x62, 0xC0, 0xC4, 0xC8, 0xD0, 0xD4, 0xD8].map fun k => (k, 0xFFFF, id)
    let upper : List (Nat × Word × (Word → Word)) := [0xC2, 0xC6, 0xD2, 0xD6].map fun k => (k, 0x000F, fun v => v &&& 0x000F)
    let others : List (Nat × Word × (Word → Word)) :=
      [(0xA0, 0xFFFF, fun v => v ||| 0xC038), (0xA2, 0xFFFF, fun v => v &&& 0x3FFF ||| 0x0038), (0xA4, 0xFFFF, fun v => v ||| 0x0038),
        (0xA6, 0xFFFF, fun v => v ||| 0x01F8), (0xA8, 0xFFFF, fun v => v ||| 0x8038), (0xCA, 0xFFFF, dmaCtl p.dma0.ctl),
        (0xDA, 0xFFFF, dmaCtl p.dma1.ctl), (0x56, 0xFFFF, fun v => tmrMode 0x203F p.tmr0.mode v ||| alternating p.tmr0.mode v),
        (0x5E, 0xFFFF, fun v => tmrMode 0x203F p.tmr1.mode v ||| alternating p.tmr1.mode v), (0x66, 0xFFFF, tmrMode 0x2021 p.tmr2.mode)]
    let master : List (Nat × Word × (Word → Word)) :=
      [(0x28, 0xFFFF, fun v => v &&& 0x00FD), (0x2A, 0xFFFF, fun v => v &&& 0x0007), (0x2C, 0xFFFF, fun v => v &&& 0x00FD),
        (0x2E, 0xFFFF, fun v => v &&& 0x000D ||| p.ic.requestReg false &&& 0x00F0), (0x30, 0xFFFF, fun v => v &&& 0x8007),
        (0x32, 0xFFFF, fun v => v &&& 0x000F), (0x34, 0xFFFF, fun v => v &&& 0x000F), (0x36, 0xFFFF, fun v => v &&& 0x000F),
        (0x38, 0xFFFF, fun v => v &&& 0x007F), (0x3A, 0xFFFF, fun v => v &&& 0x007F), (0x3C, 0xFFFF, fun v => v &&& 0x001F),
        (0x3E, 0xFFFF, fun v => v &&& 0x001F)]
    let slave : List (Nat × Word × (Word → Word)) :=
      [(0x20, 0xFFFF, fun v => v &&& 0x00F8), (0x28, 0xFFFF, fun v => v &&& 0x003D), (0x2A, 0xFFFF, fun v => v &&& 0x0007),
        (0x2C, 0xFFFF, fun v => v &&& 0x003D), (0x2E, 0xFFFF, fun v => v &&& 0x003D), (0x32, 0xFFFF, fun v => v &&& 0x000F),
        (0x34, 0xFFFF, fun v => v &&& 0x000F), (0x36, 0xFFFF, fun v => v &&& 0x000F), (0x38, 0xFFFF, fun v => v &&& 0x000F),
        (0x3A, 0xFFFF, fun v => v &&& 0x000F)]
    let accessed (c : ChipSelects) : ChipSelects := { c with
      lmcsUsed := c.lmcsUsed || off == 0xA2, pacsUsed := c.pacsUsed || off == 0xA4
      mmcsUsed := c.mmcsUsed || off == 0xA6, mpcsUsed := c.mpcsUsed || off == 0xA8 }
    (off % 2 = 0 → (Gives (exec (.inAccDx .word) s) fun t => t.pcb.cs = accessed p.cs)
      ∧ Gives (exec (.outDxAcc .word) s) fun t => t.pcb.cs = accessed { p.cs with
          umcs := t.pcb.cs.umcs, lmcs := t.pcb.cs.lmcs, mmcs := t.pcb.cs.mmcs, pacs := t.pcb.cs.pacs, mpcs := t.pcb.cs.mpcs })
    ∧ (off = 0xFE → exec (.inAccDx .word) s = .next (s.set .ax p.reloc)
      ∧ (v.getLsbD 12 = true ∨ v.toNat / 256 % 16 = 0 → v.getLsbD 14 = p.reloc.getLsbD 14 ∨ p.ic.busy p.rmx = false →
          exec (.outDxAcc .word) s = .next { s with pcb := { p with reloc := v } }))
    ∧ ∀ r ∈ plain ++ upper ++ others ++ (if p.reloc.getLsbD 14 then slave else master), off = r.1 →
      Gives (exec (.outDxAcc .word) s) fun t => t = { s with pcb := t.pcb, fresh := t.fresh } ∧ t.pcb.reloc = p.reloc
        ∧ Gives (exec (.inAccDx .word) t) fun u => u.get .ax &&& r.2.1 = r.2.2 v ∧ u.mem = s.mem

/-- The integrated interrupt controller. Requests (R578): levels, edges that a low level withdraws, DMA and timer bits. The source that is
acknowledged (R585, R593): requested, not masked, its priority within PRM and not below any source in service, first by priority, then in
the default order; that sources of equal level do not block each other is R585's own derived reading, N18 calling it not stated (log 33). The acknowledge (R586) sets its in-service bit and PRM, clears its request. Types (R585, R593). EOI (R583) clears the
source named, or the highest in service; PRM is then the priority of the highest still in service, 7 without one (D23; DEDUCED, log 32).
Polling (R582). What the CPU sees and gets on an acknowledge (R262, R588, R593, R596): in cascade mode the type of the controller outside,
with INTA cycles on its line, after another master's turn on the bus if one waits (70_reset_and_hazards.md R307, log 7). DESIGN CHOICES of log 33: INT1 HIGH selects the slave; an edge seen in level mode is latched too; in iRMX 86
mode an EOI takes the first in default order of several in service at its level; a poll gives a cascaded pin's fixed type; SFNM alone
leaves the type fixed. DESIGN CHOICE of log 28: the edge latches follow the pins in iRMX 86 mode too, where R594 is silent. -/
def Obligations.InterruptController : Prop :=
  (∀ (ic : Ic) (k : Nat) (level : Bool), k < 4 →
    let t := ic.setPin k level
    t = { ic with pin := t.pin, edge := t.edge } ∧ ∀ j < 4, t.pin.getLsbD j = (if j = k then level else ic.pin.getLsbD j)
      ∧ t.edge.getLsbD j = if j = k then level && (ic.edge.getLsbD k || !ic.pin.getLsbD k) else ic.edge.getLsbD j)
  ∧ (∀ (rmx : Bool) (ic : Ic),
    let here (u : IcSrc) : Prop := rmx = false ∨ (u ≠ .int2 ∧ u ≠ .int3)
    let prio (u : IcSrc) : Nat := (ic.ctl u).toNat % 8
    let served (u : IcSrc) : Prop := here u ∧ ic.isr.getLsbD u.bit = true
    let first (p : IcSrc → Prop) (u : IcSrc) : Prop :=
      p u ∧ ∀ v, p v → v = u ∨ prio u < prio v ∨ (prio u = prio v ∧ u.bit < v.bit)
    let pinned (u : IcSrc) (k : Nat) : Bool := if (ic.ctl u).getLsbD 4 then ic.pin.getLsbD k else ic.edge.getLsbD k
    let asked (u : IcSrc) : Bool :=
      match u with
      | .timer => if rmx then ic.irt.getLsbD 0 else ic.irt.getLsbD 0 || ic.irt.getLsbD 1 || ic.irt.getLsbD 2
      | .dma0 => ic.reqDma.getLsbD 0
      | .dma1 => ic.reqDma.getLsbD 1
      | .int0 => if rmx then ic.irt.getLsbD 1 else pinned .int0 0
      | .int1 => if rmx then ic.irt.getLsbD 2 else pinned .int1 1
      | .int2 => pinned .int2 2
      | .int3 => pinned .int3 3
    let cascaded (u : IcSrc) : Prop := rmx = false ∧
      (u = .int2 ∧ (ic.ctl .int0).getLsbD 5 = true ∨ u = .int3 ∧ (ic.ctl .int1).getLsbD 5 = true)
    let eligible (u : IcSrc) : Prop := here u ∧ asked u = true ∧ (ic.ctl u).getLsbD 3 = false ∧ prio u ≤ ic.prm.toNat
      ∧ (ic.isr.getLsbD u.bit = false ∨ rmx = false ∧ (u = .int0 ∨ u = .int1) ∧ (ic.ctl u).getLsbD 6 = true)
      ∧ (∀ v, v ≠ u → served v → prio u ≤ prio v) ∧ ¬cascaded u
    let edgeOff (u : IcSrc) (mask : BitVec 4) : BitVec 4 := if rmx ∨ (ic.ctl u).getLsbD 4 then ic.edge else ic.edge &&& mask
    (∀ u, ic.best rmx = some u ↔ first eligible u) ∧ (ic.best rmx = none ↔ ∀ u, ¬eligible u)
    ∧ (∀ u, here u → ic.ack rmx u = { ic with
        isr := ic.isr ||| BitVec.ofNat 8 (2 ^ u.bit), prm := BitVec.ofNat 3 (prio u)
        irt := match u with
          | .timer => if rmx then ic.irt &&& 6 else ic.irt &&& (ic.irt - 1)
          | .int0 => if rmx then ic.irt &&& 5 else ic.irt
          | .int1 => if rmx then ic.irt &&& 3 else ic.irt
          | _ => ic.irt
        reqDma := match u with
          | .dma0 => ic.reqDma &&& 2
          | .dma1 => ic.reqDma &&& 1
          | _ => ic.reqDma
        edge := match u with
          | .int0 => edgeOff u 14
          | .int1 => edgeOff u 13
          | .int2 => edgeOff u 11
          | .int3 => edgeOff u 7
          | _ => ic.edge })
    ∧ (∀ p ∈ [(IcSrc.dma0, (10 : Byte)), (.dma1, 11), (.int0, 12), (.int1, 13), (.int2, 14), (.int3, 15),
        (.timer, if ic.irt.getLsbD 0 then 8 else if ic.irt.getLsbD 1 then 18 else 19)], ic.masterType p.1 = p.2)
    ∧ (∀ u, (ic.rmxType u).toNat = 8 * ic.vector.toNat + prio u)
    ∧ ∀ w : Word,
      let t := ic.eoi rmx w
      let ended (u : IcSrc) : Prop := t.isr = ic.isr &&& ~~~BitVec.ofNat 8 (2 ^ u.bit)
      t = { ic with isr := t.isr, prm := t.prm }
        ∧ (rmx = false → w.getLsbD 15 = true → (∀ u, first served u → ended u) ∧ ((∀ u, ¬served u) → t.isr = ic.isr))
        ∧ (rmx = false → w.getLsbD 15 = false → ∀ p ∈ [(8, IcSrc.timer), (18, .timer), (19, .timer), (10, .dma0), (11, .dma1), (12, .int0),
            (13, .int1), (14, .int2), (15, .int3)], w.toNat % 32 = p.1 → ended p.2)
        ∧ (rmx = true → ∀ u, first (fun v => served v ∧ prio v = w.toNat % 8) u → ended u)
        ∧ (let still (u : IcSrc) : Prop := here u ∧ t.isr.getLsbD u.bit = true
          (∀ u, still u → (∀ v, still v → prio u ≤ prio v) → t.prm.toNat = prio u) ∧ ((∀ u, ¬still u) → t.prm = 7)))
  ∧ ∀ s : State,
    let ic := s.pcb.ic
    let acked (rmx : Bool) (u : IcSrc) : State := { s with pcb := { s.pcb with ic := ic.ack rmx u } }
    let onBus (line : Nat) (v : State) : State := (v.yieldBus false).event (.intAck line)
    (s.is186 = false → s.intrLevel = s.pins.intr ∧ intAck s = (s.pins.intrType, onBus 0 s))
    ∧ (s.is186 = true → s.pcb.reloc.getLsbD 14 = false → s.intrLevel = (ic.best false).isSome ∧ ∀ u, ic.best false = some u →
        intAck s = (if u = .int0 ∧ (ic.ctl .int0).getLsbD 5 = true then (s.pins.inta0Type, onBus 0 (acked false u))
          else if u = .int1 ∧ (ic.ctl .int1).getLsbD 5 = true then (s.pins.inta1Type, onBus 1 (acked false u))
          else (ic.masterType u, acked false u))
        ∧ s.pcbRead 0x26 = (0x8000 ||| (ic.masterType u).setWidth 16, s)
        ∧ s.pcbRead 0x24 = (0x8000 ||| (ic.masterType u).setWidth 16, acked false u))
    ∧ (s.is186 = true → s.pcb.reloc.getLsbD 14 = true → s.intrLevel = ic.pin.getLsbD 0
      ∧ (ic.pin.getLsbD 1 = false → intAck s = (s.pins.intrType, onBus 0 s))
      ∧ (ic.pin.getLsbD 1 = true → ∀ u, ic.best true = some u → intAck s = (ic.rmxType u, onBus 0 (acked true u))))

/-- One transfer of a DMA channel (R545 to R552): which requesting channel goes; the unit at the source, in memory or at a port, goes to the
destination; the pointers move as the control word says, the count goes down by one; at 0 with TC, or unsynchronized, the channel
stops, and with TC and INT its interrupt is requested; nothing else of the whole machine changes, the turn (dmaLast), timer 2's latch and
the move apart. That a channel asks when SYN = 00, its DRQ pin or timer 2's latch does (the three joined by "or"), the latch being one
and cleared by any transfer of the channel, is the model's DESIGN CHOICE (log 31): N22 says that it is not stated. While an unsynchronized channel is started, transfers take the
place of the CPU (R549, R551). TC, INT, P and TDRQ at bits 9, 8, 5 and 4 are the spec's general knowledge G5 (PRESUMED, log 30); that
transfers run as moves is log 34, and so is that they take the place of whole items, an interrupt sequence at the end of the item before
coming first (DESIGN CHOICE; R551 does not say); what SYN = 11 does is free (log 68). -/
def Obligations.DmaMovesOneUnit : Prop :=
  (∀ c : DmaChan, (c.ctl.getLsbD 7 = false → c.ctl.getLsbD 6 = false → c.unsynchronized = true)
    ∧ (c.ctl.getLsbD 7 ≠ c.ctl.getLsbD 6 → c.unsynchronized = false))
  ∧ (∀ (p : Pcb) (ch : Bool),
    let asks (c : DmaChan) : Prop := c.ctl.getLsbD 1 = true ∧
      ((c.ctl.getLsbD 7 = false ∧ c.ctl.getLsbD 6 = false) ∨ (c.ctl.getLsbD 7 = true ∧ c.ctl.getLsbD 6 = true ∧ c.unsynchronized = true)
        ∨ c.drq = true ∨ c.tmrReq = true)
    let high (c : DmaChan) : Bool := c.ctl.getLsbD 5
    p.dmaWins ch = true ↔ asks (p.dma ch) ∧ (¬asks (p.dma (!ch)) ∨ (high (p.dma ch) = true ∧ high (p.dma (!ch)) = false)
      ∨ (high (p.dma ch) = high (p.dma (!ch)) ∧ p.dmaLast ≠ ch)))
  ∧ (∀ (s : State) (ch k : Bool), s.moves = [] → s.iopHolds = false → s.ctl.latches.lock = false → s.is186 = true → s.dmaHalted = false →
    (s.pcb.dma k).ctl.getLsbD 1 = true → (s.pcb.dma k).ctl.getLsbD 7 = false → (s.pcb.dma k).ctl.getLsbD 6 = false → s.pcb.dmaWins ch = true →
      step s = step { s with moves := [.dma ch] })
  ∧ ∀ (s : State) (ch : Bool) (rest : List Move), s.Ordinary → s.is186 = true → s.moves = .dma ch :: rest → s.stop = none →
    s.busFree = true → s.pcb.dmaWins ch = true → s.dmaHalted = false →
    let c := s.pcb.dma ch
    let word : Bool := c.ctl.getLsbD 0
    let size : Nat := if word then 2 else 1
    let moved (p : Phys) (inc dec : Bool) : Phys :=
      BitVec.ofInt 20 (p.toNat + (if inc && !dec then (size : Int) else if dec && !inc then -(size : Int) else 0))
    let from_ : Word := c.src.setWidth 16
    let to_ : Word := c.dst.setWidth 16
    let ordinaryPort (q : Word) : Prop := s.pcbIo q = false ∧ s.caHit false q.toNat = false
    let source (v : Nat) (es : List BusEvent) : Prop :=
      if c.ctl.getLsbD 12 then v = s.mem.number (bytesFrom size c.src) ∧ es = []
      else s.pcbIo from_ = false ∧ (word = true → s.pcbIo (from_ + 1) = false) ∧ ∃ lo hi, presented s.io.inputs from_.toNat = some lo
        ∧ (word = true → presented s.io.inputs (from_ + 1).toNat = some hi) ∧ v = lo.toNat + (if word then 256 * hi.toNat else 0)
        ∧ es = (if word then [.portRead (from_ + 1).toNat hi] else []) ++ [.portRead from_.toNat lo]
    let target (v : Nat) (es : List BusEvent) (t : State) : Prop :=
      if c.ctl.getLsbD 15 then
        t.mem.number (bytesFrom size c.dst) = v ∧ MemoryKeptOutside (bytesFrom size c.dst) s t ∧ es = []
      else MemoryKept s t
        ∧ es = (if word then [.portWrite (to_ + 1).toNat (BitVec.ofNat 8 (v / 256))] else []) ++ [.portWrite to_.toNat (BitVec.ofNat 8 v)]
    ∀ v es, source v es → (c.ctl.getLsbD 15 = true ∨ ordinaryPort to_ ∧ (word = true → ordinaryPort (to_ + 1))) →
    let stopped : Word :=
      if c.count = 1 ∧ (c.ctl.getLsbD 9 = true ∨ c.unsynchronized = true) then c.ctl &&& 0xFFFD else c.ctl
    let after : DmaChan :=
      { c with
        src := moved c.src (c.ctl.getLsbD 10) (c.ctl.getLsbD 11)
        dst := moved c.dst (c.ctl.getLsbD 13) (c.ctl.getLsbD 14)
        count := BitVec.ofNat 16 (c.count.toNat + 65535)
        ctl := stopped
        tmrReq := false }
    let ic : Ic :=
      if c.count = 1 ∧ c.ctl.getLsbD 9 = true ∧ c.ctl.getLsbD 8 = true then
        { s.pcb.ic with reqDma := s.pcb.ic.reqDma ||| (if ch then 2 else 1) }
      else s.pcb.ic
    Gives (step s) fun t => (∃ es', target v es' t ∧ t.io.trace = es' ++ es ++ s.io.trace)
      ∧ t = { s with
          mem := t.mem
          io := { s.io with trace := t.io.trace }
          moves := rest
          pcb := { s.pcb.setDma ch after with dmaLast := ch, ic := ic } }

/-- One event of a timer (R562, R564): the count, which at the maximum in use becomes 0; then MC is set, the maximum count register in use
alternates with ALT = 1, EN is cleared after the last one with CONT = 0, and with ALT = 0 the output is LOW for a clock (R563; how long a
clock is, log 31). A clock (R561, R563): timer 2 counts when enabled; timers 0 and 1 when enabled with an internal clock, prescaled by
timer 2 or not, gated by the pin or started by its edge; an edge of the pin is an event or a restart, the count being 0 from the edge on
(R563: "on the first clock"; DESIGN CHOICE, log 31). A maximum with INT raises the timer's request, timer 2's a request of the DMA
channels that take it (R549, R564), by TDRQ at bit 4 of the control word (G5; PRESUMED, log 30); that timer 2 counts after timers 0 and 1
in a clock is log 31. -/
def Obligations.TimerEvents : Prop :=
  (∀ t : Timer,
    let limit := if t.mode.getLsbD 12 then t.maxB else t.maxA
    let n := t.count + 1
    let u := t.event.1
    u = { t with count := u.count, mode := u.mode, started := u.started, pulse := u.pulse } ∧ t.event.2 = (n == limit)
      ∧ (n ≠ limit → u = { t with count := n })
      ∧ (n = limit → u.count = 0 ∧ u.mode.getLsbD 5 = true
          ∧ u.mode.getLsbD 12 = (if t.mode.getLsbD 1 then !t.mode.getLsbD 12 else t.mode.getLsbD 12)
          ∧ u.mode.getLsbD 15 = (t.mode.getLsbD 15 && (t.mode.getLsbD 0 || (t.mode.getLsbD 1 && !t.mode.getLsbD 12)))
          ∧ u.mode &&& 0x6FDF = t.mode &&& 0x6FDF ∧ u.pulse = (t.pulse || !t.mode.getLsbD 1))
      ∧ t.output = if t.mode.getLsbD 1 then !t.mode.getLsbD 12 else !t.pulse)
  ∧ ∀ p : Pcb,
    let raised (t : Timer) (counts : Bool) (bit : BitVec 3) : BitVec 3 := if counts ∧ t.event.2 = true ∧ t.mode.getLsbD 13 = true then bit else 0
    (let t2 : Timer := { p.tmr2 with pulse := false }
      let runs2 : Bool := t2.mode.getLsbD 15
      let hit2 : Bool := runs2 && t2.event.2
      let low (t : Timer) : Timer := { t with pulse := false }
      let counts (t : Timer) : Bool := t.mode.getLsbD 15 && !t.mode.getLsbD 2 && (!t.mode.getLsbD 3 || hit2)
        && (if t.mode.getLsbD 4 then t.started else t.pin)
      let after (t : Timer) : Timer := if counts t then (low t).event.1 else low t
      let asked (c : DmaChan) : DmaChan := if hit2 then { c with tmrReq := c.tmrReq || c.ctl.getLsbD 4 } else c
      p.clock = { p with
        tmr0 := after p.tmr0, tmr1 := after p.tmr1, tmr2 := if runs2 then t2.event.1 else t2
        dma0 := asked p.dma0, dma1 := asked p.dma1
        ic := { p.ic with irt := p.ic.irt ||| raised p.tmr0 (counts p.tmr0) 1 ||| raised p.tmr1 (counts p.tmr1) 2 ||| raised t2 runs2 4 } })
    ∧ ∀ k level : Bool,
      let t := p.tmr k
      let u : Timer := { t with pin := level }
      let rising : Bool := level && !t.pin && t.mode.getLsbD 15
      p.timerPin k level =
        if rising && t.mode.getLsbD 2 then
          { p.setTmr k u.event.1 with ic := { p.ic with irt := p.ic.irt ||| raised u true (if k then 2 else 1) } }
        else if rising && t.mode.getLsbD 4 then p.setTmr k { u with count := 0, started := true }
        else p.setTmr k u

/-! ## The 8089, 49_iop_8089.md -/

/-- Channel attention. The first after RESET initializes the 8089 from SYSBUS, the SCB, SOC and the CB pointer; the channel it came to
makes it master or slave; channel 1's BUSY is cleared (R450 to R452). A later one reads the CCW: P, B and the interrupt control field go
to the PSW; start, suspend, resume, halt and update act as R455, R456 and R462 say, the layouts being the spec's general knowledge (D37,
D39); BUSY after suspend, resume and halt, and that a resume does not load PP again, are general knowledge of R456 too (G14; PRESUMED,
log 51); that the bits of CCW, SYSBUS and SOC which R452 and R455 call 0 are ignored is the model's DESIGN CHOICE (log 51); the two reserved commands do nothing else (DESIGN CHOICE of U48, log 53); a transfer resumed with XF set goes on (log 54), without
the checks of XFER and WID (DESIGN CHOICE, log 53). An OUT of the CPU to the attention port latches it (R456); that the ports are caBase
for channel 1 and caBase + 1 for channel 2 is the model's DESIGN CHOICE (log 55); that until initialization the first to come is
remembered and is served before all else is DEDUCED (log 52). Who runs (R463): the one with the higher priority, an attention at the end
of a transfer cycle, the higher P bit, else in turn; nobody against a locked transfer. That a channel in a transfer or a chained program
with its own attention latched counts as priority 2 is the model's DESIGN CHOICE (log 54). -/
def Obligations.IopAttentions : Prop :=
  (∀ (s : State) (ch : Bool), s.Ordinary → s.iop.initialized = false →
    let scb := s.pointerAt 0xFFFF8
    let cb := s.pointerAt (scb + 2)
    let t := iopAttention ch s
    t = { s with mem := t.mem, iop := { (s.iop.setChan ch { s.chan ch with ca := false }) with
        initialized := true, initCa := none, cb := cb, sysWord := (s.mem.read 0xFFFF6).getLsbD 0, ioWord := (s.mem.read scb.toNat).getLsbD 0,
        rqMode := (s.mem.read scb.toNat).getLsbD 1, master := !ch } }
      ∧ ∀ a, t.mem.read a = if a = (cb + 1).toNat then 0 else s.mem.read a)
  ∧ (∀ (s : State) (ch : Bool), s.Ordinary → s.iop.initialized = true →
    let base : Phys := s.iop.cb + (if ch then 8 else 0)
    let ccw := s.mem.read base.toNat
    let c := s.chan ch
    let t := iopAttention ch s
    let icf := ccw.toNat / 8 % 4
    let is := c.psw.getLsbD 4 && icf != 1 && icf != 3
    let ic := icf == 2 || c.psw.getLsbD 3 && icf != 3
    let psw (xf tb : Bool) : Byte :=
      BitVec.ofBool (ccw.getLsbD 7) ++ BitVec.ofBool xf ++ BitVec.ofBool (ccw.getLsbD 5) ++ BitVec.ofBool is ++ BitVec.ofBool ic
        ++ BitVec.ofBool tb ++ c.psw.extractLsb' 0 2
    let xf := c.psw.getLsbD 6
    let tb := c.psw.getLsbD 2
    let becomes (d : IopChan) (busy : Option Byte) (saved : List Byte) : Prop :=
      t = { s with mem := t.mem, iop := s.iop.setChan ch d }
        ∧ ∀ a, t.mem.read a =
          match busy with
          | some v => if a = (base + 1).toNat then v
              else match (bytesFrom saved.length c.pp).idxOf? a with
                | some k => saved.getD k 0
                | none => s.mem.read a
          | none => s.mem.read a
    let d : IopChan := { c with ca := false }
    match ccw.toNat % 8 with
    | 1 => let tp := s.pointerAt (s.pointerAt (base + 2))
      becomes { d with pp := s.pointerAt (base + 2), tp := ⟨BitVec.ofNat 20 (tp.toNat % 65536), true⟩, psw := psw false true
                       activity := .program, hold := none, locked := false } (some 0xFF) []
    | 3 => becomes { d with pp := s.pointerAt (base + 2), tp := ⟨s.pointerAt (s.pointerAt (base + 2)), false⟩, psw := psw false true
                            activity := .program, hold := none, locked := false } (some 0xFF) []
    | 5 => let b (k : Phys) : Byte := s.mem.read (c.pp + k).toNat
      becomes { d with tp := ⟨BitVec.ofNat 20 ((b 0).toNat + 256 * (b 1).toNat + 65536 * ((b 2).toNat / 16)), (b 2).getLsbD 3⟩
                       psw := b 3, activity := if (b 3).getLsbD 6 then .transfer else .program, hold := none } (some 0xFF) []
    | 6 => becomes { d with psw := psw xf false, activity := .idle, hold := none, locked := false } (some 0)
        [BitVec.ofNat 8 c.tp.addr.toNat, BitVec.ofNat 8 (c.tp.addr.toNat / 256),
          BitVec.ofNat 8 (c.tp.addr.toNat / 65536 * 16 + if c.tp.tag then 8 else 0), psw xf tb]
    | 7 => becomes { d with psw := psw false false, activity := .idle, hold := none, locked := false } (some 0) []
    | _ => becomes { d with psw := psw xf tb } none [])
  ∧ (∀ s : State, s.cfg.hasIop = true → s.cfg.iop.caMemory = false → s.pcbIo (s.get .dx) = false →
    ((s.get .dx).toNat = s.cfg.iop.caBase ∨ (s.get .dx).toNat = s.cfg.iop.caBase + 1) →
    let ch : Bool := (s.get .dx).toNat != s.cfg.iop.caBase
    Gives (exec (.outDxAcc .byte) s) fun t =>
      t.iop = { s.iop.setChan ch { s.chan ch with ca := true } with
        initCa := if s.iop.initialized then s.iop.initCa else some (s.iop.initCa.getD ch) })
  ∧ ∀ (s : State) (ch : Bool),
    let a := s.chan ch
    let b := s.chan (!ch)
    let level (c : IopChan) : Nat :=
      if c.attends = true then 2
      else if c.activity = .idle ∨ (c.activity = .transfer ∧ c.waits = true ∧ c.extNews = false) then 4
      else if c.activity = .transfer ∨ c.cc.getLsbD 8 = true then 1
      else 3
    let cycleEnd (c : IopChan) : Prop := c.activity = .transfer ∧ c.hold = none ∧ c.locked = false ∧ c.attends = false
    let locks (c : IopChan) : Prop := c.activity = .transfer ∧ c.locked = true
    (iopRuns true s = true → iopRuns false s = false)
      ∧ (iopRuns ch s = true ↔ level a ≠ 4 ∧ (s.iop.initCa = some ch ∨ (s.iop.initCa = none ∧ ¬locks b ∧
          (locks a ∨ (a.attends = true ∧ cycleEnd b) ∨ (¬(b.attends = true ∧ cycleEnd a) ∧
            (level a < level b ∨ (level a = level b ∧
              ((a.psw.getLsbD 7 = true ∧ b.psw.getLsbD 7 = false) ∨ (a.psw.getLsbD 7 = b.psw.getLsbD 7 ∧ s.iop.lastTwo ≠ ch)))))))))

/-- A channel program. The bytes at TP are decoded (the listing of R525; the table of R524 is the spec's general knowledge, D36; PRESUMED,
log 51) and run with TP past them; XFER arms a transfer, which begins after the next instruction with XF set (R509), after a second XFER
too, once (DESIGN CHOICE, log 70). Fetches and operands are in system or I/O space, as the pointer's tag says (R459): memory, or the
ports of the local or the remote bus (R464, R466), each a bus event where the rule makes it one. Register results (R466, R467, R470 to
R495): a move is sign-extended and sets the tag, a pointer from offset and segment clears it, MOVP brings its own; ADD, INC and DEC work
on 20 bits (that ADD to a TP in I/O space keeps 16 and INC and DEC of it 20 is log 51's, DESIGN CHOICE); a logical result has bits 19 to
16 free (U38). Memory results, reads before writes, low byte first. TSL, CALL, jumps from the next instruction (R497 to R507). IX with
auto-increment, and CALL's by 3, as log 65 chooses. -/
def Obligations.IopInstructions : Prop :=
  (∀ p ∈ [(([0x0A, 0x4F, 0x0A, 0x00] : List Byte), IopInstr.movMemImm .byte ⟨.pp, .offset 0x0A⟩ 0),
      ([0xB1, 0x30, 0x0A, 0x00], .movImm .word .ix 10), ([0x51, 0x30, 0x00, 0xFF], .movImm .word .gc 0xFF00),
      ([0xEA, 0xBA, 0x00, 0xFC], .jumpBit false 7 ⟨.gc, .offset 0⟩ 0xFFFC), ([0x0A, 0x4E, 0x00, 0x12], .movMemImm .byte ⟨.gc, .offset 0⟩ 0x12),
      ([0x02, 0x93, 0x08, 0x02, 0xCE, 0x01], .movMemMem .byte ⟨.gc, .offset 1⟩ ⟨.pp, .offset 8⟩),
      ([0xD1, 0x30, 0x20, 0x88], .movImm .word .cc 0x8820), ([0xA0, 0x00], .wid false true), ([0x23, 0x8B, 0x04], .lpd .gb ⟨.pp, .offset 4⟩),
      ([0x11, 0x30, 0x04, 0xFF], .movImm .word .ga 0xFF04), ([0xAA, 0xBA, 0x00, 0xFC], .jumpBit false 5 ⟨.gc, .offset 0⟩ 0xFFFC),
      ([0x60, 0x00], .xfer), ([0x6A, 0xBE, 0x01, 0x05], .jumpBit true 3 ⟨.gc, .offset 1⟩ 5), ([0xA0, 0x3C], .decReg .ix),
      ([0xA8, 0x40, 0xD0], .jumpReg false .ix 0xFFD0), ([0x02, 0x92, 0x01, 0x02, 0xCF, 0x0A], .movMemMem .byte ⟨.pp, .offset 10⟩ ⟨.gc, .offset 1⟩),
      ([0x40, 0x00], .sintr), ([0x20, 0x48], .hlt)],
    iopDecode p.1 = some p.2 ∧ ∀ (s : State) (ch : Bool) (es : List BusEvent), s.Ordinary →
      let tp := (s.chan ch).tp
      s.iopSeesAll tp.tag (spaceBytes tp.tag p.1.length tp.addr.toNat) = some (p.1, es) →
        iopFetch ch s = (p.1, { s with io := { s.io with trace := es ++ s.io.trace } }))
  ∧ (∀ (s u : State) (ch : Bool) (bytes : List Byte) (i : IopInstr),
    let c := s.chan ch
    iopRuns ch s = true → c.attends = false → (c.activity = .program ∨ c.activity = .armed) →
    iopFetch ch { s with iop := { s.iop with lastTwo := ch } } = (bytes, u) → iopDecode bytes = some i →
    i.dest ≠ some .cc ∨ i.isMov = true → (c.activity = .armed → i.dest ≠ some .ga ∧ i.dest ≠ some .gb ∧ i.dest ≠ some .cc) →
      let t := iopExec ch i (u.setChan ch { u.chan ch with tp := c.tp.advance (BitVec.ofNat 20 bytes.length) })
      let d := t.chan ch
      (c.activity = .program → iopStep ch s = if i = .xfer then t.setChan ch { d with activity := .armed } else t)
        ∧ (c.activity = .armed → t.iop.badTransfer d = none →
            iopStep ch s = t.setChan ch { d with activity := .transfer, psw := d.psw ||| 0x40, hold := none, locked := false }))
  ∧ ∀ (s : State) (ch : Bool), s.Ordinary →
    let c := s.chan ch
    let after (m : Option (IopMem × Nat)) : IopChan := (m.map fun p => p.1.stepped c p.2).getD c
    let sees (k : Nat) (m : IopMem) (v : Nat) (es : List BusEvent) : Prop :=
      ∃ bs, s.iopSeesAll (m.place c).1 (spaceBytes (m.place c).1 k (m.place c).2) = some (bs, es) ∧ v = bytesNumber bs
    let gives (i : IopInstr) (m : Option (IopMem × Nat)) (es : List BusEvent) (r : IopReg) (v : Int) (tag : Bool) : Prop :=
      let t := iopExec ch i s
      IopDoes ch es false [] s t ∧ t.fresh = s.fresh ∧ (after m).Writes (t.chan ch) r v tag
    let logical (i : IopInstr) (m : Option (IopMem × Nat)) (es : List BusEvent) (r : IopReg) (w : Width) (v : Nat) : Prop :=
      let t := iopExec ch i s
      IopDoes ch es false [] s t ∧ ∃ top : Nat, (after m).Writes (t.chan ch) r (65536 * top + signedOf w v % 65536) (c.tag r)
    let summed (r : IopReg) (v : Int) : Int := if r = .tp ∧ c.tp.tag = true then v % 65536 else v
    let reg (m : Option (IopMem × Nat)) (r : IopReg) : Nat := ((after m).get r).toNat
    let unqueued (k : Nat) (p : Bool × Nat) : Prop :=
      (if p.1 then s.iop.ioWord else s.iop.sysWord) = false ∨ c.tp.tag ≠ p.1 ∨ c.tp.addr.getLsbD 0 = false
        ∨ inSpace p.1 c.tp.addr.toNat ∉ spaceBytes p.1 k p.2
    let stores (i : IopInstr) (es : List BusEvent) (d : IopChan) (k : Nat) (p : Bool × Nat) (v : Nat) : Prop :=
      let t := iopExec ch i s
      IopDoes ch es p.1 ((spaceBytes p.1 k p.2).zip (numberBytes k v)) s t ∧ t.fresh = s.fresh ∧ t.chan ch = d
    let jumps (i : IopInstr) (m : Option (IopMem × Nat)) (es : List BusEvent) (cond : Prop) (disp : Word) : Prop :=
      let t := iopExec ch i s
      IopDoes ch es false [] s t ∧ t.fresh = s.fresh ∧ ∃ taken : Bool, (taken = true ↔ cond) ∧
        t.chan ch = { after m with tp := if taken then c.tp.advance (BitVec.ofInt 20 disp.toInt) else c.tp }
    let number (op : IopAlu) (x y : Nat) : Nat :=
      match op with
      | .add => x + y
      | .or => x ||| y
      | .and => x &&& y
    (∀ w r imm, gives (.movImm w r imm) none [] r (signedOf w imm.toNat) true)
    ∧ (∀ r : IopReg, r.isPointer = true → ∀ off seg : Word, gives (.lpdi r off seg) none [] r (16 * seg.toNat + off.toNat) false)
    ∧ (∀ w r imm, gives (.aluImm .add w r imm) none [] r (summed r (reg none r + signedOf w imm.toNat)) (c.tag r)
        ∧ logical (.aluImm .or w r imm) none [] r w (reg none r ||| imm.toNat)
        ∧ logical (.aluImm .and w r imm) none [] r w (reg none r &&& imm.toNat))
    ∧ (∀ r, logical (.notReg r) none [] r .word (65535 - reg none r % 65536) ∧ gives (.incReg r) none [] r (reg none r + 1) (c.tag r)
        ∧ gives (.decReg r) none [] r (reg none r - 1) (c.tag r))
    ∧ (∀ (w : Width) r m x es, sees w.bytes m x es → let o := some (m, w.bytes)
        gives (.movRegMem w r m) o es r (signedOf w x) true
        ∧ gives (.aluRegMem .add w r m) o es r (summed r (reg o r + signedOf w x)) (c.tag r)
        ∧ logical (.aluRegMem .or w r m) o es r w (reg o r ||| x) ∧ logical (.aluRegMem .and w r m) o es r w (reg o r &&& x)
        ∧ logical (.notRegMem w r m) o es r w (65535 - x))
    ∧ (∀ (r : IopReg) (m : IopMem) x es, r.isPointer = true →
        (sees 4 m x es → gives (.lpd r m) (some (m, 4)) es r (16 * (x / 65536) + x % 65536) false)
        ∧ (sees 3 m x es → gives (.movpLoad r m) (some (m, 3)) es r (x % 65536 + 65536 * (x / 65536 / 16)) (x.testBit 19)))
    ∧ (∀ (w : Width) m, unqueued w.bytes (m.place c) →
        let d := m.stepped c w.bytes
        let p := m.place c
        (∀ imm : Word, stores (.movMemImm w m imm) [] d w.bytes p imm.toNat)
        ∧ (∀ r, stores (.movMemReg w m r) [] d w.bytes p (reg none r))
        ∧ ∀ x es, sees w.bytes m x es →
          (∀ op, (∀ imm : Word, stores (.aluMemImm op w m imm) es d w.bytes p (number op x imm.toNat))
            ∧ ∀ r, stores (.aluMemReg op w m r) es d w.bytes p (number op x (reg none r)))
          ∧ stores (.notMem w m) es d w.bytes p (65535 - x) ∧ stores (.incMem w m) es d w.bytes p (x + 1)
          ∧ stores (.decMem w m) es d w.bytes p (x + 65535)
          ∧ (∀ b : BitVec 3, w = .byte → stores (.setBit true m b) es d 1 p (x ||| 2 ^ b.toNat)
            ∧ stores (.setBit false m b) es d 1 p (x &&& (255 - 2 ^ b.toNat)))
          ∧ ∀ (v : Byte) (disp : Word), w = .byte → (x = 0 → stores (.tsl m v disp) es d 1 p v.toNat)
            ∧ (x ≠ 0 → jumps (.tsl m v disp) (some (m, 1)) es True disp))
    ∧ (∀ (w : Width) src dst x es, let d := IopMem.stepped c src w.bytes
        sees w.bytes src x es → unqueued w.bytes (IopMem.place d dst) →
        stores (.movMemMem w dst src) es (IopMem.stepped d dst w.bytes) w.bytes (IopMem.place d dst) x)
    ∧ (∀ m, (m.place c).2 % 2 = 0 →
        let image (r : IopReg) : Nat := (c.get r).toNat + (c.get r).toNat / 65536 * 15 * 65536 + if c.tag r then 8 * 65536 else 0
        (∀ r : IopReg, r.isPointer = true → unqueued 3 (m.place c) → stores (.movpStore m r) [] (m.stepped c 3) 3 (m.place c) (image r))
        ∧ ∀ disp : Word,
          stores (.call m disp) [] { m.stepped c 3 with tp := c.tp.advance (BitVec.ofInt 20 disp.toInt) } 3 (m.place c) (image .tp))
    ∧ (∀ r disp, jumps (.jumpReg true r disp) none [] (reg none r % 65536 = 0) disp
        ∧ jumps (.jumpReg false r disp) none [] (reg none r % 65536 ≠ 0) disp)
    ∧ (∀ m disp x es,
        (∀ w : Width, sees w.bytes m x es → let o := some (m, w.bytes)
          jumps (.jumpMem true w m disp) o es (x = 0) disp ∧ jumps (.jumpMem false w m disp) o es (x ≠ 0) disp)
        ∧ (sees 1 m x es → (∀ b : BitVec 3, jumps (.jumpBit true b m disp) (some (m, 1)) es (x.testBit b.toNat = true) disp
            ∧ jumps (.jumpBit false b m disp) (some (m, 1)) es (x.testBit b.toNat = false) disp)
          ∧ (let matches_ : Prop := ∀ k < 8, c.mc.getLsbD (8 + k) = true → x.testBit k = c.mc.getLsbD k
            jumps (.jumpMasked true m disp) (some (m, 1)) es matches_ disp ∧ jumps (.jumpMasked false m disp) (some (m, 1)) es (¬matches_) disp)))
    ∧ iopExec ch .nop s = s ∧ iopExec ch .xfer s = s ∧ iopExec ch .sintr s = s.setChan ch { c with psw := c.psw ||| 0x10 }
    ∧ (∀ src dst : Bool, ((src = true ∨ dst = true) → s.iop.sysWord = true ∨ s.iop.ioWord = true) →
        iopExec ch (.wid src dst) s = s.setChan ch { c with psw := c.psw.extractLsb' 2 6 ++ BitVec.ofBool src ++ BitVec.ofBool dst })
    ∧ stores .hlt [] { c with psw := c.psw &&& 0xFB, activity := if c.activity = .armed then .armed else .idle } 1
        (false, inSpace false (s.iop.cb.toNat + if ch then 9 else 1)) 0

/-- A transfer, one bus cycle a step (log 54), each pointer to system or I/O space as its tag says (R459, R464). Table 7-8 (R516). The first
fetch, when DRQ asks for it in a source-synchronized transfer, with the read of the translate table (R515, R517); the second, which an
EXT after the first prevents; the store, on request in a destination-synchronized one; BC and the memory pointers count the bytes. Then
the tests: EXT or a compare hit prevents the second store; of the conditions that hold the largest offset ends the transfer: TP is
adjusted, XF and LOCK released, the program goes on (R519); LOCK of a transfer not synchronized lasts a cycle (R521). After a cut cycle
the pointers that Table 7-9 names stand one past the last byte stored (R520, U50); that its decrement for B/B→W is that same 1 is DEDUCED
(log 57). Waiting for DRQ nothing happens but an end by EXT (R518); with bytes held they are stored first (that EXT counts in the wait is
DEDUCED, log 57). With TS = 1 the cycle is that of Table 7-8 whatever BC is, and nothing but its end counts (R519). The model's: without
TS, with byte count termination and one byte left a byte is moved (DEDUCED, log 54); DRQ and EXT are levels, EXT looked at in the channel's
next step and so valid with DRQ inactive then (DESIGN CHOICE, log 69). A transfer that a resume continues is not checked as XFER checks one
(U43, U46): with SYN = 11 it runs unsynchronized, with TR = 1 a cycle that is not byte to byte goes untranslated (DESIGN CHOICE, log 53).
Of a word stored as two bytes each byte stored is compared, the second not being a low-order byte of R519 (DESIGN CHOICE, log 71). -/
def Obligations.IopTransfers : Prop :=
  ([(false, false), (false, true), (true, false), (true, true)].map (fun w =>
      [(false, false), (false, true), (true, false), (true, true)].map fun p => iopCycleKind p.1 p.2 w.1 w.2)
    = [[.byteByte, .byteByte, .byteByte, .byteByte], [.bytesWord, .byteByte, .bytesWord, .byteByte],
      [.wordBytes, .wordBytes, .byteByte, .byteByte], [.wordWord, .wordBytes, .bytesWord, .byteByte]])
  ∧ ∀ (s : State) (ch : Bool), s.Ordinary →
    let c := s.chan ch
    let t := iopTransfer ch s
    let srcReg : IopReg := if c.cc.getLsbD 10 then .gb else .ga
    let dstReg : IopReg := if c.cc.getLsbD 10 then .ga else .gb
    let srcIo := c.tag srcReg
    let dstIo := c.tag dstReg
    let tbc := c.cc.toNat / 8 % 4
    let tmc := c.cc.toNat % 8
    let tx := c.cc.toNat / 32 % 4
    let sync := c.cc.toNat / 2048 % 4
    let single := c.cc.getLsbD 7
    let fromMem := c.cc.getLsbD 14
    let toMem := c.cc.getLsbD 15
    let kind := if single = false ∧ tbc ≠ 0 ∧ c.bc = 1 then IopCycle.byteByte
      else iopCycleKind ((c.get srcReg).getLsbD 0) ((c.get dstReg).getLsbD 0) (c.psw.getLsbD 1) (c.psw.getLsbD 0)
    let ext : Prop := tx ≠ 0 ∧ c.ext = true ∧ c.drq = false ∧ single = false
    let matches_ (b : Byte) : Prop := ∀ k < 8, c.mc.getLsbD (8 + k) = true → b.getLsbD k = c.mc.getLsbD k
    let hit (b : Byte) : Prop := (tmc % 4 ≠ 0 ∧ tmc < 4 ∧ matches_ b) ∨ (5 ≤ tmc ∧ ¬matches_ b)
    let counted : Prop := tbc ≠ 0 ∧ c.bc = 0
    let moved (d : IopChan) (r : IopReg) (mem : Bool) (n : Nat) : IopChan :=
      if mem then d.put r (BitVec.ofNat 20 (if d.tag r then inSpace true ((d.get r).toNat + n) else (d.get r).toNat + n)) else d
    let fetched (n : Nat) : IopChan := moved { c with bc := BitVec.ofNat 16 (c.bc.toNat + 65536 - n) } srcReg fromMem n
    let resumed (n : Nat) : IopChan :=
      { c with psw := c.psw &&& 0xBF, tp := c.tp.advance (BitVec.ofNat 20 n), activity := .program, hold := none, locked := false }
    let offset (e h q : Prop) (n : Nat) : Prop :=
      (e ∧ n = 4 * (tx - 1) ∨ h ∧ n = 4 * (tmc % 4 - 1) ∨ q ∧ n = 4 * (tbc - 1))
        ∧ (e → 4 * (tx - 1) ≤ n) ∧ (h → 4 * (tmc % 4 - 1) ≤ n) ∧ (q → 4 * (tbc - 1) ≤ n)
    let becomes (es : List BusEvent) (stored : List (Nat × Byte)) (d : IopChan) : Prop :=
      IopDoes ch es dstIo stored s t ∧ t.fresh = s.fresh ∧ t.chan ch = d
    -- the first fetch of a cycle, and the read of the translate table
    (c.hold = none → sync ≠ 1 ∨ c.drq = true →
      let n := if kind = .wordBytes ∨ kind = .wordWord then 2 else 1
      ∀ bs es, s.iopSeesAll srcIo (spaceBytes srcIo n (c.get srcReg).toNat) = some (bs, es) →
      ∀ v es', (if c.cc.getLsbD 13 = true ∧ kind = .byteByte then
          ∃ b, s.iopSees c.gc.tag (inSpace c.gc.tag (c.gc.addr.toNat + bytesNumber bs)) = some (b, es') ∧ v = b.toNat
        else v = bytesNumber bs ∧ es' = []) →
      becomes (es' ++ es) [] { fetched n with
        locked := c.locked || c.cc.getLsbD 9
        hold := some ⟨BitVec.ofNat 16 v, n, kind, false, if kind = .bytesWord then .fetch else .store⟩ })
    -- the second fetch, which EXT prevents
    ∧ (∀ h : IopHold, c.hold = some h → h.stage = .fetch →
      (ext → becomes [] [] { c with hold := some { h with ext := true, stage := .store } })
      ∧ ∀ bs es, ¬ext → s.iopSeesAll srcIo (spaceBytes srcIo 1 (c.get srcReg).toNat) = some (bs, es) →
        becomes es [] { fetched 1 with
          hold := some { h with value := BitVec.ofNat 16 (h.value.toNat % 256 + 256 * bytesNumber bs), count := 2, stage := .store } })
    -- a wait for DRQ, before a source-synchronized cycle or a destination-synchronized store
    ∧ (c.drq = false → sync = 1 → c.hold = none → (¬ext → t = s) ∧ (ext → becomes [] [] (resumed (4 * (tx - 1)))))
    ∧ (∀ h : IopHold, c.hold = some h → h.stage = .store → c.drq = false → sync = 2 →
      (¬ext → t = s) ∧ (ext → becomes [] [] { c with hold := some { h with ext := true } }))
    -- a store
    ∧ (∀ h : IopHold, c.hold = some h → h.stage = .store → sync ≠ 2 ∨ c.drq = true →
      let k := if h.count = 2 ∧ (h.kind = .bytesWord ∨ h.kind = .wordWord) then 2 else 1
      ∃ e : Bool, (e = true ↔ h.ext = true ∨ ext) ∧
        becomes [] ((spaceBytes dstIo k (c.get dstReg).toNat).zip (numberBytes k h.value.toNat))
          { moved c dstReg toMem k with hold := some { h with ext := e, stage := .check } })
    -- the tests after a store
    ∧ ∀ h : IopHold, c.hold = some h → h.stage = .check →
      let word : Prop := h.count = 2 ∧ (h.kind = .bytesWord ∨ h.kind = .wordWord)
      let done : Prop := word ∨ h.count ≤ 1
      let e : Prop := (h.ext = true ∨ ext) ∧ single = false
      let stopped : Prop := single = false ∧ ((h.ext = true ∨ ext) ∨ hit h.value.lo)
      let cut : Prop := stopped ∧ (¬done ∨ (h.kind = .bytesWord ∧ ¬word))
      (single = true → done → becomes [] [] (resumed 0))
      ∧ (¬stopped → ¬done → becomes [] [] { c with hold := some { h with value := h.value >>> 8, count := 1, stage := .store } })
      ∧ (single = false → ¬stopped → done → ¬counted →
          becomes [] [] { c with hold := none, locked := if sync = 1 ∨ sync = 2 then c.locked else false })
      ∧ (single = false → ¬cut → stopped ∨ (done ∧ counted) → ∃ n, offset e (hit h.value.lo) counted n ∧ becomes [] [] (resumed n))
      ∧ (cut → IopDoes ch [] dstIo [] s t ∧
          let d := t.chan ch
          (∃ n, offset e (hit h.value.lo) counted n ∧ d = { resumed n with bc := d.bc, ga := d.ga, gb := d.gb })
            ∧ d.tag .ga = c.tag .ga ∧ d.tag .gb = c.tag .gb
            ∧ (fromMem = false → d.get srcReg = c.get srcReg) ∧ (toMem = false → d.get dstReg = c.get dstReg)
            ∧ (hit h.value.lo ∨ (fromMem = true ∧ sync ≠ 1 ∧ sync ≠ 2) ∨ (fromMem = false ∧ sync = 1) → d.get dstReg = c.get dstReg)
            ∧ (toMem = false → fromMem = true → hit h.value.lo ∨ sync = 2 →
                d.get srcReg = (c.ptr srcReg |>.advance (BitVec.ofInt 20 (if done then 0 else -1))).addr))
end

