-- ==== Sys2Proof/Laws/Memory.lean ====
section
/-! SUPPORT. The laws of memory (20_memory.md R30; log 3): a read after a write, and that every memory operation keeps the canonical form. -/

namespace Sys2Proof.Machine

@[simp] theorem Memory.read_nil (a : Nat) : Memory.read [] a = unlistedByte := rfl

/-- A write leaves every other address alone, whatever the list. -/
theorem Memory.read_write_other (m : Memory) {a b : Nat} (v : Byte) (h : b ≠ a) : (m.write a v).read b = m.read b := by
  induction m with
  | nil => by_cases hv : v = unlistedByte <;> simp [Memory.write, Memory.read, hv, h]
  | cons c rest ih =>
    obtain ⟨x, w⟩ := c
    simp only [Memory.write]
    split
    · split
      · rfl
      · simp [Memory.read, h]
    · split
      · subst a
        split <;> simp [Memory.read, h]
      · simp [Memory.read, ih]

/-- The two parts of the canonical form of a list that is not empty. -/
theorem Memory.wf_cons (x : Nat) (w : Byte) (rest : Memory) :
    Memory.wf ((x, w) :: rest) = true ↔ w ≠ unlistedByte ∧ Memory.above x rest = true ∧ Memory.wf rest = true := by
  simp [Memory.wf, and_assoc]

/-- Below the first listed address nothing is listed. -/
theorem Memory.read_of_above {m : Memory} {n a : Nat} (hw : m.wf = true) (hn : m.above n = true) (ha : a ≤ n) :
    m.read a = unlistedByte := by
  induction m generalizing n with
  | nil => rfl
  | cons c rest ih =>
    obtain ⟨x, w⟩ := c
    have hx : n < x := by simpa [Memory.above] using hn
    obtain ⟨-, hr, hwr⟩ := (Memory.wf_cons x w rest).1 hw
    have : a ≠ x := by omega
    simp only [Memory.read, this, if_false]
    exact ih hwr hr (by omega)

/-- A read after a write to the same address gives the byte written. -/
theorem Memory.read_write_same {m : Memory} (hw : m.wf = true) (a : Nat) (v : Byte) : (m.write a v).read a = v := by
  induction m with
  | nil => by_cases hv : v = unlistedByte <;> simp [Memory.write, Memory.read, hv]
  | cons c rest ih =>
    obtain ⟨x, w⟩ := c
    obtain ⟨-, hr, hwr⟩ := (Memory.wf_cons x w rest).1 hw
    simp only [Memory.write]
    split
    · split
      · rename_i h hv
        have : a ≠ x := by omega
        simp [Memory.read, this, hv, Memory.read_of_above hwr hr (by omega : a ≤ x)]
      · simp [Memory.read]
    · split
      · rename_i h
        subst h
        split
        · rename_i hv
          simp [hv, Memory.read_of_above hwr hr (Nat.le_refl a)]
        · simp [Memory.read]
      · rename_i h
        simp [Memory.read, h, ih hwr]

/-- A write keeps "every listed address is above `n`" for an address above `n`. -/
theorem Memory.above_write {m : Memory} {n a : Nat} (v : Byte) (hw : m.wf = true) (hn : m.above n = true) (ha : n < a) :
    (m.write a v).above n = true := by
  cases m with
  | nil => by_cases hv : v = unlistedByte <;> simp [Memory.write, Memory.above, hv, ha]
  | cons c rest =>
    obtain ⟨x, w⟩ := c
    have hx : n < x := by simpa [Memory.above] using hn
    obtain ⟨-, hr, -⟩ := (Memory.wf_cons x w rest).1 hw
    simp only [Memory.write]
    split
    · split <;> simp [Memory.above, hx, ha]
    · split
      · split
        · cases rest with
          | nil => rfl
          | cons d more =>
            obtain ⟨y, u⟩ := d
            have : x < y := by simpa [Memory.above] using hr
            simp [Memory.above]; omega
        · simp [Memory.above, ha]
      · simp [Memory.above, hx]

/-- A write keeps the canonical form. -/
theorem Memory.wf_write {m : Memory} (hw : m.wf = true) (a : Nat) (v : Byte) : (m.write a v).wf = true := by
  induction m with
  | nil => by_cases hv : v = unlistedByte <;> simp [Memory.write, Memory.wf, Memory.above, hv]
  | cons c rest ih =>
    obtain ⟨x, w⟩ := c
    obtain ⟨h0, hr, hwr⟩ := (Memory.wf_cons x w rest).1 hw
    simp only [Memory.write]
    split
    · split
      · exact hw
      · rename_i h hv
        exact (Memory.wf_cons _ _ _).2 ⟨hv, by simpa [Memory.above] using h, hw⟩
    · split
      · rename_i h
        subst h
        split
        · exact hwr
        · rename_i hv
          exact (Memory.wf_cons _ _ _).2 ⟨hv, hr, hwr⟩
      · exact (Memory.wf_cons _ _ _).2 ⟨h0, Memory.above_write v hwr hr (by omega), ih hwr⟩

/-- A write lists no address but its own. -/
theorem Memory.mem_write {m : Memory} {a : Nat} {v : Byte} {c : Host.Cell} (h : c ∈ m.write a v) : c = (a, v) ∨ c ∈ m := by
  induction m with
  | nil => by_cases hv : v = unlistedByte <;> simp_all [Memory.write]
  | cons d rest ih =>
    obtain ⟨x, w⟩ := d
    simp only [Memory.write] at h
    split at h
    · split at h
      · exact .inr h
      · rcases List.mem_cons.1 h with h | h
        · exact .inl h
        · exact .inr h
    · split at h
      · split at h
        · exact .inr (List.mem_cons_of_mem _ h)
        · rcases List.mem_cons.1 h with h | h
          · exact .inl h
          · exact .inr (List.mem_cons_of_mem _ h)
      · rcases List.mem_cons.1 h with h | h
        · exact .inr (h ▸ List.mem_cons_self ..)
        · rcases ih h with h | h
          · exact .inl h
          · exact .inr (List.mem_cons_of_mem _ h)

/-- A write keeps every listed address in an address space. -/
theorem Memory.bound_write {m : Memory} {n a : Nat} (v : Byte) (ha : a < n) (h : ∀ c ∈ m, c.1 < n) :
    ∀ c ∈ m.write a v, c.1 < n := by
  intro c hc
  rcases Memory.mem_write hc with rfl | hc
  · exact ha
  · exact h c hc

/-- Canonical memories that read alike are equal: equal memories are equal data. -/
theorem Memory.ext_read {m m' : Memory} (hw : m.wf = true) (hw' : m'.wf = true) (h : ∀ a, m.read a = m'.read a) : m = m' := by
  induction m generalizing m' with
  | nil =>
    cases m' with
    | nil => rfl
    | cons c rest =>
      obtain ⟨x, w⟩ := c
      have := h x
      simp [Memory.read] at this
      exact absurd this.symm ((Memory.wf_cons x w rest).1 hw').1
  | cons c rest ih =>
    obtain ⟨x, w⟩ := c
    obtain ⟨h0, hr, hwr⟩ := (Memory.wf_cons x w rest).1 hw
    cases m' with
    | nil =>
      have := h x
      simp [Memory.read] at this
      exact absurd this h0
    | cons c' rest' =>
      obtain ⟨y, u⟩ := c'
      obtain ⟨h0', hr', hwr'⟩ := (Memory.wf_cons y u rest').1 hw'
      have hxy : x = y := by
        refine Decidable.byContradiction fun hne => ?_
        rcases Nat.lt_or_gt_of_ne hne with hlt | hlt
        · have := h x
          simp [Memory.read, hne, Memory.read_of_above hwr' hr' (by omega : x ≤ y)] at this
          exact h0 this
        · have := h y
          simp [Memory.read, Ne.symm hne, Memory.read_of_above hwr hr (by omega : y ≤ x)] at this
          exact h0' this.symm
      subst hxy
      have hu : w = u := by simpa [Memory.read] using h x
      subst hu
      congr 1
      refine ih hwr hwr' fun a => ?_
      by_cases ha : a = x
      · rw [ha, Memory.read_of_above hwr hr (Nat.le_refl x), Memory.read_of_above hwr' hr' (Nat.le_refl x)]
      · simpa [Memory.read, ha] using h a

/-- The memory of the reset state is in canonical form. -/
theorem Memory.wf_reset : State.reset.mem.wf = true := rfl

/-- What a port was made to present is what it presents. -/
theorem presented_present_same (cells : List Host.Cell) (p : Nat) (v : Byte) : presented (present cells p v) p = some v := by
  induction cells with
  | nil => simp [present, presented]
  | cons c rest ih =>
    obtain ⟨q, w⟩ := c
    simp only [present]
    split
    · simp [presented]
    · split
      · simp [presented]
      · rename_i h
        simp [presented, h, ih]

end Sys2Proof.Machine
end

