-- ==== Sys2Proof/Laws/Decode.lean ====
section
/-! SUPPORT. The decoder reads what the encoder writes, piece by piece: fields, the mod byte, opcode and tail. -/

namespace Sys2Proof

@[simp] theorem Reg.ofBits_bits (r : Reg) : Reg.ofBits r.bits = r := by cases r <;> rfl
@[simp] theorem Base.ofBits_bits (b : Base) : Base.ofBits b.bits = b := by cases b <;> rfl
@[simp] theorem SReg.ofBits_bits (s : SReg) : SReg.ofBits s.bits = s := by cases s <;> rfl
theorem Reg.bits_ofBits (n : BitVec 3) : (Reg.ofBits n).bits = n := by revert n; decide
theorem Word.toNat_mk (h l : Byte) : (Word.mk h l).toNat = h.toNat * 256 + l.toNat := by
  simp only [Word.mk, BitVec.toNat_append]
  rw [← Nat.shiftLeft_add_eq_or_of_lt l.isLt, Nat.shiftLeft_eq]
@[simp] theorem Word.mk_hi_lo (w : Word) : Word.mk (Word.hi w) (Word.lo w) = w := by
  apply BitVec.eq_of_toNat_eq
  have : w.toNat < 65536 := w.isLt
  simp [Word.toNat_mk, Word.hi, Word.lo, Nat.shiftRight_eq_div_pow]
  omega
@[simp] theorem Word.lo_mk (h l : Byte) : Word.lo (Word.mk h l) = l := by
  apply BitVec.eq_of_toNat_eq
  have := l.isLt
  simp [Word.lo, Word.toNat_mk]
  omega
@[simp] theorem Word.hi_mk (h l : Byte) : Word.hi (Word.mk h l) = h := by
  apply BitVec.eq_of_toNat_eq
  have := l.isLt
  have := h.isLt
  simp [Word.hi, Word.toNat_mk, Nat.shiftRight_eq_div_pow]
  omega

/-- The three fields of a mod byte. -/
theorem modrm_fields : ∀ (m : BitVec 2) (r x : BitVec 3),
    (m ++ r ++ x).extractLsb' 3 3 = r ∧ (m ++ r ++ x).extractLsb' 0 3 = x ∧ (m ++ r ++ x).extractLsb' 6 2 = m := by
  decide

theorem Base.bits_ne_six {b : Base} (h : b ≠ .bp) : b.bits ≠ 6 := by cases b <;> simp_all [Base.bits]

/-- The mod byte and its displacement come back. -/
theorem decodeModRm_encodeModRm (reg : BitVec 3) (rm : Rm) (rest : List Byte) (h : rm.wellFormed = true) :
    decodeModRm (encodeModRm reg rm ++ rest) = some (reg, rm, rest, (encodeModRm reg rm).length) := by
  cases rm with
  | reg r =>
    obtain ⟨h1, h2, h3⟩ := modrm_fields 3 reg r.bits
    simp only [encodeModRm, decodeModRm, List.cons_append, List.nil_append, h1, h2, h3, Reg.ofBits_bits]
    rfl
  | ind b =>
    obtain ⟨h1, h2, h3⟩ := modrm_fields 0 reg b.bits
    have hb : b ≠ .bp := by simpa [Rm.wellFormed] using h
    have hne := Base.bits_ne_six hb
    simp only [encodeModRm, decodeModRm, List.cons_append, List.nil_append, h1, h2, h3, Base.ofBits_bits]
    exact if_neg hne
  | disp8 b d =>
    obtain ⟨h1, h2, h3⟩ := modrm_fields 1 reg b.bits
    simp only [encodeModRm, decodeModRm, List.cons_append, List.nil_append, h1, h2, h3, Base.ofBits_bits]
    rfl
  | disp16 b d =>
    obtain ⟨h1, h2, h3⟩ := modrm_fields 2 reg b.bits
    simp only [encodeModRm, decodeModRm, encWord, List.cons_append, List.nil_append, h1, h2, h3, Base.ofBits_bits, Word.mk_hi_lo]
    rfl
  | direct a =>
    obtain ⟨h1, h2, h3⟩ := modrm_fields 0 reg 6
    simp only [encodeModRm, decodeModRm, encWord, List.cons_append, List.nil_append, h1, h2, h3, Word.mk_hi_lo]
    rfl

theorem Rm.wellFormedMem_wellFormed {rm : Rm} (h : rm.wellFormedMem = true) : rm.wellFormed = true := by
  cases rm <;> simp_all [Rm.wellFormedMem, Rm.wellFormed]

theorem Rm.wellFormedMem_isMem {rm : Rm} (h : rm.wellFormedMem = true) : rm.isMem = true := by
  cases rm <;> simp_all [Rm.wellFormedMem, Rm.isMem]

/-- An opcode without a mod byte. -/
theorem decode_plain {b : Byte} {t : Tail} (h : opcodeForm b = .plain t) (rest : List Byte) :
    decode (b :: rest) = t.run 1 rest := by
  simp [decode, h]

/-- An opcode with a mod byte. -/
theorem decode_modrm {b : Byte} {f : BitVec 3 → Rm → Tail} (h : opcodeForm b = .modrm f) {reg : BitVec 3} {rm : Rm}
    (hrm : rm.wellFormed = true) (rest : List Byte) :
    decode (b :: (encodeModRm reg rm ++ rest)) = (f reg rm).run ((encodeModRm reg rm).length + 1) rest := by
  simp [decode, h, decodeModRm_encodeModRm reg rm rest hrm, Nat.add_comm]

/-- The same for an instruction whose operand must be memory. -/
theorem decode_modrm_mem {b : Byte} {f : BitVec 3 → Rm → Tail} (h : opcodeForm b = .modrm f) {reg : BitVec 3} {rm : Rm}
    {t : Tail} (hf : f reg rm = .memOnly rm t) (hrm : rm.wellFormedMem = true) (rest : List Byte) :
    decode (b :: (encodeModRm reg rm ++ rest)) = t.run ((encodeModRm reg rm).length + 1) rest := by
  rw [decode_modrm h (Rm.wellFormedMem_wellFormed hrm), hf, Tail.memOnly, Rm.wellFormedMem_isMem hrm]
  rfl

/-- An ESC with a memory operand. -/
theorem decode_esc_mem {b : Byte} {lo : BitVec 3} (h : opcodeForm b = escForm lo) {reg : BitVec 3} {rm : Rm}
    (hrm : rm.wellFormedMem = true) (rest : List Byte) :
    decode (b :: (encodeModRm reg rm ++ rest)) = .ok (escMem lo reg rm, (encodeModRm reg rm).length + 1) := by
  rw [decode_modrm (f := fun reg rm => match rm with
    | .reg r => .ok (escReg lo reg r.bits)
    | m => .ok (escMem lo reg m)) h (Rm.wellFormedMem_wellFormed hrm)]
  cases rm <;> first | rfl | simp [Rm.wellFormedMem] at hrm

/-- An ESC with a stack element or a fixed second byte. -/
theorem decode_esc_reg {b : Byte} {lo : BitVec 3} (h : opcodeForm b = escForm lo) (reg i : BitVec 3) (rest : List Byte) :
    decode (b :: ((3 : BitVec 2) ++ reg ++ i) :: rest) = .ok (escReg lo reg i, 2) := by
  obtain ⟨h1, h2, h3⟩ := modrm_fields 3 reg i
  simp only [decode, h, escForm, decodeModRm, h1, h2, h3]
  show Except.ok (escReg lo reg (Reg.ofBits i).bits, 2) = _
  rw [Reg.bits_ofBits]

@[simp] theorem Tail.run_ok (i : Instr) (n : Nat) (bs : List Byte) : (Tail.ok i).run n bs = .ok (i, n) := rfl
@[simp] theorem Tail.run_b (f : Byte → Instr) (n : Nat) (x : Byte) (bs : List Byte) :
    (Tail.b f).run n (x :: bs) = .ok (f x, n + 1) := rfl
@[simp] theorem Tail.run_w (f : Word → Instr) (n : Nat) (v : Word) (bs : List Byte) :
    (Tail.w f).run n (encWord v ++ bs) = .ok (f v, n + 2) := by
  simp [encWord, Tail.run]
@[simp] theorem Tail.run_ww (f : Word → Word → Instr) (n : Nat) (u v : Word) (bs : List Byte) :
    (Tail.ww f).run n (encWord u ++ (encWord v ++ bs)) = .ok (f u v, n + 4) := by
  simp [encWord, Tail.run]
@[simp] theorem Tail.run_wb (f : Word → Byte → Instr) (n : Nat) (u : Word) (x : Byte) (bs : List Byte) :
    (Tail.wb f).run n (encWord u ++ x :: bs) = .ok (f u x, n + 3) := by
  simp [encWord, Tail.run]
@[simp] theorem immTail_byte (f : Imm → Instr) : immTail .byte f = .b fun x => f (.byte x) := rfl
@[simp] theorem immTail_word (f : Imm → Instr) : immTail .word f = .w fun x => f (.word x) := rfl
@[simp] theorem encWord_length (v : Word) : (encWord v).length = 2 := rfl

end Sys2Proof
end

