-- ==== Sys2Proof/Laws/State.lean ====
section
/-! SUPPORT. The small lemmas of every update of the state: one per update and field, so that no later proof unfolds a record update. -/

namespace Sys2Proof.Machine

/-! ### State.set -/

@[simp] theorem State.set_cfg (r : Reg) (v : Word) (s : State) : (s.set r v).cfg = s.cfg := rfl
@[simp] theorem State.set_regs (r : Reg) (v : Word) (s : State) : (s.set r v).regs = s.regs.set r v := rfl
@[simp] theorem State.set_segs (r : Reg) (v : Word) (s : State) : (s.set r v).segs = s.segs := rfl
@[simp] theorem State.set_ip (r : Reg) (v : Word) (s : State) : (s.set r v).ip = s.ip := rfl
@[simp] theorem State.set_flags (r : Reg) (v : Word) (s : State) : (s.set r v).flags = s.flags := rfl
@[simp] theorem State.set_ctl (r : Reg) (v : Word) (s : State) : (s.set r v).ctl = s.ctl := rfl
@[simp] theorem State.set_pins (r : Reg) (v : Word) (s : State) : (s.set r v).pins = s.pins := rfl
@[simp] theorem State.set_mem (r : Reg) (v : Word) (s : State) : (s.set r v).mem = s.mem := rfl
@[simp] theorem State.set_io (r : Reg) (v : Word) (s : State) : (s.set r v).io = s.io := rfl
@[simp] theorem State.set_pcb (r : Reg) (v : Word) (s : State) : (s.set r v).pcb = s.pcb := rfl
@[simp] theorem State.set_npx (r : Reg) (v : Word) (s : State) : (s.set r v).npx = s.npx := rfl
@[simp] theorem State.set_iop (r : Reg) (v : Word) (s : State) : (s.set r v).iop = s.iop := rfl
@[simp] theorem State.set_fresh (r : Reg) (v : Word) (s : State) : (s.set r v).fresh = s.fresh := rfl
@[simp] theorem State.set_stop (r : Reg) (v : Word) (s : State) : (s.set r v).stop = s.stop := rfl
@[simp] theorem State.set_moves (r : Reg) (v : Word) (s : State) : (s.set r v).moves = s.moves := rfl
@[simp] theorem State.set_turns (r : Reg) (v : Word) (s : State) : (s.set r v).turns = s.turns := rfl

/-! ### State.set8 -/

@[simp] theorem State.set8_cfg (r : Reg8) (v : Byte) (s : State) : (s.set8 r v).cfg = s.cfg := rfl
@[simp] theorem State.set8_regs (r : Reg8) (v : Byte) (s : State) : (s.set8 r v).regs = s.regs.set8 r v := rfl
@[simp] theorem State.set8_segs (r : Reg8) (v : Byte) (s : State) : (s.set8 r v).segs = s.segs := rfl
@[simp] theorem State.set8_ip (r : Reg8) (v : Byte) (s : State) : (s.set8 r v).ip = s.ip := rfl
@[simp] theorem State.set8_flags (r : Reg8) (v : Byte) (s : State) : (s.set8 r v).flags = s.flags := rfl
@[simp] theorem State.set8_ctl (r : Reg8) (v : Byte) (s : State) : (s.set8 r v).ctl = s.ctl := rfl
@[simp] theorem State.set8_pins (r : Reg8) (v : Byte) (s : State) : (s.set8 r v).pins = s.pins := rfl
@[simp] theorem State.set8_mem (r : Reg8) (v : Byte) (s : State) : (s.set8 r v).mem = s.mem := rfl
@[simp] theorem State.set8_io (r : Reg8) (v : Byte) (s : State) : (s.set8 r v).io = s.io := rfl
@[simp] theorem State.set8_pcb (r : Reg8) (v : Byte) (s : State) : (s.set8 r v).pcb = s.pcb := rfl
@[simp] theorem State.set8_npx (r : Reg8) (v : Byte) (s : State) : (s.set8 r v).npx = s.npx := rfl
@[simp] theorem State.set8_iop (r : Reg8) (v : Byte) (s : State) : (s.set8 r v).iop = s.iop := rfl
@[simp] theorem State.set8_fresh (r : Reg8) (v : Byte) (s : State) : (s.set8 r v).fresh = s.fresh := rfl
@[simp] theorem State.set8_stop (r : Reg8) (v : Byte) (s : State) : (s.set8 r v).stop = s.stop := rfl
@[simp] theorem State.set8_moves (r : Reg8) (v : Byte) (s : State) : (s.set8 r v).moves = s.moves := rfl
@[simp] theorem State.set8_turns (r : Reg8) (v : Byte) (s : State) : (s.set8 r v).turns = s.turns := rfl

/-! ### State.setSeg -/

@[simp] theorem State.setSeg_cfg (r : SReg) (v : Word) (s : State) : (s.setSeg r v).cfg = s.cfg := rfl
@[simp] theorem State.setSeg_regs (r : SReg) (v : Word) (s : State) : (s.setSeg r v).regs = s.regs := rfl
@[simp] theorem State.setSeg_segs (r : SReg) (v : Word) (s : State) : (s.setSeg r v).segs = s.segs.set r v := rfl
@[simp] theorem State.setSeg_ip (r : SReg) (v : Word) (s : State) : (s.setSeg r v).ip = s.ip := rfl
@[simp] theorem State.setSeg_flags (r : SReg) (v : Word) (s : State) : (s.setSeg r v).flags = s.flags := rfl
@[simp] theorem State.setSeg_ctl (r : SReg) (v : Word) (s : State) : (s.setSeg r v).ctl = s.ctl := rfl
@[simp] theorem State.setSeg_pins (r : SReg) (v : Word) (s : State) : (s.setSeg r v).pins = s.pins := rfl
@[simp] theorem State.setSeg_mem (r : SReg) (v : Word) (s : State) : (s.setSeg r v).mem = s.mem := rfl
@[simp] theorem State.setSeg_io (r : SReg) (v : Word) (s : State) : (s.setSeg r v).io = s.io := rfl
@[simp] theorem State.setSeg_pcb (r : SReg) (v : Word) (s : State) : (s.setSeg r v).pcb = s.pcb := rfl
@[simp] theorem State.setSeg_npx (r : SReg) (v : Word) (s : State) : (s.setSeg r v).npx = s.npx := rfl
@[simp] theorem State.setSeg_iop (r : SReg) (v : Word) (s : State) : (s.setSeg r v).iop = s.iop := rfl
@[simp] theorem State.setSeg_fresh (r : SReg) (v : Word) (s : State) : (s.setSeg r v).fresh = s.fresh := rfl
@[simp] theorem State.setSeg_stop (r : SReg) (v : Word) (s : State) : (s.setSeg r v).stop = s.stop := rfl
@[simp] theorem State.setSeg_moves (r : SReg) (v : Word) (s : State) : (s.setSeg r v).moves = s.moves := rfl
@[simp] theorem State.setSeg_turns (r : SReg) (v : Word) (s : State) : (s.setSeg r v).turns = s.turns := rfl

/-! ### State.setIp -/

@[simp] theorem State.setIp_cfg (v : Word) (s : State) : (s.setIp v).cfg = s.cfg := rfl
@[simp] theorem State.setIp_regs (v : Word) (s : State) : (s.setIp v).regs = s.regs := rfl
@[simp] theorem State.setIp_segs (v : Word) (s : State) : (s.setIp v).segs = s.segs := rfl
@[simp] theorem State.setIp_ip (v : Word) (s : State) : (s.setIp v).ip = v := rfl
@[simp] theorem State.setIp_flags (v : Word) (s : State) : (s.setIp v).flags = s.flags := rfl
@[simp] theorem State.setIp_ctl (v : Word) (s : State) : (s.setIp v).ctl = s.ctl := rfl
@[simp] theorem State.setIp_pins (v : Word) (s : State) : (s.setIp v).pins = s.pins := rfl
@[simp] theorem State.setIp_mem (v : Word) (s : State) : (s.setIp v).mem = s.mem := rfl
@[simp] theorem State.setIp_io (v : Word) (s : State) : (s.setIp v).io = s.io := rfl
@[simp] theorem State.setIp_pcb (v : Word) (s : State) : (s.setIp v).pcb = s.pcb := rfl
@[simp] theorem State.setIp_npx (v : Word) (s : State) : (s.setIp v).npx = s.npx := rfl
@[simp] theorem State.setIp_iop (v : Word) (s : State) : (s.setIp v).iop = s.iop := rfl
@[simp] theorem State.setIp_fresh (v : Word) (s : State) : (s.setIp v).fresh = s.fresh := rfl
@[simp] theorem State.setIp_stop (v : Word) (s : State) : (s.setIp v).stop = s.stop := rfl
@[simp] theorem State.setIp_moves (v : Word) (s : State) : (s.setIp v).moves = s.moves := rfl
@[simp] theorem State.setIp_turns (v : Word) (s : State) : (s.setIp v).turns = s.turns := rfl

/-! ### State.setFlags -/

@[simp] theorem State.setFlags_cfg (f : Flags) (s : State) : (s.setFlags f).cfg = s.cfg := rfl
@[simp] theorem State.setFlags_regs (f : Flags) (s : State) : (s.setFlags f).regs = s.regs := rfl
@[simp] theorem State.setFlags_segs (f : Flags) (s : State) : (s.setFlags f).segs = s.segs := rfl
@[simp] theorem State.setFlags_ip (f : Flags) (s : State) : (s.setFlags f).ip = s.ip := rfl
@[simp] theorem State.setFlags_flags (f : Flags) (s : State) : (s.setFlags f).flags = f := rfl
@[simp] theorem State.setFlags_ctl (f : Flags) (s : State) : (s.setFlags f).ctl = s.ctl := rfl
@[simp] theorem State.setFlags_pins (f : Flags) (s : State) : (s.setFlags f).pins = s.pins := rfl
@[simp] theorem State.setFlags_mem (f : Flags) (s : State) : (s.setFlags f).mem = s.mem := rfl
@[simp] theorem State.setFlags_io (f : Flags) (s : State) : (s.setFlags f).io = s.io := rfl
@[simp] theorem State.setFlags_pcb (f : Flags) (s : State) : (s.setFlags f).pcb = s.pcb := rfl
@[simp] theorem State.setFlags_npx (f : Flags) (s : State) : (s.setFlags f).npx = s.npx := rfl
@[simp] theorem State.setFlags_iop (f : Flags) (s : State) : (s.setFlags f).iop = s.iop := rfl
@[simp] theorem State.setFlags_fresh (f : Flags) (s : State) : (s.setFlags f).fresh = s.fresh := rfl
@[simp] theorem State.setFlags_stop (f : Flags) (s : State) : (s.setFlags f).stop = s.stop := rfl
@[simp] theorem State.setFlags_moves (f : Flags) (s : State) : (s.setFlags f).moves = s.moves := rfl
@[simp] theorem State.setFlags_turns (f : Flags) (s : State) : (s.setFlags f).turns = s.turns := rfl

/-! ### scramble -/

@[simp] theorem scramble_cfg (m : FlagSet) (s : State) : (scramble m s).cfg = s.cfg := rfl
@[simp] theorem scramble_regs (m : FlagSet) (s : State) : (scramble m s).regs = s.regs := rfl
@[simp] theorem scramble_segs (m : FlagSet) (s : State) : (scramble m s).segs = s.segs := rfl
@[simp] theorem scramble_ip (m : FlagSet) (s : State) : (scramble m s).ip = s.ip := rfl
@[simp] theorem scramble_flags (m : FlagSet) (s : State) : (scramble m s).flags = s.flags.scrambled m (Config.freeFlags s.fresh) := rfl
@[simp] theorem scramble_ctl (m : FlagSet) (s : State) : (scramble m s).ctl = s.ctl := rfl
@[simp] theorem scramble_pins (m : FlagSet) (s : State) : (scramble m s).pins = s.pins := rfl
@[simp] theorem scramble_mem (m : FlagSet) (s : State) : (scramble m s).mem = s.mem := rfl
@[simp] theorem scramble_io (m : FlagSet) (s : State) : (scramble m s).io = s.io := rfl
@[simp] theorem scramble_pcb (m : FlagSet) (s : State) : (scramble m s).pcb = s.pcb := rfl
@[simp] theorem scramble_npx (m : FlagSet) (s : State) : (scramble m s).npx = s.npx := rfl
@[simp] theorem scramble_iop (m : FlagSet) (s : State) : (scramble m s).iop = s.iop := rfl
@[simp] theorem scramble_fresh (m : FlagSet) (s : State) : (scramble m s).fresh = s.fresh + 1 := rfl
@[simp] theorem scramble_stop (m : FlagSet) (s : State) : (scramble m s).stop = s.stop := rfl
@[simp] theorem scramble_moves (m : FlagSet) (s : State) : (scramble m s).moves = s.moves := rfl
@[simp] theorem scramble_turns (m : FlagSet) (s : State) : (scramble m s).turns = s.turns := rfl

/-! ### State.draw -/

@[simp] theorem State.draw_cfg (s : State) : (s.draw).cfg = s.cfg := rfl
@[simp] theorem State.draw_regs (s : State) : (s.draw).regs = s.regs := rfl
@[simp] theorem State.draw_segs (s : State) : (s.draw).segs = s.segs := rfl
@[simp] theorem State.draw_ip (s : State) : (s.draw).ip = s.ip := rfl
@[simp] theorem State.draw_flags (s : State) : (s.draw).flags = s.flags := rfl
@[simp] theorem State.draw_ctl (s : State) : (s.draw).ctl = s.ctl := rfl
@[simp] theorem State.draw_pins (s : State) : (s.draw).pins = s.pins := rfl
@[simp] theorem State.draw_mem (s : State) : (s.draw).mem = s.mem := rfl
@[simp] theorem State.draw_io (s : State) : (s.draw).io = s.io := rfl
@[simp] theorem State.draw_pcb (s : State) : (s.draw).pcb = s.pcb := rfl
@[simp] theorem State.draw_npx (s : State) : (s.draw).npx = s.npx := rfl
@[simp] theorem State.draw_iop (s : State) : (s.draw).iop = s.iop := rfl
@[simp] theorem State.draw_fresh (s : State) : (s.draw).fresh = s.fresh + 1 := rfl
@[simp] theorem State.draw_stop (s : State) : (s.draw).stop = s.stop := rfl
@[simp] theorem State.draw_moves (s : State) : (s.draw).moves = s.moves := rfl
@[simp] theorem State.draw_turns (s : State) : (s.draw).turns = s.turns := rfl

/-! ### State.event -/

@[simp] theorem State.event_cfg (e : BusEvent) (s : State) : (s.event e).cfg = s.cfg := rfl
@[simp] theorem State.event_regs (e : BusEvent) (s : State) : (s.event e).regs = s.regs := rfl
@[simp] theorem State.event_segs (e : BusEvent) (s : State) : (s.event e).segs = s.segs := rfl
@[simp] theorem State.event_ip (e : BusEvent) (s : State) : (s.event e).ip = s.ip := rfl
@[simp] theorem State.event_flags (e : BusEvent) (s : State) : (s.event e).flags = s.flags := rfl
@[simp] theorem State.event_ctl (e : BusEvent) (s : State) : (s.event e).ctl = s.ctl := rfl
@[simp] theorem State.event_pins (e : BusEvent) (s : State) : (s.event e).pins = s.pins := rfl
@[simp] theorem State.event_mem (e : BusEvent) (s : State) : (s.event e).mem = s.mem := rfl
@[simp] theorem State.event_io (e : BusEvent) (s : State) : (s.event e).io = { s.io with trace := e :: s.io.trace } := rfl
@[simp] theorem State.event_pcb (e : BusEvent) (s : State) : (s.event e).pcb = s.pcb := rfl
@[simp] theorem State.event_npx (e : BusEvent) (s : State) : (s.event e).npx = s.npx := rfl
@[simp] theorem State.event_iop (e : BusEvent) (s : State) : (s.event e).iop = s.iop := rfl
@[simp] theorem State.event_fresh (e : BusEvent) (s : State) : (s.event e).fresh = s.fresh := rfl
@[simp] theorem State.event_stop (e : BusEvent) (s : State) : (s.event e).stop = s.stop := rfl
@[simp] theorem State.event_moves (e : BusEvent) (s : State) : (s.event e).moves = s.moves := rfl
@[simp] theorem State.event_turns (e : BusEvent) (s : State) : (s.event e).turns = s.turns := rfl

/-! ### State.refuse -/

@[simp] theorem State.refuse_cfg (r : Refusal) (s : State) : (s.refuse r).cfg = s.cfg := rfl
@[simp] theorem State.refuse_regs (r : Refusal) (s : State) : (s.refuse r).regs = s.regs := rfl
@[simp] theorem State.refuse_segs (r : Refusal) (s : State) : (s.refuse r).segs = s.segs := rfl
@[simp] theorem State.refuse_ip (r : Refusal) (s : State) : (s.refuse r).ip = s.ip := rfl
@[simp] theorem State.refuse_flags (r : Refusal) (s : State) : (s.refuse r).flags = s.flags := rfl
@[simp] theorem State.refuse_ctl (r : Refusal) (s : State) : (s.refuse r).ctl = s.ctl := rfl
@[simp] theorem State.refuse_pins (r : Refusal) (s : State) : (s.refuse r).pins = s.pins := rfl
@[simp] theorem State.refuse_mem (r : Refusal) (s : State) : (s.refuse r).mem = s.mem := rfl
@[simp] theorem State.refuse_io (r : Refusal) (s : State) : (s.refuse r).io = s.io := rfl
@[simp] theorem State.refuse_pcb (r : Refusal) (s : State) : (s.refuse r).pcb = s.pcb := rfl
@[simp] theorem State.refuse_npx (r : Refusal) (s : State) : (s.refuse r).npx = s.npx := rfl
@[simp] theorem State.refuse_iop (r : Refusal) (s : State) : (s.refuse r).iop = s.iop := rfl
@[simp] theorem State.refuse_fresh (r : Refusal) (s : State) : (s.refuse r).fresh = s.fresh := rfl
@[simp] theorem State.refuse_stop (r : Refusal) (s : State) : (s.refuse r).stop = s.stop.or (some r) := rfl
@[simp] theorem State.refuse_moves (r : Refusal) (s : State) : (s.refuse r).moves = s.moves := rfl
@[simp] theorem State.refuse_turns (r : Refusal) (s : State) : (s.refuse r).turns = s.turns := rfl

/-! ### State.setIc -/

@[simp] theorem State.setIc_cfg (c : Ic) (s : State) : (s.setIc c).cfg = s.cfg := rfl
@[simp] theorem State.setIc_regs (c : Ic) (s : State) : (s.setIc c).regs = s.regs := rfl
@[simp] theorem State.setIc_segs (c : Ic) (s : State) : (s.setIc c).segs = s.segs := rfl
@[simp] theorem State.setIc_ip (c : Ic) (s : State) : (s.setIc c).ip = s.ip := rfl
@[simp] theorem State.setIc_flags (c : Ic) (s : State) : (s.setIc c).flags = s.flags := rfl
@[simp] theorem State.setIc_ctl (c : Ic) (s : State) : (s.setIc c).ctl = s.ctl := rfl
@[simp] theorem State.setIc_pins (c : Ic) (s : State) : (s.setIc c).pins = s.pins := rfl
@[simp] theorem State.setIc_mem (c : Ic) (s : State) : (s.setIc c).mem = s.mem := rfl
@[simp] theorem State.setIc_io (c : Ic) (s : State) : (s.setIc c).io = s.io := rfl
@[simp] theorem State.setIc_pcb (c : Ic) (s : State) : (s.setIc c).pcb = { s.pcb with ic := c } := rfl
@[simp] theorem State.setIc_npx (c : Ic) (s : State) : (s.setIc c).npx = s.npx := rfl
@[simp] theorem State.setIc_iop (c : Ic) (s : State) : (s.setIc c).iop = s.iop := rfl
@[simp] theorem State.setIc_fresh (c : Ic) (s : State) : (s.setIc c).fresh = s.fresh := rfl
@[simp] theorem State.setIc_stop (c : Ic) (s : State) : (s.setIc c).stop = s.stop := rfl
@[simp] theorem State.setIc_moves (c : Ic) (s : State) : (s.setIc c).moves = s.moves := rfl
@[simp] theorem State.setIc_turns (c : Ic) (s : State) : (s.setIc c).turns = s.turns := rfl

/-! ### State.setNpx -/

@[simp] theorem State.setNpx_cfg (n : Npx) (s : State) : (s.setNpx n).cfg = s.cfg := rfl
@[simp] theorem State.setNpx_regs (n : Npx) (s : State) : (s.setNpx n).regs = s.regs := rfl
@[simp] theorem State.setNpx_segs (n : Npx) (s : State) : (s.setNpx n).segs = s.segs := rfl
@[simp] theorem State.setNpx_ip (n : Npx) (s : State) : (s.setNpx n).ip = s.ip := rfl
@[simp] theorem State.setNpx_flags (n : Npx) (s : State) : (s.setNpx n).flags = s.flags := rfl
@[simp] theorem State.setNpx_ctl (n : Npx) (s : State) : (s.setNpx n).ctl = s.ctl := rfl
@[simp] theorem State.setNpx_pins (n : Npx) (s : State) : (s.setNpx n).pins = s.pins := rfl
@[simp] theorem State.setNpx_mem (n : Npx) (s : State) : (s.setNpx n).mem = s.mem := rfl
@[simp] theorem State.setNpx_io (n : Npx) (s : State) : (s.setNpx n).io = s.io := rfl
@[simp] theorem State.setNpx_pcb (n : Npx) (s : State) : (s.setNpx n).pcb = s.pcb := rfl
@[simp] theorem State.setNpx_npx (n : Npx) (s : State) : (s.setNpx n).npx = n := rfl
@[simp] theorem State.setNpx_iop (n : Npx) (s : State) : (s.setNpx n).iop = s.iop := rfl
@[simp] theorem State.setNpx_fresh (n : Npx) (s : State) : (s.setNpx n).fresh = s.fresh := rfl
@[simp] theorem State.setNpx_stop (n : Npx) (s : State) : (s.setNpx n).stop = s.stop := rfl
@[simp] theorem State.setNpx_moves (n : Npx) (s : State) : (s.setNpx n).moves = s.moves := rfl
@[simp] theorem State.setNpx_turns (n : Npx) (s : State) : (s.setNpx n).turns = s.turns := rfl

/-! ### State.inhibit -/

@[simp] theorem State.inhibit_cfg (s : State) : (s.inhibit).cfg = s.cfg := rfl
@[simp] theorem State.inhibit_regs (s : State) : (s.inhibit).regs = s.regs := rfl
@[simp] theorem State.inhibit_segs (s : State) : (s.inhibit).segs = s.segs := rfl
@[simp] theorem State.inhibit_ip (s : State) : (s.inhibit).ip = s.ip := rfl
@[simp] theorem State.inhibit_flags (s : State) : (s.inhibit).flags = s.flags := rfl
@[simp] theorem State.inhibit_ctl (s : State) : (s.inhibit).ctl = { s.ctl with intInhibit := true } := rfl
@[simp] theorem State.inhibit_pins (s : State) : (s.inhibit).pins = s.pins := rfl
@[simp] theorem State.inhibit_mem (s : State) : (s.inhibit).mem = s.mem := rfl
@[simp] theorem State.inhibit_io (s : State) : (s.inhibit).io = s.io := rfl
@[simp] theorem State.inhibit_pcb (s : State) : (s.inhibit).pcb = s.pcb := rfl
@[simp] theorem State.inhibit_npx (s : State) : (s.inhibit).npx = s.npx := rfl
@[simp] theorem State.inhibit_iop (s : State) : (s.inhibit).iop = s.iop := rfl
@[simp] theorem State.inhibit_fresh (s : State) : (s.inhibit).fresh = s.fresh := rfl
@[simp] theorem State.inhibit_stop (s : State) : (s.inhibit).stop = s.stop := rfl
@[simp] theorem State.inhibit_moves (s : State) : (s.inhibit).moves = s.moves := rfl
@[simp] theorem State.inhibit_turns (s : State) : (s.inhibit).turns = s.turns := rfl

/-! ### State.delayIntr -/

@[simp] theorem State.delayIntr_cfg (c : Bool) (s : State) : (s.delayIntr c).cfg = s.cfg := rfl
@[simp] theorem State.delayIntr_regs (c : Bool) (s : State) : (s.delayIntr c).regs = s.regs := rfl
@[simp] theorem State.delayIntr_segs (c : Bool) (s : State) : (s.delayIntr c).segs = s.segs := rfl
@[simp] theorem State.delayIntr_ip (c : Bool) (s : State) : (s.delayIntr c).ip = s.ip := rfl
@[simp] theorem State.delayIntr_flags (c : Bool) (s : State) : (s.delayIntr c).flags = s.flags := rfl
@[simp] theorem State.delayIntr_ctl (c : Bool) (s : State) : (s.delayIntr c).ctl = { s.ctl with intrDelay := s.ctl.intrDelay || c } := rfl
@[simp] theorem State.delayIntr_pins (c : Bool) (s : State) : (s.delayIntr c).pins = s.pins := rfl
@[simp] theorem State.delayIntr_mem (c : Bool) (s : State) : (s.delayIntr c).mem = s.mem := rfl
@[simp] theorem State.delayIntr_io (c : Bool) (s : State) : (s.delayIntr c).io = s.io := rfl
@[simp] theorem State.delayIntr_pcb (c : Bool) (s : State) : (s.delayIntr c).pcb = s.pcb := rfl
@[simp] theorem State.delayIntr_npx (c : Bool) (s : State) : (s.delayIntr c).npx = s.npx := rfl
@[simp] theorem State.delayIntr_iop (c : Bool) (s : State) : (s.delayIntr c).iop = s.iop := rfl
@[simp] theorem State.delayIntr_fresh (c : Bool) (s : State) : (s.delayIntr c).fresh = s.fresh := rfl
@[simp] theorem State.delayIntr_stop (c : Bool) (s : State) : (s.delayIntr c).stop = s.stop := rfl
@[simp] theorem State.delayIntr_moves (c : Bool) (s : State) : (s.delayIntr c).moves = s.moves := rfl
@[simp] theorem State.delayIntr_turns (c : Bool) (s : State) : (s.delayIntr c).turns = s.turns := rfl

/-! ### State.setPhase -/

@[simp] theorem State.setPhase_cfg (p : Phase) (s : State) : (s.setPhase p).cfg = s.cfg := rfl
@[simp] theorem State.setPhase_regs (p : Phase) (s : State) : (s.setPhase p).regs = s.regs := rfl
@[simp] theorem State.setPhase_segs (p : Phase) (s : State) : (s.setPhase p).segs = s.segs := rfl
@[simp] theorem State.setPhase_ip (p : Phase) (s : State) : (s.setPhase p).ip = s.ip := rfl
@[simp] theorem State.setPhase_flags (p : Phase) (s : State) : (s.setPhase p).flags = s.flags := rfl
@[simp] theorem State.setPhase_ctl (p : Phase) (s : State) : (s.setPhase p).ctl = { s.ctl with phase := p } := rfl
@[simp] theorem State.setPhase_pins (p : Phase) (s : State) : (s.setPhase p).pins = s.pins := rfl
@[simp] theorem State.setPhase_mem (p : Phase) (s : State) : (s.setPhase p).mem = s.mem := rfl
@[simp] theorem State.setPhase_io (p : Phase) (s : State) : (s.setPhase p).io = s.io := rfl
@[simp] theorem State.setPhase_pcb (p : Phase) (s : State) : (s.setPhase p).pcb = s.pcb := rfl
@[simp] theorem State.setPhase_npx (p : Phase) (s : State) : (s.setPhase p).npx = s.npx := rfl
@[simp] theorem State.setPhase_iop (p : Phase) (s : State) : (s.setPhase p).iop = s.iop := rfl
@[simp] theorem State.setPhase_fresh (p : Phase) (s : State) : (s.setPhase p).fresh = s.fresh := rfl
@[simp] theorem State.setPhase_stop (p : Phase) (s : State) : (s.setPhase p).stop = s.stop := rfl
@[simp] theorem State.setPhase_moves (p : Phase) (s : State) : (s.setPhase p).moves = s.moves := rfl
@[simp] theorem State.setPhase_turns (p : Phase) (s : State) : (s.setPhase p).turns = s.turns := rfl

/-! ### State.setLatches -/

@[simp] theorem State.setLatches_cfg (l : Latches) (s : State) : (s.setLatches l).cfg = s.cfg := rfl
@[simp] theorem State.setLatches_regs (l : Latches) (s : State) : (s.setLatches l).regs = s.regs := rfl
@[simp] theorem State.setLatches_segs (l : Latches) (s : State) : (s.setLatches l).segs = s.segs := rfl
@[simp] theorem State.setLatches_ip (l : Latches) (s : State) : (s.setLatches l).ip = s.ip := rfl
@[simp] theorem State.setLatches_flags (l : Latches) (s : State) : (s.setLatches l).flags = s.flags := rfl
@[simp] theorem State.setLatches_ctl (l : Latches) (s : State) : (s.setLatches l).ctl = { s.ctl with latches := l, phase := .prefixed } := rfl
@[simp] theorem State.setLatches_pins (l : Latches) (s : State) : (s.setLatches l).pins = s.pins := rfl
@[simp] theorem State.setLatches_mem (l : Latches) (s : State) : (s.setLatches l).mem = s.mem := rfl
@[simp] theorem State.setLatches_io (l : Latches) (s : State) : (s.setLatches l).io = s.io := rfl
@[simp] theorem State.setLatches_pcb (l : Latches) (s : State) : (s.setLatches l).pcb = s.pcb := rfl
@[simp] theorem State.setLatches_npx (l : Latches) (s : State) : (s.setLatches l).npx = s.npx := rfl
@[simp] theorem State.setLatches_iop (l : Latches) (s : State) : (s.setLatches l).iop = s.iop := rfl
@[simp] theorem State.setLatches_fresh (l : Latches) (s : State) : (s.setLatches l).fresh = s.fresh := rfl
@[simp] theorem State.setLatches_stop (l : Latches) (s : State) : (s.setLatches l).stop = s.stop := rfl
@[simp] theorem State.setLatches_moves (l : Latches) (s : State) : (s.setLatches l).moves = s.moves := rfl
@[simp] theorem State.setLatches_turns (l : Latches) (s : State) : (s.setLatches l).turns = s.turns := rfl

/-! ### State.setDma -/

@[simp] theorem State.setDma_cfg (ch : Bool) (c : DmaChan) (s : State) : (s.setDma ch c).cfg = s.cfg := rfl
@[simp] theorem State.setDma_regs (ch : Bool) (c : DmaChan) (s : State) : (s.setDma ch c).regs = s.regs := rfl
@[simp] theorem State.setDma_segs (ch : Bool) (c : DmaChan) (s : State) : (s.setDma ch c).segs = s.segs := rfl
@[simp] theorem State.setDma_ip (ch : Bool) (c : DmaChan) (s : State) : (s.setDma ch c).ip = s.ip := rfl
@[simp] theorem State.setDma_flags (ch : Bool) (c : DmaChan) (s : State) : (s.setDma ch c).flags = s.flags := rfl
@[simp] theorem State.setDma_ctl (ch : Bool) (c : DmaChan) (s : State) : (s.setDma ch c).ctl = s.ctl := rfl
@[simp] theorem State.setDma_pins (ch : Bool) (c : DmaChan) (s : State) : (s.setDma ch c).pins = s.pins := rfl
@[simp] theorem State.setDma_mem (ch : Bool) (c : DmaChan) (s : State) : (s.setDma ch c).mem = s.mem := rfl
@[simp] theorem State.setDma_io (ch : Bool) (c : DmaChan) (s : State) : (s.setDma ch c).io = s.io := rfl
@[simp] theorem State.setDma_pcb (ch : Bool) (c : DmaChan) (s : State) : (s.setDma ch c).pcb = s.pcb.setDma ch c := rfl
@[simp] theorem State.setDma_npx (ch : Bool) (c : DmaChan) (s : State) : (s.setDma ch c).npx = s.npx := rfl
@[simp] theorem State.setDma_iop (ch : Bool) (c : DmaChan) (s : State) : (s.setDma ch c).iop = s.iop := rfl
@[simp] theorem State.setDma_fresh (ch : Bool) (c : DmaChan) (s : State) : (s.setDma ch c).fresh = s.fresh := rfl
@[simp] theorem State.setDma_stop (ch : Bool) (c : DmaChan) (s : State) : (s.setDma ch c).stop = s.stop := rfl
@[simp] theorem State.setDma_moves (ch : Bool) (c : DmaChan) (s : State) : (s.setDma ch c).moves = s.moves := rfl
@[simp] theorem State.setDma_turns (ch : Bool) (c : DmaChan) (s : State) : (s.setDma ch c).turns = s.turns := rfl

/-! ### State.setChan -/

@[simp] theorem State.setChan_cfg (ch : Bool) (c : IopChan) (s : State) : (s.setChan ch c).cfg = s.cfg := rfl
@[simp] theorem State.setChan_regs (ch : Bool) (c : IopChan) (s : State) : (s.setChan ch c).regs = s.regs := rfl
@[simp] theorem State.setChan_segs (ch : Bool) (c : IopChan) (s : State) : (s.setChan ch c).segs = s.segs := rfl
@[simp] theorem State.setChan_ip (ch : Bool) (c : IopChan) (s : State) : (s.setChan ch c).ip = s.ip := rfl
@[simp] theorem State.setChan_flags (ch : Bool) (c : IopChan) (s : State) : (s.setChan ch c).flags = s.flags := rfl
@[simp] theorem State.setChan_ctl (ch : Bool) (c : IopChan) (s : State) : (s.setChan ch c).ctl = s.ctl := rfl
@[simp] theorem State.setChan_pins (ch : Bool) (c : IopChan) (s : State) : (s.setChan ch c).pins = s.pins := rfl
@[simp] theorem State.setChan_mem (ch : Bool) (c : IopChan) (s : State) : (s.setChan ch c).mem = s.mem := rfl
@[simp] theorem State.setChan_io (ch : Bool) (c : IopChan) (s : State) : (s.setChan ch c).io = s.io := rfl
@[simp] theorem State.setChan_pcb (ch : Bool) (c : IopChan) (s : State) : (s.setChan ch c).pcb = s.pcb := rfl
@[simp] theorem State.setChan_npx (ch : Bool) (c : IopChan) (s : State) : (s.setChan ch c).npx = s.npx := rfl
@[simp] theorem State.setChan_iop (ch : Bool) (c : IopChan) (s : State) : (s.setChan ch c).iop = s.iop.setChan ch c := rfl
@[simp] theorem State.setChan_fresh (ch : Bool) (c : IopChan) (s : State) : (s.setChan ch c).fresh = s.fresh := rfl
@[simp] theorem State.setChan_stop (ch : Bool) (c : IopChan) (s : State) : (s.setChan ch c).stop = s.stop := rfl
@[simp] theorem State.setChan_moves (ch : Bool) (c : IopChan) (s : State) : (s.setChan ch c).moves = s.moves := rfl
@[simp] theorem State.setChan_turns (ch : Bool) (c : IopChan) (s : State) : (s.setChan ch c).turns = s.turns := rfl

/-! ### State.complete -/

@[simp] theorem State.complete_cfg (s : State) : (s.complete).cfg = s.cfg := rfl
@[simp] theorem State.complete_regs (s : State) : (s.complete).regs = s.regs := rfl
@[simp] theorem State.complete_segs (s : State) : (s.complete).segs = s.segs := rfl
@[simp] theorem State.complete_ip (s : State) : (s.complete).ip = s.ip := rfl
@[simp] theorem State.complete_flags (s : State) : (s.complete).flags = s.flags := rfl
@[simp] theorem State.complete_ctl (s : State) : (s.complete).ctl = { s.ctl with phase := .fresh, latches := .none } := rfl
@[simp] theorem State.complete_pins (s : State) : (s.complete).pins = s.pins := rfl
@[simp] theorem State.complete_mem (s : State) : (s.complete).mem = s.mem := rfl
@[simp] theorem State.complete_io (s : State) : (s.complete).io = s.io := rfl
@[simp] theorem State.complete_pcb (s : State) : (s.complete).pcb = s.pcb := rfl
@[simp] theorem State.complete_npx (s : State) : (s.complete).npx = s.npx := rfl
@[simp] theorem State.complete_iop (s : State) : (s.complete).iop = s.iop := rfl
@[simp] theorem State.complete_fresh (s : State) : (s.complete).fresh = s.fresh := rfl
@[simp] theorem State.complete_stop (s : State) : (s.complete).stop = s.stop := rfl
@[simp] theorem State.complete_moves (s : State) : (s.complete).moves = s.moves := rfl
@[simp] theorem State.complete_turns (s : State) : (s.complete).turns = s.turns := rfl

/-! ### State.dropHolds -/

@[simp] theorem State.dropHolds_cfg (s : State) : (s.dropHolds).cfg = s.cfg := rfl
@[simp] theorem State.dropHolds_regs (s : State) : (s.dropHolds).regs = s.regs := rfl
@[simp] theorem State.dropHolds_segs (s : State) : (s.dropHolds).segs = s.segs := rfl
@[simp] theorem State.dropHolds_ip (s : State) : (s.dropHolds).ip = s.ip := rfl
@[simp] theorem State.dropHolds_flags (s : State) : (s.dropHolds).flags = s.flags := rfl
@[simp] theorem State.dropHolds_ctl (s : State) : (s.dropHolds).ctl = { s.ctl with intInhibit := false, intrDelay := false, heldAll := s.ctl.intInhibit, heldIntr := s.ctl.intrDelay } := rfl
@[simp] theorem State.dropHolds_pins (s : State) : (s.dropHolds).pins = s.pins := rfl
@[simp] theorem State.dropHolds_mem (s : State) : (s.dropHolds).mem = s.mem := rfl
@[simp] theorem State.dropHolds_io (s : State) : (s.dropHolds).io = s.io := rfl
@[simp] theorem State.dropHolds_pcb (s : State) : (s.dropHolds).pcb = s.pcb := rfl
@[simp] theorem State.dropHolds_npx (s : State) : (s.dropHolds).npx = s.npx := rfl
@[simp] theorem State.dropHolds_iop (s : State) : (s.dropHolds).iop = s.iop := rfl
@[simp] theorem State.dropHolds_fresh (s : State) : (s.dropHolds).fresh = s.fresh := rfl
@[simp] theorem State.dropHolds_stop (s : State) : (s.dropHolds).stop = s.stop := rfl
@[simp] theorem State.dropHolds_moves (s : State) : (s.dropHolds).moves = s.moves := rfl
@[simp] theorem State.dropHolds_turns (s : State) : (s.dropHolds).turns = s.turns := rfl

/-! ### State.enter -/

@[simp] theorem State.enter_cfg (n : Nat) (s : State) : (s.enter n).cfg = s.cfg := rfl
@[simp] theorem State.enter_regs (n : Nat) (s : State) : (s.enter n).regs = s.regs := rfl
@[simp] theorem State.enter_segs (n : Nat) (s : State) : (s.enter n).segs = s.segs := rfl
@[simp] theorem State.enter_ip (n : Nat) (s : State) : (s.enter n).ip = s.ip + BitVec.ofNat 16 n := rfl
@[simp] theorem State.enter_flags (n : Nat) (s : State) : (s.enter n).flags = s.flags := rfl
@[simp] theorem State.enter_ctl (n : Nat) (s : State) : (s.enter n).ctl = s.ctl.begin s.flags.tf s.ip (s.code.headD 0) := rfl
@[simp] theorem State.enter_pins (n : Nat) (s : State) : (s.enter n).pins = s.pins := rfl
@[simp] theorem State.enter_mem (n : Nat) (s : State) : (s.enter n).mem = s.mem := rfl
@[simp] theorem State.enter_io (n : Nat) (s : State) : (s.enter n).io = s.io := rfl
@[simp] theorem State.enter_pcb (n : Nat) (s : State) : (s.enter n).pcb = s.pcb := rfl
@[simp] theorem State.enter_npx (n : Nat) (s : State) : (s.enter n).npx = s.npx := rfl
@[simp] theorem State.enter_iop (n : Nat) (s : State) : (s.enter n).iop = s.iop := rfl
@[simp] theorem State.enter_fresh (n : Nat) (s : State) : (s.enter n).fresh = s.fresh + 1 := rfl
@[simp] theorem State.enter_stop (n : Nat) (s : State) : (s.enter n).stop = s.stop := rfl
@[simp] theorem State.enter_moves (n : Nat) (s : State) : (s.enter n).moves = s.moves := rfl
@[simp] theorem State.enter_turns (n : Nat) (s : State) : (s.enter n).turns = s.turns := rfl

/-! ### repeatAgain -/

@[simp] theorem repeatAgain_cfg (s : State) : (repeatAgain s).cfg = s.cfg := rfl
@[simp] theorem repeatAgain_regs (s : State) : (repeatAgain s).regs = s.regs := rfl
@[simp] theorem repeatAgain_segs (s : State) : (repeatAgain s).segs = s.segs := rfl
@[simp] theorem repeatAgain_ip (s : State) : (repeatAgain s).ip = s.ctl.opIp := rfl
@[simp] theorem repeatAgain_flags (s : State) : (repeatAgain s).flags = s.flags := rfl
@[simp] theorem repeatAgain_ctl (s : State) : (repeatAgain s).ctl = { s.ctl with phase := .repeating } := rfl
@[simp] theorem repeatAgain_pins (s : State) : (repeatAgain s).pins = s.pins := rfl
@[simp] theorem repeatAgain_mem (s : State) : (repeatAgain s).mem = s.mem := rfl
@[simp] theorem repeatAgain_io (s : State) : (repeatAgain s).io = s.io := rfl
@[simp] theorem repeatAgain_pcb (s : State) : (repeatAgain s).pcb = s.pcb := rfl
@[simp] theorem repeatAgain_npx (s : State) : (repeatAgain s).npx = s.npx := rfl
@[simp] theorem repeatAgain_iop (s : State) : (repeatAgain s).iop = s.iop := rfl
@[simp] theorem repeatAgain_fresh (s : State) : (repeatAgain s).fresh = s.fresh := rfl
@[simp] theorem repeatAgain_stop (s : State) : (repeatAgain s).stop = s.stop := rfl
@[simp] theorem repeatAgain_moves (s : State) : (repeatAgain s).moves = s.moves := rfl
@[simp] theorem repeatAgain_turns (s : State) : (repeatAgain s).turns = s.turns := rfl

/-! ## Register files -/

@[simp] theorem Regs.get_set (g : Regs) (r q : Reg) (v : Word) : (g.set r v).get q = if q = r then v else g.get q := by
  cases r <;> cases q <;> rfl

@[simp] theorem Segs.get_set (g : Segs) (r q : SReg) (v : Word) : (g.set r v).get q = if q = r then v else g.get q := by
  cases r <;> cases q <;> rfl

@[simp] theorem State.get_set (r q : Reg) (v : Word) (s : State) : (s.set r v).get q = if q = r then v else s.get q :=
  Regs.get_set s.regs r q v

/-- A half register reads back what was written; every other half register is kept. -/
theorem Regs.get8_set8 (g : Regs) (r q : Reg8) (v : Byte) : (g.set8 r v).get8 q = if q = r then v else g.get8 q := by
  cases r <;> cases q <;> simp [Regs.get8, Regs.set8]

/-- Writing a half register leaves the four registers that have no halves. -/
theorem Regs.set8_whole (g : Regs) (r : Reg8) (v : Byte) :
    (g.set8 r v).sp = g.sp ∧ (g.set8 r v).bp = g.bp ∧ (g.set8 r v).si = g.si ∧ (g.set8 r v).di = g.di := by
  cases r <;> exact ⟨rfl, rfl, rfl, rfl⟩

/-- Two half registers make their register (10_state.md R14). -/
theorem Regs.get_eq_mk (g : Regs) :
    g.ax = Word.mk (g.get8 .ah) (g.get8 .al) ∧ g.cx = Word.mk (g.get8 .ch) (g.get8 .cl)
      ∧ g.dx = Word.mk (g.get8 .dh) (g.get8 .dl) ∧ g.bx = Word.mk (g.get8 .bh) (g.get8 .bl) := by
  simp [Regs.get8]

end Sys2Proof.Machine
end

