-- ==== Sys2Proof/Laws/Bus.lean ====
section
/-! SUPPORT. What each bus access can do, said once: which part of the state it can change, and which bytes of memory. -/

namespace Sys2Proof.Machine

/-! ## The control block -/

theorem drawWord_only (s : State) : ∃ n, (drawWord s).2 = { s with fresh := n } := ⟨s.fresh + 1, rfl⟩

theorem readPtrHigh_only (p : Phys) (s : State) : ∃ n, (readPtrHigh p s).2 = { s with fresh := n } := ⟨s.fresh + 1, rfl⟩

theorem dmaRead_only (c : DmaChan) (k : Nat) (s : State) : ∃ n, (dmaRead c k s).2 = { s with fresh := n } := by
  unfold dmaRead
  split <;> first | exact ⟨s.fresh, rfl⟩ | exact ⟨s.fresh + 1, rfl⟩

theorem pollValue_only (s : State) : ∃ n, (pollValue s).2 = { s with fresh := n } := by
  unfold pollValue
  split <;> first | exact ⟨s.fresh, rfl⟩ | exact ⟨s.fresh + 1, rfl⟩

theorem pollAck_only (s : State) : ∃ p, pollAck s = { s with pcb := p } := by
  unfold pollAck
  split
  · exact ⟨_, rfl⟩
  · exact ⟨s.pcb, rfl⟩

/-- A read of an interrupt controller register changes the block and the draw count, nothing else. -/
theorem icRead_only (off : Nat) (s : State) : ∃ p n, (icRead off s).2 = { s with pcb := p, fresh := n } := by
  have free : ∃ p n, (drawWord s).2 = { s with pcb := p, fresh := n } := ⟨s.pcb, s.fresh + 1, rfl⟩
  have same : ∃ p n, s = { s with pcb := p, fresh := n } := ⟨s.pcb, s.fresh, rfl⟩
  unfold icRead
  dsimp only
  split
  case h_7 =>
    by_cases hr : s.pcb.rmx = true
    · obtain ⟨p, hp⟩ := pollAck_only s
      rw [if_pos hr, hp]
      exact ⟨p, s.fresh + 1, rfl⟩
    · obtain ⟨n, hn⟩ := pollValue_only s
      obtain ⟨p, hp⟩ := pollAck_only (pollValue s).2
      rw [if_neg hr]
      exact ⟨p, n, by show pollAck (pollValue s).2 = _; rw [hp, hn]⟩
  case h_6 =>
    split
    · exact free
    · obtain ⟨n, hn⟩ := pollValue_only s
      exact ⟨s.pcb, n, hn⟩
  case h_9 =>
    split
    · split
      · exact same
      · exact free
    · exact free
  all_goals
    first
    | exact same
    | (split <;> first | exact same | exact free)

theorem touchChipSelect_only (off : Nat) (s : State) : ∃ p, touchChipSelect off s = { s with pcb := p } := by
  unfold touchChipSelect
  split <;> exact ⟨_, rfl⟩

/-- A read of a control block register changes the block and the draw count, nothing else. -/
theorem pcbRead_only (off : Nat) (s : State) : ∃ p n, (s.pcbRead off).2 = { s with pcb := p, fresh := n } := by
  have touched (k : Nat) : ∃ p n, touchChipSelect k s = { s with pcb := p, fresh := n } := by
    obtain ⟨p, hp⟩ := touchChipSelect_only k s
    exact ⟨p, s.fresh, hp⟩
  unfold State.pcbRead
  dsimp only
  split
  all_goals
    first
    | exact ⟨s.pcb, s.fresh, rfl⟩
    | (dsimp only; exact touched _)
    | skip
  split
  · obtain ⟨n, hn⟩ := dmaRead_only s.pcb.dma1 (off - 0xD0) s
    exact ⟨s.pcb, n, hn⟩
  · split
    · obtain ⟨n, hn⟩ := dmaRead_only s.pcb.dma0 (off - 0xC0) s
      exact ⟨s.pcb, n, hn⟩
    · split
      · exact icRead_only off s
      · exact ⟨s.pcb, s.fresh + 1, rfl⟩

theorem writeTimerRequest_only (b : Bool) (s : State) :
    ∃ p n, writeTimerRequest b s = { s with pcb := p, fresh := n } := by
  unfold writeTimerRequest
  split
  · split
    · exact ⟨_, s.fresh + 1, rfl⟩
    · exact ⟨s.pcb, s.fresh, rfl⟩
  · exact ⟨_, s.fresh, rfl⟩

theorem writeRequest_only (w : Word) (s : State) : ∃ p n, writeRequest w s = { s with pcb := p, fresh := n } := by
  unfold writeRequest
  dsimp only
  split
  · exact ⟨_, s.fresh, rfl⟩
  · obtain ⟨p, n, h⟩ := writeTimerRequest_only (w.getLsbD 0) (s.setIc { s.pcb.ic with reqDma := w.extractLsb' 2 2 })
    exact ⟨p, n, by rw [h]; rfl⟩

/-- A write of an interrupt controller register changes the block and the draw count, nothing else. -/
theorem icWrite_only (off : Nat) (w : Word) (s : State) : ∃ p n, icWrite off w s = { s with pcb := p, fresh := n } := by
  unfold icWrite
  dsimp only
  split
  case h_2 => exact writeRequest_only w s
  case h_6 =>
    split
    · obtain ⟨p, hp⟩ := pollAck_only s
      exact ⟨p, s.fresh, hp⟩
    · exact ⟨s.pcb, s.fresh, rfl⟩
  all_goals
    first
    | exact ⟨_, s.fresh, rfl⟩
    | (split
       · exact ⟨s.pcb, s.fresh, rfl⟩
       · exact ⟨_, s.fresh, rfl⟩)
    | (split
       · exact ⟨_, s.fresh, rfl⟩
       · exact ⟨s.pcb, s.fresh, rfl⟩)
    | (split
       · split
         · exact ⟨_, s.fresh, rfl⟩
         · exact ⟨s.pcb, s.fresh, rfl⟩
       · exact ⟨s.pcb, s.fresh, rfl⟩)

theorem writeReloc_only (w : Word) (s : State) : ∃ p r, writeReloc w s = { s with pcb := p, stop := r } := by
  unfold writeReloc
  dsimp only
  split
  · exact ⟨s.pcb, _, rfl⟩
  · split
    · exact ⟨s.pcb, _, rfl⟩
    · exact ⟨_, s.stop, rfl⟩

/-- A write of a control block register changes the block, the draw count and the pending refusal, nothing else. -/
theorem pcbWrite_only (off : Nat) (w : Word) (s : State) :
    ∃ p n r, s.pcbWrite off w = { s with pcb := p, fresh := n, stop := r } := by
  have touched (k : Nat) (q : Pcb) :
      ∃ p n r, touchChipSelect k { s with pcb := q } = { s with pcb := p, fresh := n, stop := r } := by
    obtain ⟨p, hp⟩ := touchChipSelect_only k { s with pcb := q }
    exact ⟨p, s.fresh, s.stop, hp⟩
  unfold State.pcbWrite
  dsimp only
  split
  case h_1 =>
    obtain ⟨p, r, h⟩ := writeReloc_only w s
    exact ⟨p, s.fresh, r, h⟩
  all_goals
    first
    | exact touched _ _
    | exact ⟨_, s.fresh, s.stop, rfl⟩
    | skip
  split
  · exact ⟨_, s.fresh, s.stop, rfl⟩
  · split
    · exact ⟨_, s.fresh, s.stop, rfl⟩
    · split
      · obtain ⟨p, n, h⟩ := icWrite_only off w s
        exact ⟨p, n, s.stop, h⟩
      · exact ⟨s.pcb, s.fresh, s.stop, rfl⟩

/-! ## Ordinary memory -/

theorem regionAt_nil (a : Nat) : regionAt [] a = none := rfl

theorem State.PlainMemory.pcbMem {s : State} (h : s.PlainMemory) (a : Phys) : s.pcbMem a = false := by
  unfold State.pcbMem
  by_cases h6 : s.is186 = true
  · simp [h.2.1 h6]
  · simp [h6]

theorem State.PlainMemory.caHit {s : State} (h : s.PlainMemory) (a : Nat) : s.caHit true a = false := by
  unfold State.caHit
  by_cases hi : s.cfg.hasIop = true
  · simp [h.2.2.1 hi]
  · simp [hi]

theorem State.PlainMemory.touchCa {s : State} (h : s.PlainMemory) (a : Nat) : s.touchCa true a = s := by
  simp [State.touchCa, h.caHit a]

theorem State.PlainMemory.npxTouch {s : State} (h : s.PlainMemory) (a : Phys) : s.npxTouch a = s := by
  simp [State.npxTouch, h.2.2.2.1]

theorem State.PlainMemory.npxStoring {s : State} (h : s.PlainMemory) (a : Phys) : s.npxStoring a = false := by
  simp [State.npxStoring, h.2.2.2.1]

/-- No master waits for a turn on the bus, so none takes one. -/
theorem State.yieldBus_nil {s : State} (h : s.turns = []) (joined : Bool) : s.yieldBus joined = s := by
  simp [State.yieldBus, h]

theorem State.yieldHalf_nil {s : State} (h : s.turns = []) (odd : Bool) : s.yieldHalf odd = s := by
  simp [State.yieldHalf, State.yieldBus_nil h]

@[simp] theorem State.othersStore_nil {s : State} (h : s.turns = []) (a : Nat) : ¬s.othersStore a := by
  simp [State.othersStore, h]

theorem State.PlainMemory.turns {s : State} (h : s.PlainMemory) : s.turns = [] := h.2.2.2.2

/-- Ordinary memory stays ordinary while configuration, control block, 8087 and the turns of other masters stay. -/
theorem State.PlainMemory.of_eq {s t : State} (h : s.PlainMemory) (hc : t.cfg = s.cfg) (hp : t.pcb = s.pcb) (hn : t.npx = s.npx)
    (ht : t.turns = s.turns) : t.PlainMemory := by
  unfold State.PlainMemory State.is186 at *
  rw [hc, hp, hn, ht]
  exact h

theorem readCycle_plain {s : State} (h : s.PlainMemory) (a : Phys) : readCycle a s = (s.mem.read a.toNat, s) := by
  simp [readCycle, h.pcbMem, h.touchCa, busRead8, h.1, regionAt_nil, h.npxStoring]

theorem writeCycle_plain {s : State} (h : s.PlainMemory) (a : Phys) (v : Byte) :
    writeCycle a v s = { s with mem := s.mem.write a.toNat v } := by
  simp [writeCycle, h.pcbMem, h.touchCa, busWrite8, h.1, regionAt_nil, h.npxTouch]

/-- On ordinary memory a byte read gives the byte, and changes nothing. -/
theorem memRead8_plain {s : State} (h : s.PlainMemory) (a : Phys) : memRead8 a s = (s.mem.read a.toNat, s) := by
  rw [memRead8, State.yieldBus_nil h.turns, readCycle_plain h]

/-- On ordinary memory a byte write stores the byte, and changes nothing else. -/
theorem memWrite8_plain {s : State} (h : s.PlainMemory) (a : Phys) (v : Byte) :
    memWrite8 a v s = { s with mem := s.mem.write a.toNat v } := by
  rw [memWrite8, State.yieldBus_nil h.turns, writeCycle_plain h]

theorem State.PlainMemory.write {s : State} (h : s.PlainMemory) (m : Memory) : ({ s with mem := m } : State).PlainMemory := h

/-- On ordinary memory a word read gives two bytes, low-order byte at the first address (20_memory.md R31). -/
theorem memRead16_plain {s : State} (h : s.PlainMemory) (a a2 : Phys) :
    memRead16 a a2 s = (Word.mk (s.mem.read a2.toNat) (s.mem.read a.toNat), s) := by
  simp [memRead16, readWord, State.yieldBus_nil h.turns, State.yieldHalf_nil h.turns, State.pcbMemWord, h.pcbMem, readCycle_plain h]

/-- On ordinary memory a word write stores two bytes, low-order byte at the first address (20_memory.md R31). -/
theorem memWrite16_plain {s : State} (h : s.PlainMemory) (a a2 : Phys) (v : Word) :
    memWrite16 a a2 v s = { s with mem := (s.mem.write a.toNat v.lo).write a2.toNat v.hi } := by
  simp [memWrite16, writeWord, State.yieldBus_nil h.turns, State.yieldHalf_nil (h.write _).turns, State.pcbMemWord, h.pcbMem, writeCycle_plain h,
    writeCycle_plain (h.write _)]

/-! ## What every access of the CPU to memory keeps -/

/-- An access keeps the CPU, and of the other agents all that OthersKept names. -/
structure AccessKeeps (s t : State) : Prop where
  regs   : t.regs = s.regs
  segs   : t.segs = s.segs
  ip     : t.ip = s.ip
  flags  : t.flags = s.flags
  ctl    : t.ctl = s.ctl
  others : OthersKept s t

theorem IopChan.sameRegisters_refl (c : IopChan) : c.sameRegisters c := rfl

theorem IopChan.sameRegisters_trans {c d e : IopChan} (h : c.sameRegisters d) (k : d.sameRegisters e) : c.sameRegisters e := by
  unfold IopChan.sameRegisters at *
  calc { e with ca := c.ca } = { { e with ca := d.ca } with ca := c.ca } := rfl
    _ = { d with ca := c.ca } := by rw [k]
    _ = c := h

theorem OthersKept.refl (s : State) : OthersKept s s := by
  refine ⟨rfl, rfl, rfl, rfl, rfl, rfl, rfl, rfl, List.suffix_refl _, fun _ => ⟨rfl, rfl, rfl, rfl, rfl⟩⟩

/-- On ordinary memory no turn waits, so none is left. -/
theorem State.turns_of_suffix {s t : State} (p : s.PlainMemory) (h : t.turns <:+ s.turns) : t.turns = s.turns := by
  rw [p.turns] at h ⊢
  exact List.suffix_nil.1 h

theorem OthersKept.trans {s t u : State} (h : OthersKept s t) (k : OthersKept t u) : OthersKept s u := by
  obtain ⟨h1, h2, h3, h4, h5, h6, h7, h8, ht, h9⟩ := h
  obtain ⟨k1, k2, k3, k4, k5, k6, k7, k8, kt, k9⟩ := k
  refine ⟨k1.trans h1, k2.trans h2, k3.trans h3, k4.trans h4, ?_, IopChan.sameRegisters_trans h6 k6, IopChan.sameRegisters_trans h7 k7,
    ?_, kt.trans ht, fun p => ?_⟩
  · calc ({ u.npx with running := s.npx.running, queued := s.npx.queued } : Npx)
        = { ({ u.npx with running := t.npx.running, queued := t.npx.queued } : Npx) with
            running := s.npx.running, queued := s.npx.queued } := rfl
      _ = { t.npx with running := s.npx.running, queued := s.npx.queued } := by rw [k5]
      _ = s.npx := h5
  · calc ({ u.iop with ch1 := s.iop.ch1, ch2 := s.iop.ch2, initCa := s.iop.initCa } : Iop)
        = { ({ u.iop with ch1 := t.iop.ch1, ch2 := t.iop.ch2, initCa := t.iop.initCa } : Iop) with
            ch1 := s.iop.ch1, ch2 := s.iop.ch2, initCa := s.iop.initCa } := rfl
      _ = { t.iop with ch1 := s.iop.ch1, ch2 := s.iop.ch2, initCa := s.iop.initCa } := by rw [k8]
      _ = s.iop := h8
  · obtain ⟨a1, a2, a3, a4, a5⟩ := h9 p
    obtain ⟨b1, b2, b3, b4, b5⟩ := k9 (p.of_eq h1 a1 a2 (State.turns_of_suffix p ht))
    exact ⟨b1.trans a1, b2.trans a2, b3.trans a3, b4.trans a4, b5.trans a5⟩

/-- The private memory of the 8089 is kept with the 8089. -/
theorem AccessKeeps.remoteIo {s t : State} (h : AccessKeeps s t) : t.iop.remoteIo = s.iop.remoteIo :=
  have k := congrArg Iop.remoteIo h.others.2.2.2.2.2.2.2.1
  k

theorem AccessKeeps.refl (s : State) : AccessKeeps s s := ⟨rfl, rfl, rfl, rfl, rfl, .refl s⟩

theorem AccessKeeps.trans {s t u : State} (h : AccessKeeps s t) (k : AccessKeeps t u) : AccessKeeps s u :=
  ⟨k.regs.trans h.regs, k.segs.trans h.segs, k.ip.trans h.ip, k.flags.trans h.flags, k.ctl.trans h.ctl, h.others.trans k.others⟩

/-- A change of memory and the draw count only. -/
theorem AccessKeeps.of_mem_fresh (s : State) (m : Memory) (n : Nat) : AccessKeeps s { s with mem := m, fresh := n } :=
  ⟨rfl, rfl, rfl, rfl, rfl, rfl, rfl, rfl, rfl, rfl, rfl, rfl, rfl, List.suffix_refl _, fun _ => ⟨rfl, rfl, rfl, rfl, rfl⟩⟩

theorem event_keeps (e : BusEvent) (s : State) (h : ¬ s.PlainMemory) : AccessKeeps s (s.event e) :=
  ⟨rfl, rfl, rfl, rfl, rfl, rfl, rfl, rfl, rfl, rfl, rfl, rfl, rfl, List.suffix_refl _, fun p => absurd p h⟩

theorem touchCa_keeps (a : Nat) (s : State) : AccessKeeps s (s.touchCa true a) := by
  by_cases hp : s.PlainMemory
  · rw [hp.touchCa]
    exact .refl s
  · unfold State.touchCa State.latchCa
    split
    · split <;> exact ⟨rfl, rfl, rfl, rfl, rfl, rfl, rfl, rfl, rfl, rfl, rfl, rfl, rfl, List.suffix_refl _, fun p => absurd p hp⟩
    · exact .refl s

theorem npxTouch_keeps (a : Phys) (s : State) : AccessKeeps s (s.npxTouch a) := by
  by_cases hp : s.PlainMemory
  · rw [hp.npxTouch]
    exact .refl s
  · unfold State.npxTouch
    split
    · exact .refl s
    · exact ⟨rfl, rfl, rfl, rfl, rfl, rfl, rfl, rfl, rfl, rfl, rfl, rfl, rfl, List.suffix_refl _, fun p => absurd p hp⟩

@[simp] theorem touchCa_mem (m : Bool) (a : Nat) (s : State) : (s.touchCa m a).mem = s.mem := by
  unfold State.touchCa State.latchCa
  split
  · split <;> rfl
  · rfl

@[simp] theorem npxTouch_mem (a : Phys) (s : State) : (s.npxTouch a).mem = s.mem := by
  unfold State.npxTouch
  split <;> rfl

theorem not_plain_of_region {s : State} {a : Nat} {k : RegionKind} (h : regionAt s.cfg.regions a = some k) : ¬ s.PlainMemory := by
  intro p
  rw [p.1] at h
  simp [regionAt] at h

/-- A byte read by any bus master keeps the CPU and memory. -/
theorem busRead8_keeps (a : Phys) (s : State) : AccessKeeps s (busRead8 a s).2 ∧ (busRead8 a s).2.mem = s.mem := by
  unfold busRead8
  split
  · exact ⟨.of_mem_fresh s s.mem _, rfl⟩
  · rename_i h
    exact ⟨(AccessKeeps.of_mem_fresh s s.mem (s.fresh + 1)).trans (event_keeps _ _ (not_plain_of_region (s := s.draw) h)), rfl⟩
  · split
    · exact ⟨.of_mem_fresh s s.mem _, rfl⟩
    · exact ⟨.refl s, rfl⟩

/-- A byte write by any bus master keeps the CPU, and every byte of memory but its own. -/
theorem busWrite8_keeps (a : Phys) (v : Byte) (s : State) :
    AccessKeeps s (busWrite8 a v s) ∧ ((busWrite8 a v s).mem = s.mem ∨ (busWrite8 a v s).mem = s.mem.write a.toNat v) := by
  unfold busWrite8
  split
  · exact ⟨.refl s, .inl rfl⟩
  · exact ⟨.refl s, .inl rfl⟩
  · rename_i h
    exact ⟨event_keeps _ _ (not_plain_of_region h), .inl rfl⟩
  · exact ⟨(npxTouch_keeps a s).trans (.of_mem_fresh _ _ _), .inr rfl⟩

/-! ## What every access does to memory -/

/-- An access stores at most to some bytes: the others read as before, those that other masters store to apart, and every property of
memories that byte writes keep is kept (the canonical form, log 3). -/
structure MemoryWritten (bytes : List Nat) (s t : State) : Prop where
  other  : MemoryKeptOutside bytes s t
  closed : ∀ P : Memory → Prop, (∀ m (a : Phys) v, P m → P (m.write a.toNat v)) → P s.mem → P t.mem

theorem MemoryWritten.of_eq {s t : State} (h : t.mem = s.mem) : MemoryWritten [] s t :=
  ⟨fun a _ _ => by rw [h], fun _ _ hs => h ▸ hs⟩

theorem MemoryWritten.of_write {s t : State} (a : Phys) (v : Byte) (h : t.mem = s.mem ∨ t.mem = s.mem.write a.toNat v) :
    MemoryWritten [a.toNat] s t := by
  refine ⟨fun b hb _ => ?_, fun P hP hs => ?_⟩
  · rcases h with h | h
    · rw [h]
    · rw [h, Memory.read_write_other _ _ (by simpa using hb)]
  · rcases h with h | h
    · rw [h]; exact hs
    · rw [h]; exact hP _ a v hs

/-- One access after the other; of the turns that wait the second finds some of those the first found. -/
theorem MemoryWritten.trans {b c : List Nat} {s t u : State} (h : MemoryWritten b s t) (ht : t.turns <:+ s.turns)
    (k : MemoryWritten c t u) : MemoryWritten (b ++ c) s u := by
  refine ⟨fun a ha hs => ?_, fun P hP hs => k.closed P hP (h.closed P hP hs)⟩
  simp only [List.mem_append, not_or] at ha
  rw [k.other a ha.2 fun ⟨x, hx, r⟩ => hs ⟨x, ht.subset hx, r⟩, h.other a ha.1 hs]

theorem MemoryWritten.kept {s t : State} (h : MemoryWritten [] s t) : MemoryKept s t := fun a hs => h.other a List.not_mem_nil hs

/-! ## Turns of other masters, 70_reset_and_hazards.md R307 -/

theorem busRead8_only (a : Phys) (s : State) :
    ∃ n tr, (busRead8 a s).2 = { s with fresh := n, io := { s.io with trace := tr } } := by
  unfold busRead8
  split
  · exact ⟨s.fresh + 1, s.io.trace, rfl⟩
  · exact ⟨s.fresh + 1, _, rfl⟩
  · split
    · exact ⟨s.fresh + 1, s.io.trace, rfl⟩
    · exact ⟨s.fresh, s.io.trace, rfl⟩

/-- A port access of any master changes the draw count and the record of events, nothing else. -/
theorem portRead8_only (p : Word) (s : State) :
    ∃ n tr, (portRead8 p s).2 = { s with fresh := n, io := { s.io with trace := tr } } := by
  unfold portRead8
  split
  · exact ⟨s.fresh, _, rfl⟩
  · exact ⟨s.fresh + 1, _, rfl⟩

/-- What an access of another master can change: the draw count, a byte of memory, the record of events, the marks of a race. -/
theorem busAccess_only (c : BusAccess) (s : State) :
    ∃ n m tr r q, busAccess c s =
        { s with fresh := n, mem := m, io := { s.io with trace := tr }, npx := { s.npx with running := r, queued := q } }
      ∧ (m = s.mem ∨ ∃ a v, c = .write a v ∧ m = s.mem.write (a % 2 ^ 20) v) := by
  cases c with
  | read a =>
    obtain ⟨n, tr, h⟩ := busRead8_only (BitVec.ofNat 20 a) s
    exact ⟨n, s.mem, tr, s.npx.running, s.npx.queued, h, .inl rfl⟩
  | portRead p =>
    obtain ⟨n, tr, h⟩ := portRead8_only (BitVec.ofNat 16 p) s
    exact ⟨n, s.mem, tr, s.npx.running, s.npx.queued, h, .inl rfl⟩
  | portWrite p v => exact ⟨s.fresh, s.mem, _, s.npx.running, s.npx.queued, rfl, .inl rfl⟩
  | write a v =>
    show ∃ n m tr r q, busWrite8 (BitVec.ofNat 20 a) v s = _ ∧ _
    unfold busWrite8
    split
    · exact ⟨s.fresh, s.mem, s.io.trace, s.npx.running, s.npx.queued, rfl, .inl rfl⟩
    · exact ⟨s.fresh, s.mem, s.io.trace, s.npx.running, s.npx.queued, rfl, .inl rfl⟩
    · exact ⟨s.fresh, s.mem, _, s.npx.running, s.npx.queued, rfl, .inl rfl⟩
    · refine ⟨s.fresh, s.mem.write (a % 2 ^ 20) v, s.io.trace, ?_⟩
      unfold State.npxTouch
      split
      · exact ⟨s.npx.running, s.npx.queued, rfl, .inr ⟨a, v, rfl, rfl⟩⟩
      · exact ⟨_, _, rfl, .inr ⟨a, v, rfl, rfl⟩⟩

/-- An access of another master, in a turn that waited at `s`, keeps the CPU and what OthersKept names. -/
theorem AccessKeeps.access {s u : State} (hp : ¬ s.PlainMemory) (h : AccessKeeps s u) (c : BusAccess) : AccessKeeps s (busAccess c u) := by
  obtain ⟨n, m, tr, r, q, e, -⟩ := busAccess_only c u
  rw [e]
  obtain ⟨o1, o2, o3, o4, o5, o6, o7, o8, o9, -⟩ := h.others
  exact ⟨h.regs, h.segs, h.ip, h.flags, h.ctl, o1, o2, o3, o4, o5, o6, o7, o8, o9, fun p => absurd p hp⟩

/-- And of memory all but what it stores to. -/
theorem MemoryWritten.access {s u : State} (h : MemoryWritten [] s u) {t : BusTurn} (ht : t ∈ s.turns) {c : BusAccess} (hc : c ∈ t.accesses) :
    MemoryWritten [] s (busAccess c u) := by
  obtain ⟨n, m, tr, r, q, e, hm⟩ := busAccess_only c u
  rw [e]
  rcases hm with rfl | ⟨a, v, rfl, rfl⟩
  · exact ⟨h.other, h.closed⟩
  · refine ⟨fun b hb hs => ?_, fun P hP hs => hP _ (BitVec.ofNat 20 a) v (h.closed P hP hs)⟩
    show (u.mem.write (a % 2 ^ 20) v).read b = _
    rw [Memory.read_write_other _ _ fun hab => hs ⟨t, ht, _, hc, a, v, rfl, hab⟩]
    exact h.other b hb hs

/-- Before a bus cycle of the CPU: the CPU is kept, and memory but for what the other master stores. -/
theorem yieldBus_keeps (joined : Bool) (s : State) :
    AccessKeeps s (s.yieldBus joined) ∧ MemoryWritten [] s (s.yieldBus joined) := by
  have all : ∀ (t : BusTurn), t ∈ s.turns → ¬ s.PlainMemory → ∀ (l : List BusAccess) (u : State), l ⊆ t.accesses →
      AccessKeeps s u → MemoryWritten [] s u →
      AccessKeeps s (l.foldl (fun u c => busAccess c u) u) ∧ MemoryWritten [] s (l.foldl (fun u c => busAccess c u) u) := by
    intro t ht hp l
    induction l with
    | nil => exact fun u _ h k => ⟨h, k⟩
    | cons c l ih =>
      exact fun u hl h k => ih _ (fun x hx => hl (List.mem_cons_of_mem _ hx)) (h.access hp c) (k.access ht (hl List.mem_cons_self))
  unfold State.yieldBus
  split
  · exact ⟨.refl s, .of_eq rfl⟩
  · rename_i t rest h
    split
    · exact ⟨.refl s, .of_eq rfl⟩
    · have hp : ¬ s.PlainMemory := fun p => by simp [p.turns] at h
      have ht : t ∈ s.turns := by simp [h]
      refine all t ht hp _ _ (List.Subset.refl _) ⟨rfl, rfl, rfl, rfl, rfl, ?_⟩ (.of_eq rfl)
      refine ⟨rfl, rfl, rfl, rfl, rfl, rfl, rfl, rfl, ?_, fun p => absurd p hp⟩
      rw [h]
      exact List.suffix_cons _ _

theorem yieldHalf_keeps (odd : Bool) (s : State) :
    AccessKeeps s (s.yieldHalf odd) ∧ MemoryWritten [] s (s.yieldHalf odd) := by
  unfold State.yieldHalf
  split
  · exact ⟨.refl s, .of_eq rfl⟩
  · exact yieldBus_keeps odd s

theorem AccessKeeps.turns {s t : State} (h : AccessKeeps s t) : t.turns <:+ s.turns := h.others.2.2.2.2.2.2.2.2.1

/-- One access after the other. -/
theorem accesses_keep {b c : List Nat} {s t u : State} (h : AccessKeeps s t ∧ MemoryWritten b s t) (k : AccessKeeps t u ∧ MemoryWritten c t u) :
    AccessKeeps s u ∧ MemoryWritten (b ++ c) s u :=
  ⟨h.1.trans k.1, h.2.trans h.1.turns k.2⟩

/-! ## Memory accesses of the CPU -/

/-- A byte read cycle of the CPU keeps the CPU and memory. -/
theorem readCycle_keeps (a : Phys) (s : State) : AccessKeeps s (readCycle a s).2 ∧ MemoryWritten [] s (readCycle a s).2 := by
  unfold readCycle
  split
  · exact ⟨.of_mem_fresh s s.mem _, .of_eq rfl⟩
  · obtain ⟨h, hm⟩ := busRead8_keeps a (s.touchCa true a.toNat)
    exact ⟨(touchCa_keeps _ s).trans h, .of_eq (hm.trans (touchCa_mem _ _ _))⟩

/-- A byte write cycle of the CPU keeps the CPU, and every byte of memory but its own. -/
theorem writeCycle_keeps (a : Phys) (v : Byte) (s : State) :
    AccessKeeps s (writeCycle a v s) ∧ MemoryWritten [a.toNat] s (writeCycle a v s) := by
  unfold writeCycle
  split
  · exact ⟨.refl s, .of_write a v (.inl rfl)⟩
  · obtain ⟨h, hm⟩ := busWrite8_keeps a v (s.touchCa true a.toNat)
    exact ⟨(touchCa_keeps _ s).trans h, .of_write a v (by simpa using hm)⟩

/-- A byte read by the CPU keeps the CPU and memory. -/
theorem memRead8_keeps (a : Phys) (s : State) : AccessKeeps s (memRead8 a s).2 ∧ MemoryWritten [] s (memRead8 a s).2 :=
  accesses_keep (yieldBus_keeps false s) (readCycle_keeps a _)

/-- A byte write by the CPU keeps the CPU, and every byte of memory but its own. -/
theorem memWrite8_keeps (a : Phys) (v : Byte) (s : State) :
    AccessKeeps s (memWrite8 a v s) ∧ MemoryWritten [a.toNat] s (memWrite8 a v s) :=
  accesses_keep (yieldBus_keeps false s) (writeCycle_keeps a v _)

theorem not_plain_of_pcbMemWord {s : State} {a a2 : Phys} (h : s.pcbMemWord a a2 = true) : ¬ s.PlainMemory := by
  intro p
  simp [State.pcbMemWord, p.pcbMem] at h

theorem pcb_keeps (s : State) (p : Pcb) (n : Nat) (r : Option Refusal) (h : ¬ s.PlainMemory) :
    AccessKeeps s { s with pcb := p, fresh := n, stop := r } :=
  ⟨rfl, rfl, rfl, rfl, rfl, rfl, rfl, rfl, rfl, rfl, rfl, rfl, rfl, List.suffix_refl _, fun q => absurd q h⟩

theorem readWord_keeps (a a2 : Phys) (s : State) : AccessKeeps s (readWord a a2 s).2 ∧ MemoryWritten [] s (readWord a a2 s).2 := by
  unfold readWord
  split
  · rename_i h
    obtain ⟨p, n, hp⟩ := pcbRead_only (a.toNat % 256) s
    rw [hp]
    exact ⟨pcb_keeps s p n s.stop (not_plain_of_pcbMemWord h), .of_eq rfl⟩
  · exact accesses_keep (readCycle_keeps a _) (accesses_keep (yieldHalf_keeps _ _) (readCycle_keeps a2 _))

theorem writeWord_keeps (a a2 : Phys) (v : Word) (s : State) :
    AccessKeeps s (writeWord a a2 v s) ∧ MemoryWritten [a.toNat, a2.toNat] s (writeWord a a2 v s) := by
  unfold writeWord
  split
  · rename_i h
    obtain ⟨p, n, r, hp⟩ := pcbWrite_only (a.toNat % 256) v s
    rw [hp]
    exact ⟨pcb_keeps s p n r (not_plain_of_pcbMemWord h), fun b _ _ => rfl, fun _ _ hs => hs⟩
  · exact accesses_keep (writeCycle_keeps a v.lo _) (accesses_keep (yieldHalf_keeps _ _) (writeCycle_keeps a2 v.hi _))

/-- A word read by the CPU keeps the CPU and memory. -/
theorem memRead16_keeps (a a2 : Phys) (s : State) : AccessKeeps s (memRead16 a a2 s).2 ∧ MemoryWritten [] s (memRead16 a a2 s).2 :=
  accesses_keep (yieldBus_keeps false s) (readWord_keeps a a2 _)

/-- A word write by the CPU keeps the CPU, and every byte of memory but its two. -/
theorem memWrite16_keeps (a a2 : Phys) (v : Word) (s : State) :
    AccessKeeps s (memWrite16 a a2 v s) ∧ MemoryWritten [a.toNat, a2.toNat] s (memWrite16 a a2 v s) :=
  accesses_keep (yieldBus_keeps false s) (writeWord_keeps a a2 v _)

/-! ## Operands -/

/-- A segmented read keeps the CPU and memory. -/
theorem readMem_keeps (w : Width) (seg off : Word) (s : State) :
    AccessKeeps s (readMem w seg off s).2 ∧ MemoryWritten [] s (readMem w seg off s).2 := by
  cases w
  · exact memRead8_keeps _ s
  · exact memRead16_keeps _ _ s

/-- A segmented write keeps the CPU, and every byte outside its operand. -/
theorem writeMem_keeps (w : Width) (seg off : Word) (v : BitVec w.bits) (s : State) :
    AccessKeeps s (writeMem w seg off v s) ∧ MemoryWritten (operandBytes s.is186 w seg off) s (writeMem w seg off v s) := by
  cases w
  · exact memWrite8_keeps _ v s
  · exact memWrite16_keeps _ _ v s

/-- Reading an r/m operand keeps the CPU and memory. -/
theorem readRm_keeps (w : Width) (rm : Rm) (s : State) : AccessKeeps s (readRm w rm s).2 ∧ MemoryWritten [] s (readRm w rm s).2 := by
  cases rm with
  | reg r => exact ⟨.refl s, .of_eq rfl⟩
  | ind b => exact readMem_keeps ..
  | disp8 b d => exact readMem_keeps ..
  | disp16 b d => exact readMem_keeps ..
  | direct a => exact readMem_keeps ..

/-- Reading a doubleword pointer keeps the CPU and memory. -/
theorem readPointer_keeps (seg off : Word) (s : State) :
    AccessKeeps s (readPointer seg off s).2 ∧ MemoryWritten [] s (readPointer seg off s).2 :=
  accesses_keep (readMem_keeps .word seg off s) (readMem_keeps .word seg (off + 2) _)

/-- On ordinary memory a segmented read changes nothing. -/
theorem readMem_plain {s : State} (h : s.PlainMemory) (w : Width) (seg off : Word) : (readMem w seg off s).2 = s := by
  cases w
  · simp [readMem, memRead8_plain h]
  · simp [readMem, memRead16_plain h]

/-- On ordinary memory reading an operand changes nothing. -/
theorem readRm_plain {s : State} (h : s.PlainMemory) (w : Width) (rm : Rm) : (readRm w rm s).2 = s := by
  cases rm <;> first | rfl | exact readMem_plain h ..

/-! ## Ports -/

/-- A port access of the CPU keeps the CPU's registers and all of memory, and every property of memories that byte writes keep. -/
structure PortKeeps (s t : State) : Prop where
  regs  : t.regs = s.regs
  segs  : t.segs = s.segs
  ip    : t.ip = s.ip
  flags : t.flags = s.flags
  ctl   : t.ctl = s.ctl
  cfg   : t.cfg = s.cfg
  moves : t.moves = s.moves
  turns : t.turns <:+ s.turns
  mem   : MemoryWritten [] s t

theorem AccessKeeps.port {s t : State} (h : AccessKeeps s t ∧ MemoryWritten [] s t) : PortKeeps s t :=
  ⟨h.1.regs, h.1.segs, h.1.ip, h.1.flags, h.1.ctl, h.1.others.1, h.1.others.2.2.1, h.1.turns, h.2⟩

theorem PortKeeps.trans {s t u : State} (h : PortKeeps s t) (k : PortKeeps t u) : PortKeeps s u :=
  ⟨k.regs.trans h.regs, k.segs.trans h.segs, k.ip.trans h.ip, k.flags.trans h.flags, k.ctl.trans h.ctl, k.cfg.trans h.cfg,
    k.moves.trans h.moves, k.turns.trans h.turns, h.mem.trans h.turns k.mem⟩

/-- An update of the control block, the draw count, the record of events, the 8089, a pending refusal. -/
theorem PortKeeps.of_update (s : State) (b : Pcb) (n : Nat) (io : IoSpace) (p : Iop) (r : Option Refusal) :
    PortKeeps s { s with pcb := b, fresh := n, io := io, iop := p, stop := r } :=
  ⟨rfl, rfl, rfl, rfl, rfl, rfl, rfl, List.suffix_refl _, .of_eq rfl⟩

theorem inCycle_keeps (p : Word) (s : State) : PortKeeps s (inCycle p s).2 := by
  unfold inCycle
  split
  · exact .of_update s s.pcb (s.fresh + 1) s.io s.iop s.stop
  · obtain ⟨n, tr, h⟩ := portRead8_only p s
    rw [h]
    exact .of_update s s.pcb n _ s.iop s.stop

theorem outCycle_keeps (p : Word) (v : Byte) (s : State) : PortKeeps s (outCycle p v s) := by
  unfold outCycle
  split
  · exact .of_update s s.pcb s.fresh s.io s.iop s.stop
  · unfold State.touchCa State.latchCa
    split
    · split <;> exact .of_update s s.pcb s.fresh _ _ s.stop
    · exact .of_update s s.pcb s.fresh _ s.iop s.stop

/-- A byte IN keeps the CPU and memory. -/
theorem ioRead8_keeps (p : Word) (s : State) : PortKeeps s (ioRead8 p s).2 :=
  (AccessKeeps.port (yieldBus_keeps false s)).trans (inCycle_keeps p _)

/-- A byte OUT keeps the CPU and memory. -/
theorem ioWrite8_keeps (p : Word) (v : Byte) (s : State) : PortKeeps s (ioWrite8 p v s) :=
  (AccessKeeps.port (yieldBus_keeps false s)).trans (outCycle_keeps p v _)

theorem inWord_keeps (p : Word) (s : State) : PortKeeps s (inWord p s).2 := by
  unfold inWord
  split
  · obtain ⟨b, n, h⟩ := pcbRead_only (p.toNat % 256) s
    rw [h]
    exact .of_update s b n s.io s.iop s.stop
  · exact (inCycle_keeps p _).trans ((AccessKeeps.port (yieldHalf_keeps _ _)).trans (inCycle_keeps (p + 1) _))

theorem outWord_keeps (p : Word) (v : Word) (s : State) : PortKeeps s (outWord p v s) := by
  unfold outWord
  split
  · obtain ⟨b, n, r, h⟩ := pcbWrite_only (p.toNat % 256) v s
    rw [h]
    exact .of_update s b n s.io s.iop r
  · exact (outCycle_keeps p _ _).trans ((AccessKeeps.port (yieldHalf_keeps _ _)).trans (outCycle_keeps (p + 1) _ _))

/-- A word IN keeps the CPU and memory. -/
theorem ioRead16_keeps (p : Word) (s : State) : PortKeeps s (ioRead16 p s).2 :=
  (AccessKeeps.port (yieldBus_keeps false s)).trans (inWord_keeps p _)

/-- A word OUT keeps the CPU and memory. -/
theorem ioWrite16_keeps (p : Word) (v : Word) (s : State) : PortKeeps s (ioWrite16 p v s) :=
  (AccessKeeps.port (yieldBus_keeps false s)).trans (outWord_keeps p v _)

end Sys2Proof.Machine
end

