-- ==== Sys2Proof/Laws/Ops.lean ====
section
/-! SUPPORT. What each shared operation can do, said once: operands, the stack, taking an interrupt; and that each keeps memory canonical. -/

namespace Sys2Proof.Machine

/-! ## Canonical memory -/

theorem State.MemoryCanonical.of_eq {s t : State} (h : s.MemoryCanonical) (hm : t.mem = s.mem) (hr : t.iop.remoteIo = s.iop.remoteIo) :
    t.MemoryCanonical := by
  unfold State.MemoryCanonical at *
  rw [hm, hr]
  exact h

theorem State.MemoryCanonical.of_write {s t : State} (h : s.MemoryCanonical) (a : Phys) (v : Byte)
    (hm : t.mem = s.mem ∨ t.mem = s.mem.write a.toNat v) (hr : t.iop.remoteIo = s.iop.remoteIo) : t.MemoryCanonical := by
  rcases hm with hm | hm
  · exact h.of_eq hm hr
  · obtain ⟨h1, h2, h3⟩ := h
    refine ⟨?_, ?_, ?_⟩
    · rw [hm]; exact Memory.wf_write h1 _ _
    · rw [hr]; exact h2
    · rw [hm]; exact Memory.bound_write v a.isLt h3

/-- A byte write by any bus master keeps memory canonical. -/
theorem busWrite8_canonical (a : Phys) (v : Byte) {s : State} (h : s.MemoryCanonical) : (busWrite8 a v s).MemoryCanonical :=
  have k := busWrite8_keeps a v s
  h.of_write a v k.2 k.1.remoteIo

/-- A byte read by any bus master keeps memory canonical. -/
theorem busRead8_canonical (a : Phys) {s : State} (h : s.MemoryCanonical) : (busRead8 a s).2.MemoryCanonical :=
  have k := busRead8_keeps a s
  h.of_eq k.2 k.1.remoteIo

/-- An access of the CPU keeps memory canonical, whatever turns other masters take in it. -/
theorem AccessKeeps.canonical {l : List Nat} {s t : State} (k : AccessKeeps s t ∧ MemoryWritten l s t) (h : s.MemoryCanonical) :
    t.MemoryCanonical :=
  have ⟨h1, h2, h3⟩ := h
  have ⟨w, b⟩ := k.2.closed (fun m => m.wf = true ∧ ∀ c ∈ m, c.1 < 2 ^ 20)
    (fun _ a v hm => ⟨Memory.wf_write hm.1 _ _, Memory.bound_write v a.isLt hm.2⟩) ⟨h1, h3⟩
  ⟨w, k.1.remoteIo ▸ h2, b⟩

/-- A byte write by the CPU keeps memory canonical. -/
theorem memWrite8_canonical (a : Phys) (v : Byte) {s : State} (h : s.MemoryCanonical) : (memWrite8 a v s).MemoryCanonical :=
  AccessKeeps.canonical (memWrite8_keeps a v s) h

/-- A segmented read keeps memory canonical. -/
theorem readMem_canonical (w : Width) (seg off : Word) {s : State} (h : s.MemoryCanonical) : (readMem w seg off s).2.MemoryCanonical :=
  AccessKeeps.canonical (readMem_keeps w seg off s) h

/-- A word write by the CPU keeps memory canonical. -/
theorem memWrite16_canonical (a a2 : Phys) (v : Word) {s : State} (h : s.MemoryCanonical) : (memWrite16 a a2 v s).MemoryCanonical :=
  AccessKeeps.canonical (memWrite16_keeps a a2 v s) h

/-- A segmented write keeps memory canonical. -/
theorem writeMem_canonical (w : Width) (seg off : Word) (v : BitVec w.bits) {s : State} (h : s.MemoryCanonical) :
    (writeMem w seg off v s).MemoryCanonical :=
  AccessKeeps.canonical (writeMem_keeps w seg off v s) h

/-- Reading an r/m operand keeps memory canonical. -/
theorem readRm_canonical (w : Width) (rm : Rm) {s : State} (h : s.MemoryCanonical) : (readRm w rm s).2.MemoryCanonical :=
  AccessKeeps.canonical (readRm_keeps w rm s) h

theorem setReg_canonical (w : Width) (r : Reg) (v : BitVec w.bits) {s : State} (h : s.MemoryCanonical) :
    (s.setReg w r v).MemoryCanonical := by
  cases w <;> exact h

/-- Writing an r/m operand keeps memory canonical. -/
theorem writeRm_canonical (w : Width) (rm : Rm) (v : BitVec w.bits) {s : State} (h : s.MemoryCanonical) :
    (writeRm w rm v s).MemoryCanonical := by
  cases rm <;> first | exact setReg_canonical w _ v h | exact writeMem_canonical w _ _ v h

/-- A push keeps memory canonical. -/
theorem push16_canonical (v : Word) {s : State} (h : s.MemoryCanonical) : (push16 v s).MemoryCanonical :=
  writeMem_canonical .word _ _ v (s := s.set .sp (s.get .sp - 2)) h

/-- A pop keeps memory canonical. -/
theorem pop16_canonical {s : State} (h : s.MemoryCanonical) : (pop16 s).2.MemoryCanonical :=
  readMem_canonical .word s.segs.ss (s.get .sp) h

/-! ## r/m operands -/

/-- Writing an r/m operand in memory keeps the CPU and every byte outside the operand; a register operand keeps memory. -/
theorem writeRm_mem (w : Width) (rm : Rm) (v : BitVec w.bits) (s : State) (h : rm.wellFormedMem = true) :
    writeRm w rm v s = writeMem w (eaSeg s rm) (eaOff s rm) v s := by
  cases rm <;> first | rfl | simp [Rm.wellFormedMem] at h

theorem readRm_mem (w : Width) (rm : Rm) (s : State) (h : rm.wellFormedMem = true) :
    readRm w rm s = readMem w (eaSeg s rm) (eaOff s rm) s := by
  cases rm <;> first | rfl | simp [Rm.wellFormedMem] at h

/-- The address of an operand does not change while registers, segments and latches stay. -/
theorem eaOff_eq {s t : State} (rm : Rm) (h : t.regs = s.regs) : eaOff t rm = eaOff s rm := by
  cases rm with
  | reg r => rfl
  | direct a => rfl
  | ind b => cases b <;> simp [eaOff, Base.sum, State.get, h]
  | disp8 b d => cases b <;> simp [eaOff, Base.sum, State.get, h]
  | disp16 b d => cases b <;> simp [eaOff, Base.sum, State.get, h]

theorem eaSeg_eq {s t : State} (rm : Rm) (h : t.segs = s.segs) (hl : t.ctl = s.ctl) : eaSeg t rm = eaSeg s rm := by
  simp [eaSeg, State.segFor, h, hl]

/-! ## The stack, 20_memory.md R40 -/

/-- What a push changes: SP, and the word it stores. -/
theorem push16_keeps (v : Word) (s : State) :
    (push16 v s).regs = s.regs.set .sp (s.get .sp - 2) ∧ (push16 v s).segs = s.segs ∧ (push16 v s).ip = s.ip
      ∧ (push16 v s).flags = s.flags ∧ (push16 v s).ctl = s.ctl ∧ OthersKept s (push16 v s)
      ∧ MemoryKeptOutside (operandBytes s.is186 .word s.segs.ss (s.get .sp - 2)) s (push16 v s) := by
  obtain ⟨k, m⟩ := writeMem_keeps .word s.segs.ss (s.get .sp - 2) v (s.set .sp (s.get .sp - 2))
  have e : push16 v s = writeMem .word s.segs.ss (s.get .sp - 2) v (s.set .sp (s.get .sp - 2)) := by
    simp [push16]
  rw [e]
  exact ⟨k.regs, k.segs, k.ip, k.flags, k.ctl, k.others, m.other⟩

/-- What a pop changes: SP. -/
theorem pop16_keeps (s : State) :
    (pop16 s).2.regs = s.regs.set .sp (s.get .sp + 2) ∧ (pop16 s).2.segs = s.segs ∧ (pop16 s).2.ip = s.ip
      ∧ (pop16 s).2.flags = s.flags ∧ (pop16 s).2.ctl = s.ctl ∧ OthersKept s (pop16 s).2 ∧ MemoryKept s (pop16 s).2 := by
  obtain ⟨k, m⟩ := readMem_keeps .word s.segs.ss (s.get .sp) s
  refine ⟨?_, k.segs, k.ip, k.flags, k.ctl, k.others, fun a => m.other a (by simp)⟩
  show ((readMem .word s.segs.ss (s.get .sp) s).2.set .sp ((readMem .word s.segs.ss (s.get .sp) s).2.get .sp + 2)).regs = _
  have e : (readMem .word s.segs.ss (s.get .sp) s).2.get .sp = s.get .sp := congrArg (Regs.get · .sp) k.regs
  rw [State.set_regs, e, k.regs]

/-- On ordinary memory a push stores two bytes and changes SP, nothing else. -/
theorem push16_plain {s : State} (h : s.PlainMemory) (v : Word) :
    push16 v s =
      { s with
        regs := s.regs.set .sp (s.get .sp - 2)
        mem := (s.mem.write (phys s.segs.ss (s.get .sp - 2)).toNat v.lo).write
          (nextByte s.is186 s.segs.ss (s.get .sp - 2)).toNat v.hi } := by
  have h' : (s.set .sp (s.get .sp - 2)).PlainMemory := h
  simp only [push16, writeMem, State.get_set, State.set_segs, if_true, memWrite16_plain h']
  rfl

/-- On ordinary memory a pop gives the word at SS:SP and changes SP, nothing else. -/
theorem pop16_plain {s : State} (h : s.PlainMemory) :
    pop16 s =
      (Word.mk (s.mem.read (nextByte s.is186 s.segs.ss (s.get .sp)).toNat) (s.mem.read (phys s.segs.ss (s.get .sp)).toNat),
        s.set .sp (s.get .sp + 2)) := by
  simp [pop16, readMem, memRead16_plain h]

/-! ## Taking an interrupt, 60_exceptions.md R253 -/

/-- The stages of the interrupt sequence, one after the other. -/
theorem interrupt_stages (t : Byte) (savedIp : Word) (s : State) :
    ∃ s1 s2 s3 s4 cs s5 s6 s7 ip,
      s1 = push16 (flagsImage s).1 (flagsImage s).2 ∧ s2 = s1.setFlags { s1.flags with ie := false, tf := false }
        ∧ s3 = push16 s2.segs.cs s2 ∧ (cs, s4) = memRead16 (vectorAddr t + 2) (vectorAddr t + 2 + 1) s3
        ∧ s5 = s4.setSeg .cs cs ∧ s6 = push16 savedIp s5 ∧ (ip, s7) = memRead16 (vectorAddr t) (vectorAddr t + 1) s6
        ∧ interrupt t savedIp s = s7.setIp ip :=
  ⟨_, _, _, _, _, _, _, _, _, rfl, rfl, rfl, rfl, rfl, rfl, rfl, rfl⟩

/-- An update of one field that OthersKept does not name. -/
theorem othersKept_update (s t : State) (h : t = { s with regs := t.regs, segs := t.segs, ip := t.ip, flags := t.flags, ctl := t.ctl }) :
    OthersKept s t := by
  rw [h]
  exact ⟨rfl, rfl, rfl, rfl, rfl, rfl, rfl, rfl, List.suffix_refl _, fun _ => ⟨rfl, rfl, rfl, rfl, rfl⟩⟩

/-- What the interrupt sequence leaves: SP lower by six, IF and TF cleared, every other flag, register, segment register but CS, and the
hidden control state kept. -/
theorem interrupt_keeps (t : Byte) (savedIp : Word) (s : State) :
    (interrupt t savedIp s).regs = ((s.regs.set .sp (s.get .sp - 2)).set .sp (s.get .sp - 2 - 2)).set .sp (s.get .sp - 2 - 2 - 2)
      ∧ (interrupt t savedIp s).flags = { s.flags with ie := false, tf := false }
      ∧ (interrupt t savedIp s).ctl = s.ctl
      ∧ (interrupt t savedIp s).segs.ss = s.segs.ss ∧ (interrupt t savedIp s).segs.ds = s.segs.ds
      ∧ (interrupt t savedIp s).segs.es = s.segs.es
      ∧ OthersKept s (interrupt t savedIp s) := by
  obtain ⟨s1, s2, s3, s4, cs, s5, s6, s7, ip, e1, e2, e3, e4, e5, e6, e7, e⟩ := interrupt_stages t savedIp s
  have k0 : OthersKept s (flagsImage s).2 := (AccessKeeps.of_mem_fresh s s.mem (s.fresh + 1)).others
  obtain ⟨r1, g1, -, f1, c1, o1, -⟩ := push16_keeps (flagsImage s).1 (flagsImage s).2
  obtain ⟨r3, g3, -, f3, c3, o3, -⟩ := push16_keeps s2.segs.cs s2
  have k4 := (memRead16_keeps (vectorAddr t + 2) (vectorAddr t + 2 + 1) s3).1
  obtain ⟨r6, g6, -, f6, c6, o6, -⟩ := push16_keeps savedIp s5
  have k7 := (memRead16_keeps (vectorAddr t) (vectorAddr t + 1) s6).1
  rw [← e1] at r1 g1 f1 c1 o1
  rw [← e3] at r3 g3 f3 c3 o3
  rw [← e4] at k4
  rw [← e6] at r6 g6 f6 c6 o6
  rw [← e7] at k7
  have o2 : OthersKept s1 s2 := othersKept_update s1 s2 (by rw [e2]; rfl)
  have o5 : OthersKept s4 s5 := othersKept_update s4 s5 (by rw [e5]; rfl)
  have o8 : OthersKept s7 (s7.setIp ip) := othersKept_update s7 _ rfl
  have q1 : s1.regs = s.regs.set .sp (s.get .sp - 2) := r1
  have q2 : s2.regs = s.regs.set .sp (s.get .sp - 2) := by rw [e2]; exact q1
  have q3 : s3.regs = (s.regs.set .sp (s.get .sp - 2)).set .sp (s.get .sp - 2 - 2) := by
    have e : s2.get .sp = s.get .sp - 2 := congrArg (Regs.get · .sp) q2
    rw [r3, q2, e]
  have q5 : s5.regs = s3.regs := by rw [e5]; exact k4.regs
  have q6 : s6.regs = ((s.regs.set .sp (s.get .sp - 2)).set .sp (s.get .sp - 2 - 2)).set .sp (s.get .sp - 2 - 2 - 2) := by
    have e : s5.get .sp = s.get .sp - 2 - 2 := congrArg (Regs.get · .sp) (q5.trans q3)
    rw [r6, q5, e, q3]
  have gg : s7.segs = { s.segs with cs := cs } := by
    rw [k7.segs, g6, e5]
    show s4.segs.set .cs cs = _
    rw [k4.segs, g3, e2]
    show s1.segs.set .cs cs = _
    rw [g1]
    rfl
  rw [e]
  refine ⟨k7.regs.trans q6, ?_, ?_, ?_, ?_, ?_, ?_⟩
  · show s7.flags = _
    rw [k7.flags, f6, e5]
    show s4.flags = _
    rw [k4.flags, f3, e2]
    show ({ s1.flags with ie := false, tf := false } : Flags) = _
    rw [f1]
    rfl
  · show s7.ctl = _
    rw [k7.ctl, c6, e5]
    show s4.ctl = _
    rw [k4.ctl, c3, e2]
    show s1.ctl = _
    rw [c1]
    rfl
  · show s7.segs.ss = _
    rw [gg]
  · show s7.segs.ds = _
    rw [gg]
  · show s7.segs.es = _
    rw [gg]
  · exact k0.trans (o1.trans (o2.trans (o3.trans (k4.others.trans (o5.trans (o6.trans (k7.others.trans o8)))))))

/-- Taking an interrupt keeps memory canonical. -/
theorem interrupt_canonical (t : Byte) (savedIp : Word) {s : State} (h : s.MemoryCanonical) :
    (interrupt t savedIp s).MemoryCanonical := by
  obtain ⟨s1, s2, s3, s4, cs, s5, s6, s7, ip, e1, e2, e3, e4, e5, e6, e7, e⟩ := interrupt_stages t savedIp s
  have h1 : s1.MemoryCanonical := by
    rw [e1]
    exact push16_canonical (flagsImage s).1 (s := (flagsImage s).2) h
  have h2 : s2.MemoryCanonical := by
    rw [e2]
    exact h1
  have h3 : s3.MemoryCanonical := by
    rw [e3]
    exact push16_canonical _ h2
  have k4 := memRead16_keeps (vectorAddr t + 2) (vectorAddr t + 2 + 1) s3
  rw [← e4] at k4
  have h5 : s5.MemoryCanonical := by
    rw [e5]
    exact AccessKeeps.canonical (t := s4) k4 h3
  have h6 : s6.MemoryCanonical := by
    rw [e6]
    exact push16_canonical _ h5
  have k7 := memRead16_keeps (vectorAddr t) (vectorAddr t + 1) s6
  rw [← e7] at k7
  rw [e]
  exact AccessKeeps.canonical (t := s7) k7 h6

/-! ## A step that RESET cuts short -/

/-- A property that byte writes to listed addresses keep holds of a memory after a part of a step's writes. -/
theorem Memory.partly_keeps (P : Memory → Prop) (d : Nat) {old new : Memory} (h : P old)
    (hw : ∀ m : Memory, ∀ c ∈ old ++ new, ∀ v, P m → P (m.write c.1 v)) : P (Memory.partly d old new) := by
  have go : ∀ (cells : List (Host.Cell × Nat)) (m : Memory), (∀ c ∈ cells, c.1 ∈ old ++ new) → P m →
      P (cells.foldl (fun m c => if Config.freeBit c.2 then m.write c.1.1 (new.read c.1.1) else m) m) := by
    intro cells
    induction cells with
    | nil => exact fun m _ hm => hm
    | cons c rest ih =>
      intro m hc hm
      refine ih _ (fun x hx => hc x (List.mem_cons_of_mem _ hx)) ?_
      show P (if Config.freeBit c.2 then m.write c.1.1 (new.read c.1.1) else m)
      split
      · exact hw m c.1 (hc c List.mem_cons_self) _ hm
      · exact hm
  exact go _ old (fun c hc => List.fst_mem_of_mem_zipIdx hc) h

/-- A part of a step's writes keeps memory in canonical form. -/
theorem Memory.partly_wf (d : Nat) {old new : Memory} (h : old.wf = true) : (Memory.partly d old new).wf = true :=
  Memory.partly_keeps (fun m => m.wf = true) d h fun _ c _ v hm => Memory.wf_write hm c.1 v

/-- And its addresses below a bound. -/
theorem Memory.partly_bound (d n : Nat) {old new : Memory} (h : ∀ c ∈ old, c.1 < n) (h' : ∀ c ∈ new, c.1 < n) :
    ∀ c ∈ Memory.partly d old new, c.1 < n :=
  Memory.partly_keeps (fun m => ∀ c ∈ m, c.1 < n) d h fun _ c hc v hm =>
    Memory.bound_write v ((List.mem_append.1 hc).elim (h c) (h' c)) hm

end Sys2Proof.Machine
end

