-- ==== Sys2Proof/Laws/Iop.lean ====
section
/-! SUPPORT. What the bus accesses and operand reads of the 8089 can do, said once; and when the 8087 goes on. -/

namespace Sys2Proof.Machine

@[simp] theorem State.chan_setChan (ch : Bool) (c : IopChan) (s : State) : (s.setChan ch c).chan ch = c := by cases ch <;> rfl
@[simp] theorem State.chan_setChan_other (ch : Bool) (c : IopChan) (s : State) : (s.setChan ch c).chan (!ch) = s.chan (!ch) := by
  cases ch <;> rfl
@[simp] theorem State.setChan_setChan (ch : Bool) (c d : IopChan) (s : State) : (s.setChan ch c).setChan ch d = s.setChan ch d := by
  cases ch <;> rfl
@[simp] theorem State.setChan_chan (ch : Bool) (s : State) : s.setChan ch (s.chan ch) = s := by cases ch <;> rfl

/-! ## System space on ordinary memory -/

theorem busRead8_plain {s : State} (h : s.PlainMemory) (a : Phys) : busRead8 a s = (s.mem.read a.toNat, s) := by
  simp [busRead8, h.1, regionAt_nil, h.npxStoring a]

theorem busWrite8_plain {s : State} (h : s.PlainMemory) (a : Phys) (v : Byte) :
    busWrite8 a v s = { s with mem := s.mem.write a.toNat v } := by
  simp [busWrite8, h.1, regionAt_nil, h.npxTouch a]

/-- No master waits for a turn, so the 8089 has the bus at once. -/
theorem State.iopYield_nil {s : State} (h : s.turns = []) (space : Bool) : s.iopYield space = s := by
  simp [State.iopYield, State.yieldBus_nil h]

theorem State.iopYieldHalf_nil {s : State} (h : s.turns = []) (space odd : Bool) : s.iopYieldHalf space odd = s := by
  simp [State.iopYieldHalf, State.iopYield_nil h]

/-- Before a cycle of the 8089: the CPU is kept, and memory but for what the other master stores. -/
theorem iopYield_keeps (space : Bool) (s : State) : AccessKeeps s (s.iopYield space) ∧ MemoryWritten [] s (s.iopYield space) := by
  unfold State.iopYield
  split
  · exact ⟨.refl s, .of_eq rfl⟩
  · exact yieldBus_keeps false s

theorem iopYieldHalf_keeps (space odd : Bool) (s : State) :
    AccessKeeps s (s.iopYieldHalf space odd) ∧ MemoryWritten [] s (s.iopYieldHalf space odd) := by
  unfold State.iopYieldHalf
  split
  · exact ⟨.refl s, .of_eq rfl⟩
  · exact iopYield_keeps space s

theorem iopReadCycle_plain {s : State} (h : s.PlainMemory) (a : Phys) : iopReadCycle false a s = (s.mem.read a.toNat, s) :=
  busRead8_plain h a

theorem iopWriteCycle_plain {s : State} (h : s.PlainMemory) (a : Phys) (v : Byte) :
    iopWriteCycle false a v s = { s with mem := s.mem.write a.toNat v } := busWrite8_plain h a v

theorem iopRead8_plain {s : State} (h : s.PlainMemory) (a : Phys) : iopRead8 false a s = (s.mem.read a.toNat, s) := by
  rw [iopRead8, State.iopYield_nil h.turns, iopReadCycle_plain h]

theorem iopWrite8_plain {s : State} (h : s.PlainMemory) (a : Phys) (v : Byte) :
    iopWrite8 false a v s = { s with mem := s.mem.write a.toNat v } := by
  rw [iopWrite8, State.iopYield_nil h.turns, iopWriteCycle_plain h]

theorem iopRead16_plain {s : State} (h : s.PlainMemory) (a : Phys) :
    iopRead16 false a s = (Word.mk (s.mem.read (a + 1).toNat) (s.mem.read a.toNat), s) := by
  simp [iopRead16, iopRead8_plain h, State.iopYieldHalf_nil h.turns, iopReadCycle_plain h]

theorem iopPointerAt_plain {s : State} (h : s.PlainMemory) (a : Phys) : (iopPointerAt a s).2 = s := by
  simp [iopPointerAt, iopRead16_plain h]

theorem iopFetch_plain {s : State} (h : s.PlainMemory) (ch : Bool) (ht : (s.chan ch).tp.tag = false) : (iopFetch ch s).2 = s := by
  have many (k : Nat) (a : Phys) : (iopRead false k a s).2 = s := by
    induction k generalizing a with
    | zero => rfl
    | succ k ih => simp [iopRead, iopReadCycle_plain h, ih]
  simp [iopFetch, ht, iopReadCycle_plain h, many]

/-! ## The private I/O space -/

/-- A read there changes the draw count and the trace, nothing else. -/
theorem remoteRead8_only (a : Nat) (s : State) : ∃ n es, (remoteRead8 a s).2 = { s with fresh := n, io := { s.io with trace := es ++ s.io.trace } } := by
  unfold remoteRead8
  split
  · exact ⟨s.fresh + 1, [], rfl⟩
  · split
    · exact ⟨s.fresh, [_], rfl⟩
    · exact ⟨s.fresh + 1, [_], rfl⟩
  · exact ⟨s.fresh, [], rfl⟩

/-- A write there changes its memory or the trace, nothing else. -/
theorem remoteWrite8_only (a : Nat) (v : Byte) (s : State) :
    ∃ m es, (m = s.iop.remoteIo ∨ m = s.iop.remoteIo.write a v)
      ∧ remoteWrite8 a v s = { s with iop := { s.iop with remoteIo := m }, io := { s.io with trace := es ++ s.io.trace } } := by
  unfold remoteWrite8
  split
  · exact ⟨_, [], .inl rfl, rfl⟩
  · exact ⟨_, [], .inl rfl, rfl⟩
  · exact ⟨_, [_], .inl rfl, rfl⟩
  · exact ⟨_, [], .inr rfl, rfl⟩

/-! ## The 8087 under LOCK -/

/-- The 8087 waits for the bus, or completes its job (47_npx_8087_state.md R313). -/
theorem npxProceed_cases (free : Bool) (s : State) :
    (free = false ∧ s.npx.needsBus = true ∧ npxProceed free s = s) ∨ ((free = true ∨ s.npx.needsBus = false) ∧ npxProceed free s = npxComplete s) := by
  unfold npxProceed
  cases free <;> cases s.npx.needsBus <;> simp

end Sys2Proof.Machine
end

