-- ==== Sys2Proof/Laws/Npx.lean ====
section
/-! SUPPORT. What helpers of the 8087's arithmetic and stores say, once. -/

namespace Sys2Proof.Machine

/-- A significand that is not 0 has at least `j` leading zero bits if, and only if, it is below 2 ^ (64 - j). -/
theorem le_leadingZeroBits (v : TempReal) (j : Nat) (hj : j ≤ 63) (h0 : realSig v ≠ 0) :
    j ≤ leadingZeroBits v ↔ realSig v < 2 ^ (64 - j) := by
  rw [← Nat.log2_lt h0, leadingZeroBits]
  have : (realSig v).log2 < 64 := (Nat.log2_lt h0).2 (Nat.mod_lt _ (by decide))
  omega

/-- A byte write of any bus master raises no refusal. -/
@[simp] theorem busWrite8_stop (a : Phys) (v : Byte) (s : State) : (busWrite8 a v s).stop = s.stop := by
  simp only [busWrite8]
  split
  · rfl
  · rfl
  · rfl
  · simp only [State.npxTouch]
    repeat' split
    all_goals rfl

/-- Nor does the scattering of a raced or aborted store. -/
@[simp] theorem npxScatter_stop (k : Nat) (a : Phys) (s : State) : (npxScatter k a s).stop = s.stop := by
  induction k generalizing a s with
  | zero => rfl
  | succ k ih =>
    simp only [npxScatter]
    rw [ih, busWrite8_stop]
    rfl

end Sys2Proof.Machine
end

