-- ==== Sys2Proof/Laws/PerInstr.lean ====
section
/-! SUPPORT. One lemma per instruction: decoding its encoding gives it back (its canonical name, log 61) and its length, whatever
bytes follow. -/

set_option linter.unusedSimpArgs false

namespace Sys2Proof.Laws.RoundTrip

/-- Decode reads what encode writes. -/
def Statement (i : Instr) : Prop :=
  i.wellFormed = true → ∀ rest, decode (encode i ++ rest) = .ok (canonical i, (encode i).length)

theorem opcodeForm_esc : ∀ lo : BitVec 3, opcodeForm ((0x1B : BitVec 5) ++ lo) = escForm lo := by
  intro lo
  have : ∀ lo : BitVec 3, ((0x1B : BitVec 5) ++ lo).extractLsb' 0 3 = lo
      ∧ (((0x1B : BitVec 5) ++ lo).extractLsb' 3 5).toNat = 27 := by decide
  obtain ⟨h1, h2⟩ := this lo
  unfold opcodeForm
  simp only [h1, h2]


theorem movRmReg (dir : Dir) (w : Width) (rm : Rm) (r : Reg) : Statement (.movRmReg dir w rm r) := by
  intro h rest
  cases dir <;> cases w <;> (
    refine (decode_modrm (by rfl) h rest).trans ?_
    simp only [Reg.ofBits_bits]
    rfl)

theorem movRmImm (rm : Rm) (imm : Imm) : Statement (.movRmImm rm imm) := by
  intro h rest
  cases imm <;> (
    simp only [encode, Imm.width, Imm.bytes, List.cons_append, List.append_assoc]
    refine (decode_modrm (by rfl) h _).trans ?_
    simp [canonical, encode, Imm.width, Imm.bytes, Tail.run, encWord, groupImm, groupImmS, groupUnary, groupShiftImm, Nat.add_assoc])

theorem movRegImm (r : Reg) (imm : Imm) : Statement (.movRegImm r imm) := by
  intro _ rest
  cases imm <;> cases r <;> (
    simp only [encode, Imm.width, Imm.bytes, List.cons_append]
    refine (decode_plain (by rfl) _).trans ?_
    first | rfl | exact Tail.run_w _ _ _ rest)

theorem movAccAddr (w : Width) (addr : Word) : Statement (.movAccAddr w addr) := by
  intro _ rest
  cases w <;> exact (decode_plain (by rfl) _).trans (Tail.run_w _ _ _ rest)

theorem movAddrAcc (w : Width) (addr : Word) : Statement (.movAddrAcc w addr) := by
  intro _ rest
  cases w <;> exact (decode_plain (by rfl) _).trans (Tail.run_w _ _ _ rest)

theorem movSregRm (sr : SReg) (rm : Rm) : Statement (.movSregRm sr rm) := by
  intro h rest
  have h' : rm.wellFormed = true := by simp_all [Instr.wellFormed]
  cases sr <;> first | (exact (decode_modrm (by rfl) h' rest).trans rfl) | simp [Instr.wellFormed] at h

theorem movRmSreg (rm : Rm) (sr : SReg) : Statement (.movRmSreg rm sr) := by
  intro h rest
  cases sr <;> (
    refine (decode_modrm (by rfl) h rest).trans ?_
    rfl)

theorem pushRm (rm : Rm) : Statement (.pushRm rm) := by
  intro h rest
  (
    refine (decode_modrm (by rfl) h rest).trans ?_
    rfl)

theorem pushReg (r : Reg) : Statement (.pushReg r) := by
  intro _ rest
  cases r <;> rfl

theorem pushSreg (sr : SReg) : Statement (.pushSreg sr) := by
  intro _ rest
  cases sr <;> rfl

theorem pushImm16 (imm : Word) : Statement (.pushImm16 imm) := by
  intro _ rest
  exact (decode_plain (by rfl) _).trans (Tail.run_w _ _ _ rest)

theorem pushImm8 (imm : Byte) : Statement (.pushImm8 imm) := by
  intro _ rest
  rfl

theorem popRm (rm : Rm) : Statement (.popRm rm) := by
  intro h rest
  (
    refine (decode_modrm (by rfl) h rest).trans ?_
    rfl)

theorem popReg (r : Reg) : Statement (.popReg r) := by
  intro _ rest
  cases r <;> rfl

theorem popSreg (sr : SReg) : Statement (.popSreg sr) := by
  intro _ rest
  cases sr <;> rfl

theorem pusha : Statement (.pusha) := by
  intro _ rest
  rfl

theorem popa : Statement (.popa) := by
  intro _ rest
  rfl

theorem xchgRmReg (w : Width) (rm : Rm) (r : Reg) : Statement (.xchgRmReg w rm r) := by
  intro h rest
  cases w <;> (
    refine (decode_modrm (by rfl) h rest).trans ?_
    simp only [Reg.ofBits_bits]
    rfl)

theorem xchgAxReg (r : Reg) : Statement (.xchgAxReg r) := by
  intro _ rest
  cases r <;> rfl

theorem xlat : Statement (.xlat) := by
  intro _ rest
  rfl

theorem inAccPort (w : Width) (port : Byte) : Statement (.inAccPort w port) := by
  intro _ rest
  cases w <;> rfl

theorem inAccDx (w : Width) : Statement (.inAccDx w) := by
  intro _ rest
  cases w <;> rfl

theorem outPortAcc (w : Width) (port : Byte) : Statement (.outPortAcc w port) := by
  intro _ rest
  cases w <;> rfl

theorem outDxAcc (w : Width) : Statement (.outDxAcc w) := by
  intro _ rest
  cases w <;> rfl

theorem lea (r : Reg) (rm : Rm) : Statement (.lea r rm) := by
  intro h rest
  refine (decode_modrm_mem (by rfl) (by rfl) h rest).trans ?_
  simp only [Reg.ofBits_bits]
  rfl

theorem lds (r : Reg) (rm : Rm) : Statement (.lds r rm) := by
  intro h rest
  refine (decode_modrm_mem (by rfl) (by rfl) h rest).trans ?_
  simp only [Reg.ofBits_bits]
  rfl

theorem les (r : Reg) (rm : Rm) : Statement (.les r rm) := by
  intro h rest
  refine (decode_modrm_mem (by rfl) (by rfl) h rest).trans ?_
  simp only [Reg.ofBits_bits]
  rfl

theorem lahf : Statement (.lahf) := by
  intro _ rest
  rfl

theorem sahf : Statement (.sahf) := by
  intro _ rest
  rfl

theorem pushf : Statement (.pushf) := by
  intro _ rest
  rfl

theorem popf : Statement (.popf) := by
  intro _ rest
  rfl

theorem addRmReg (dir : Dir) (w : Width) (rm : Rm) (r : Reg) : Statement (.addRmReg dir w rm r) := by
  intro h rest
  cases dir <;> cases w <;> (
    refine (decode_modrm (by rfl) h rest).trans ?_
    simp only [Reg.ofBits_bits]
    rfl)

theorem addRmImm (rm : Rm) (imm : ImmS) : Statement (.addRmImm rm imm) := by
  intro h rest
  cases imm <;> (
    simp only [encode, encRS, List.cons_append, List.append_assoc]
    refine (decode_modrm (by rfl) h _).trans ?_
    simp [canonical, encode, encRS, Tail.run, encWord, groupImm, groupImmS, groupUnary, groupShiftImm, Nat.add_assoc])

theorem addAccImm (imm : Imm) : Statement (.addAccImm imm) := by
  intro _ rest
  cases imm <;> (
    simp only [encode, Imm.width, Imm.bytes, List.cons_append]
    refine (decode_plain (by rfl) _).trans ?_
    first | rfl | exact Tail.run_w _ _ _ rest)

theorem orRmReg (dir : Dir) (w : Width) (rm : Rm) (r : Reg) : Statement (.orRmReg dir w rm r) := by
  intro h rest
  cases dir <;> cases w <;> (
    refine (decode_modrm (by rfl) h rest).trans ?_
    simp only [Reg.ofBits_bits]
    rfl)

theorem orRmImm (rm : Rm) (imm : Imm) : Statement (.orRmImm rm imm) := by
  intro h rest
  cases imm <;> (
    simp only [encode, encRI, Imm.width, Imm.bytes, List.cons_append, List.append_assoc]
    refine (decode_modrm (by rfl) h _).trans ?_
    simp [canonical, encode, encRI, Imm.width, Imm.bytes, Tail.run, encWord, groupImm, groupImmS, groupUnary, groupShiftImm, Nat.add_assoc])

theorem orAccImm (imm : Imm) : Statement (.orAccImm imm) := by
  intro _ rest
  cases imm <;> (
    simp only [encode, Imm.width, Imm.bytes, List.cons_append]
    refine (decode_plain (by rfl) _).trans ?_
    first | rfl | exact Tail.run_w _ _ _ rest)

theorem adcRmReg (dir : Dir) (w : Width) (rm : Rm) (r : Reg) : Statement (.adcRmReg dir w rm r) := by
  intro h rest
  cases dir <;> cases w <;> (
    refine (decode_modrm (by rfl) h rest).trans ?_
    simp only [Reg.ofBits_bits]
    rfl)

theorem adcRmImm (rm : Rm) (imm : ImmS) : Statement (.adcRmImm rm imm) := by
  intro h rest
  cases imm <;> (
    simp only [encode, encRS, List.cons_append, List.append_assoc]
    refine (decode_modrm (by rfl) h _).trans ?_
    simp [canonical, encode, encRS, Tail.run, encWord, groupImm, groupImmS, groupUnary, groupShiftImm, Nat.add_assoc])

theorem adcAccImm (imm : Imm) : Statement (.adcAccImm imm) := by
  intro _ rest
  cases imm <;> (
    simp only [encode, Imm.width, Imm.bytes, List.cons_append]
    refine (decode_plain (by rfl) _).trans ?_
    first | rfl | exact Tail.run_w _ _ _ rest)

theorem sbbRmReg (dir : Dir) (w : Width) (rm : Rm) (r : Reg) : Statement (.sbbRmReg dir w rm r) := by
  intro h rest
  cases dir <;> cases w <;> (
    refine (decode_modrm (by rfl) h rest).trans ?_
    simp only [Reg.ofBits_bits]
    rfl)

theorem sbbRmImm (rm : Rm) (imm : ImmS) : Statement (.sbbRmImm rm imm) := by
  intro h rest
  cases imm <;> (
    simp only [encode, encRS, List.cons_append, List.append_assoc]
    refine (decode_modrm (by rfl) h _).trans ?_
    simp [canonical, encode, encRS, Tail.run, encWord, groupImm, groupImmS, groupUnary, groupShiftImm, Nat.add_assoc])

theorem sbbAccImm (imm : Imm) : Statement (.sbbAccImm imm) := by
  intro _ rest
  cases imm <;> (
    simp only [encode, Imm.width, Imm.bytes, List.cons_append]
    refine (decode_plain (by rfl) _).trans ?_
    first | rfl | exact Tail.run_w _ _ _ rest)

theorem andRmReg (dir : Dir) (w : Width) (rm : Rm) (r : Reg) : Statement (.andRmReg dir w rm r) := by
  intro h rest
  cases dir <;> cases w <;> (
    refine (decode_modrm (by rfl) h rest).trans ?_
    simp only [Reg.ofBits_bits]
    rfl)

theorem andRmImm (rm : Rm) (imm : Imm) : Statement (.andRmImm rm imm) := by
  intro h rest
  cases imm <;> (
    simp only [encode, encRI, Imm.width, Imm.bytes, List.cons_append, List.append_assoc]
    refine (decode_modrm (by rfl) h _).trans ?_
    simp [canonical, encode, encRI, Imm.width, Imm.bytes, Tail.run, encWord, groupImm, groupImmS, groupUnary, groupShiftImm, Nat.add_assoc])

theorem andAccImm (imm : Imm) : Statement (.andAccImm imm) := by
  intro _ rest
  cases imm <;> (
    simp only [encode, Imm.width, Imm.bytes, List.cons_append]
    refine (decode_plain (by rfl) _).trans ?_
    first | rfl | exact Tail.run_w _ _ _ rest)

theorem subRmReg (dir : Dir) (w : Width) (rm : Rm) (r : Reg) : Statement (.subRmReg dir w rm r) := by
  intro h rest
  cases dir <;> cases w <;> (
    refine (decode_modrm (by rfl) h rest).trans ?_
    simp only [Reg.ofBits_bits]
    rfl)

theorem subRmImm (rm : Rm) (imm : ImmS) : Statement (.subRmImm rm imm) := by
  intro h rest
  cases imm <;> (
    simp only [encode, encRS, List.cons_append, List.append_assoc]
    refine (decode_modrm (by rfl) h _).trans ?_
    simp [canonical, encode, encRS, Tail.run, encWord, groupImm, groupImmS, groupUnary, groupShiftImm, Nat.add_assoc])

theorem subAccImm (imm : Imm) : Statement (.subAccImm imm) := by
  intro _ rest
  cases imm <;> (
    simp only [encode, Imm.width, Imm.bytes, List.cons_append]
    refine (decode_plain (by rfl) _).trans ?_
    first | rfl | exact Tail.run_w _ _ _ rest)

theorem xorRmReg (dir : Dir) (w : Width) (rm : Rm) (r : Reg) : Statement (.xorRmReg dir w rm r) := by
  intro h rest
  cases dir <;> cases w <;> (
    refine (decode_modrm (by rfl) h rest).trans ?_
    simp only [Reg.ofBits_bits]
    rfl)

theorem xorRmImm (rm : Rm) (imm : Imm) : Statement (.xorRmImm rm imm) := by
  intro h rest
  cases imm <;> (
    simp only [encode, encRI, Imm.width, Imm.bytes, List.cons_append, List.append_assoc]
    refine (decode_modrm (by rfl) h _).trans ?_
    simp [canonical, encode, encRI, Imm.width, Imm.bytes, Tail.run, encWord, groupImm, groupImmS, groupUnary, groupShiftImm, Nat.add_assoc])

theorem xorAccImm (imm : Imm) : Statement (.xorAccImm imm) := by
  intro _ rest
  cases imm <;> (
    simp only [encode, Imm.width, Imm.bytes, List.cons_append]
    refine (decode_plain (by rfl) _).trans ?_
    first | rfl | exact Tail.run_w _ _ _ rest)

theorem cmpRmReg (dir : Dir) (w : Width) (rm : Rm) (r : Reg) : Statement (.cmpRmReg dir w rm r) := by
  intro h rest
  cases dir <;> cases w <;> (
    refine (decode_modrm (by rfl) h rest).trans ?_
    simp only [Reg.ofBits_bits]
    rfl)

theorem cmpRmImm (rm : Rm) (imm : ImmS) : Statement (.cmpRmImm rm imm) := by
  intro h rest
  cases imm <;> (
    simp only [encode, encRS, List.cons_append, List.append_assoc]
    refine (decode_modrm (by rfl) h _).trans ?_
    simp [canonical, encode, encRS, Tail.run, encWord, groupImm, groupImmS, groupUnary, groupShiftImm, Nat.add_assoc])

theorem cmpAccImm (imm : Imm) : Statement (.cmpAccImm imm) := by
  intro _ rest
  cases imm <;> (
    simp only [encode, Imm.width, Imm.bytes, List.cons_append]
    refine (decode_plain (by rfl) _).trans ?_
    first | rfl | exact Tail.run_w _ _ _ rest)

theorem incRm (w : Width) (rm : Rm) : Statement (.incRm w rm) := by
  intro h rest
  cases w <;> (
    refine (decode_modrm (by rfl) h rest).trans ?_
    rfl)

theorem incReg (r : Reg) : Statement (.incReg r) := by
  intro _ rest
  cases r <;> rfl

theorem decRm (w : Width) (rm : Rm) : Statement (.decRm w rm) := by
  intro h rest
  cases w <;> (
    refine (decode_modrm (by rfl) h rest).trans ?_
    rfl)

theorem decReg (r : Reg) : Statement (.decReg r) := by
  intro _ rest
  cases r <;> rfl

theorem aaa : Statement (.aaa) := by
  intro _ rest
  rfl

theorem daa : Statement (.daa) := by
  intro _ rest
  rfl

theorem aas : Statement (.aas) := by
  intro _ rest
  rfl

theorem das : Statement (.das) := by
  intro _ rest
  rfl

theorem negRm (w : Width) (rm : Rm) : Statement (.negRm w rm) := by
  intro h rest
  cases w <;> (
    refine (decode_modrm (by rfl) h rest).trans ?_
    rfl)

theorem mulRm (w : Width) (rm : Rm) : Statement (.mulRm w rm) := by
  intro h rest
  cases w <;> (
    refine (decode_modrm (by rfl) h rest).trans ?_
    rfl)

theorem imulRm (w : Width) (rm : Rm) : Statement (.imulRm w rm) := by
  intro h rest
  cases w <;> (
    refine (decode_modrm (by rfl) h rest).trans ?_
    rfl)

theorem divRm (w : Width) (rm : Rm) : Statement (.divRm w rm) := by
  intro h rest
  cases w <;> (
    refine (decode_modrm (by rfl) h rest).trans ?_
    rfl)

theorem idivRm (w : Width) (rm : Rm) : Statement (.idivRm w rm) := by
  intro h rest
  cases w <;> (
    refine (decode_modrm (by rfl) h rest).trans ?_
    rfl)

theorem imulImm16 (r : Reg) (rm : Rm) (imm : Word) : Statement (.imulImm16 r rm imm) := by
  intro h rest
  (
    simp only [encode, List.cons_append, List.append_assoc]
    refine (decode_modrm (by rfl) h _).trans ?_
    simp only [Reg.ofBits_bits]
    simp [canonical, encode, Tail.run, encWord, groupImm, groupImmS, groupUnary, groupShiftImm, Nat.add_assoc])

theorem imulImm8 (r : Reg) (rm : Rm) (imm : Byte) : Statement (.imulImm8 r rm imm) := by
  intro h rest
  (
    simp only [encode, List.cons_append, List.append_assoc]
    refine (decode_modrm (by rfl) h _).trans ?_
    simp only [Reg.ofBits_bits]
    simp [canonical, encode, Tail.run, encWord, groupImm, groupImmS, groupUnary, groupShiftImm, Nat.add_assoc])

theorem aam : Statement (.aam) := by
  intro _ rest
  rfl

theorem aad : Statement (.aad) := by
  intro _ rest
  rfl

theorem cbw : Statement (.cbw) := by
  intro _ rest
  rfl

theorem cwd : Statement (.cwd) := by
  intro _ rest
  rfl

theorem notRm (w : Width) (rm : Rm) : Statement (.notRm w rm) := by
  intro h rest
  cases w <;> (
    refine (decode_modrm (by rfl) h rest).trans ?_
    rfl)

theorem testRmReg (w : Width) (rm : Rm) (r : Reg) : Statement (.testRmReg w rm r) := by
  intro h rest
  cases w <;> (
    refine (decode_modrm (by rfl) h rest).trans ?_
    simp only [Reg.ofBits_bits]
    rfl)

theorem testRmImm (rm : Rm) (imm : Imm) : Statement (.testRmImm rm imm) := by
  intro h rest
  cases imm <;> (
    simp only [encode, Imm.width, Imm.bytes, List.cons_append, List.append_assoc]
    refine (decode_modrm (by rfl) h _).trans ?_
    simp [canonical, encode, Imm.width, Imm.bytes, Tail.run, encWord, groupImm, groupImmS, groupUnary, groupShiftImm, Nat.add_assoc])

theorem testAccImm (imm : Imm) : Statement (.testAccImm imm) := by
  intro _ rest
  cases imm <;> (
    simp only [encode, Imm.width, Imm.bytes, List.cons_append]
    refine (decode_plain (by rfl) _).trans ?_
    first | rfl | exact Tail.run_w _ _ _ rest)

theorem rolRm (c : ShiftCount) (w : Width) (rm : Rm) : Statement (.rolRm c w rm) := by
  intro h rest
  cases c <;> cases w <;> (
    refine (decode_modrm (by rfl) h rest).trans ?_
    rfl)

theorem rolRmImm (w : Width) (rm : Rm) (count : Byte) : Statement (.rolRmImm w rm count) := by
  intro h rest
  cases w <;> (
    simp only [encode, encShiftImm, List.cons_append, List.append_assoc]
    refine (decode_modrm (by rfl) h _).trans ?_
    simp [canonical, encode, encShiftImm, Tail.run, encWord, groupImm, groupImmS, groupUnary, groupShiftImm, Nat.add_assoc])

theorem rorRm (c : ShiftCount) (w : Width) (rm : Rm) : Statement (.rorRm c w rm) := by
  intro h rest
  cases c <;> cases w <;> (
    refine (decode_modrm (by rfl) h rest).trans ?_
    rfl)

theorem rorRmImm (w : Width) (rm : Rm) (count : Byte) : Statement (.rorRmImm w rm count) := by
  intro h rest
  cases w <;> (
    simp only [encode, encShiftImm, List.cons_append, List.append_assoc]
    refine (decode_modrm (by rfl) h _).trans ?_
    simp [canonical, encode, encShiftImm, Tail.run, encWord, groupImm, groupImmS, groupUnary, groupShiftImm, Nat.add_assoc])

theorem rclRm (c : ShiftCount) (w : Width) (rm : Rm) : Statement (.rclRm c w rm) := by
  intro h rest
  cases c <;> cases w <;> (
    refine (decode_modrm (by rfl) h rest).trans ?_
    rfl)

theorem rclRmImm (w : Width) (rm : Rm) (count : Byte) : Statement (.rclRmImm w rm count) := by
  intro h rest
  cases w <;> (
    simp only [encode, encShiftImm, List.cons_append, List.append_assoc]
    refine (decode_modrm (by rfl) h _).trans ?_
    simp [canonical, encode, encShiftImm, Tail.run, encWord, groupImm, groupImmS, groupUnary, groupShiftImm, Nat.add_assoc])

theorem rcrRm (c : ShiftCount) (w : Width) (rm : Rm) : Statement (.rcrRm c w rm) := by
  intro h rest
  cases c <;> cases w <;> (
    refine (decode_modrm (by rfl) h rest).trans ?_
    rfl)

theorem rcrRmImm (w : Width) (rm : Rm) (count : Byte) : Statement (.rcrRmImm w rm count) := by
  intro h rest
  cases w <;> (
    simp only [encode, encShiftImm, List.cons_append, List.append_assoc]
    refine (decode_modrm (by rfl) h _).trans ?_
    simp [canonical, encode, encShiftImm, Tail.run, encWord, groupImm, groupImmS, groupUnary, groupShiftImm, Nat.add_assoc])

theorem shlRm (c : ShiftCount) (w : Width) (rm : Rm) : Statement (.shlRm c w rm) := by
  intro h rest
  cases c <;> cases w <;> (
    refine (decode_modrm (by rfl) h rest).trans ?_
    rfl)

theorem shlRmImm (w : Width) (rm : Rm) (count : Byte) : Statement (.shlRmImm w rm count) := by
  intro h rest
  cases w <;> (
    simp only [encode, encShiftImm, List.cons_append, List.append_assoc]
    refine (decode_modrm (by rfl) h _).trans ?_
    simp [canonical, encode, encShiftImm, Tail.run, encWord, groupImm, groupImmS, groupUnary, groupShiftImm, Nat.add_assoc])

theorem shrRm (c : ShiftCount) (w : Width) (rm : Rm) : Statement (.shrRm c w rm) := by
  intro h rest
  cases c <;> cases w <;> (
    refine (decode_modrm (by rfl) h rest).trans ?_
    rfl)

theorem shrRmImm (w : Width) (rm : Rm) (count : Byte) : Statement (.shrRmImm w rm count) := by
  intro h rest
  cases w <;> (
    simp only [encode, encShiftImm, List.cons_append, List.append_assoc]
    refine (decode_modrm (by rfl) h _).trans ?_
    simp [canonical, encode, encShiftImm, Tail.run, encWord, groupImm, groupImmS, groupUnary, groupShiftImm, Nat.add_assoc])

theorem sarRm (c : ShiftCount) (w : Width) (rm : Rm) : Statement (.sarRm c w rm) := by
  intro h rest
  cases c <;> cases w <;> (
    refine (decode_modrm (by rfl) h rest).trans ?_
    rfl)

theorem sarRmImm (w : Width) (rm : Rm) (count : Byte) : Statement (.sarRmImm w rm count) := by
  intro h rest
  cases w <;> (
    simp only [encode, encShiftImm, List.cons_append, List.append_assoc]
    refine (decode_modrm (by rfl) h _).trans ?_
    simp [canonical, encode, encShiftImm, Tail.run, encWord, groupImm, groupImmS, groupUnary, groupShiftImm, Nat.add_assoc])

theorem repPrefix (z : Bool) : Statement (.repPrefix z) := by
  intro _ rest
  cases z <;> rfl

theorem movs (w : Width) : Statement (.movs w) := by
  intro _ rest
  cases w <;> rfl

theorem cmps (w : Width) : Statement (.cmps w) := by
  intro _ rest
  cases w <;> rfl

theorem scas (w : Width) : Statement (.scas w) := by
  intro _ rest
  cases w <;> rfl

theorem lods (w : Width) : Statement (.lods w) := by
  intro _ rest
  cases w <;> rfl

theorem stos (w : Width) : Statement (.stos w) := by
  intro _ rest
  cases w <;> rfl

theorem ins (w : Width) : Statement (.ins w) := by
  intro _ rest
  cases w <;> rfl

theorem outs (w : Width) : Statement (.outs w) := by
  intro _ rest
  cases w <;> rfl

theorem callNear (disp : Word) : Statement (.callNear disp) := by
  intro _ rest
  exact (decode_plain (by rfl) _).trans (Tail.run_w _ _ _ rest)

theorem callNearRm (rm : Rm) : Statement (.callNearRm rm) := by
  intro h rest
  (
    refine (decode_modrm (by rfl) h rest).trans ?_
    rfl)

theorem callFar (off : Word) (seg : Word) : Statement (.callFar off seg) := by
  intro _ rest
  exact (decode_plain (by rfl) _).trans (Tail.run_ww _ _ _ _ rest)

theorem callFarRm (rm : Rm) : Statement (.callFarRm rm) := by
  intro h rest
  refine (decode_modrm_mem (by rfl) (by rfl) h rest).trans ?_
  rfl

theorem retNear : Statement (.retNear) := by
  intro _ rest
  rfl

theorem retNearImm (imm : Word) : Statement (.retNearImm imm) := by
  intro _ rest
  exact (decode_plain (by rfl) _).trans (Tail.run_w _ _ _ rest)

theorem retFar : Statement (.retFar) := by
  intro _ rest
  rfl

theorem retFarImm (imm : Word) : Statement (.retFarImm imm) := by
  intro _ rest
  exact (decode_plain (by rfl) _).trans (Tail.run_w _ _ _ rest)

theorem jmpNear (disp : Word) : Statement (.jmpNear disp) := by
  intro _ rest
  exact (decode_plain (by rfl) _).trans (Tail.run_w _ _ _ rest)

theorem jmpShort (disp : Byte) : Statement (.jmpShort disp) := by
  intro _ rest
  rfl

theorem jmpNearRm (rm : Rm) : Statement (.jmpNearRm rm) := by
  intro h rest
  (
    refine (decode_modrm (by rfl) h rest).trans ?_
    rfl)

theorem jmpFar (off : Word) (seg : Word) : Statement (.jmpFar off seg) := by
  intro _ rest
  exact (decode_plain (by rfl) _).trans (Tail.run_ww _ _ _ _ rest)

theorem jmpFarRm (rm : Rm) : Statement (.jmpFarRm rm) := by
  intro h rest
  refine (decode_modrm_mem (by rfl) (by rfl) h rest).trans ?_
  rfl

theorem jo (disp : Byte) : Statement (.jo disp) := by
  intro _ rest
  rfl

theorem jno (disp : Byte) : Statement (.jno disp) := by
  intro _ rest
  rfl

theorem jb (disp : Byte) : Statement (.jb disp) := by
  intro _ rest
  rfl

theorem jae (disp : Byte) : Statement (.jae disp) := by
  intro _ rest
  rfl

theorem je (disp : Byte) : Statement (.je disp) := by
  intro _ rest
  rfl

theorem jne (disp : Byte) : Statement (.jne disp) := by
  intro _ rest
  rfl

theorem jbe (disp : Byte) : Statement (.jbe disp) := by
  intro _ rest
  rfl

theorem ja (disp : Byte) : Statement (.ja disp) := by
  intro _ rest
  rfl

theorem js (disp : Byte) : Statement (.js disp) := by
  intro _ rest
  rfl

theorem jns (disp : Byte) : Statement (.jns disp) := by
  intro _ rest
  rfl

theorem jp (disp : Byte) : Statement (.jp disp) := by
  intro _ rest
  rfl

theorem jnp (disp : Byte) : Statement (.jnp disp) := by
  intro _ rest
  rfl

theorem jl (disp : Byte) : Statement (.jl disp) := by
  intro _ rest
  rfl

theorem jge (disp : Byte) : Statement (.jge disp) := by
  intro _ rest
  rfl

theorem jle (disp : Byte) : Statement (.jle disp) := by
  intro _ rest
  rfl

theorem jg (disp : Byte) : Statement (.jg disp) := by
  intro _ rest
  rfl

theorem loop (disp : Byte) : Statement (.loop disp) := by
  intro _ rest
  rfl

theorem loope (disp : Byte) : Statement (.loope disp) := by
  intro _ rest
  rfl

theorem loopne (disp : Byte) : Statement (.loopne disp) := by
  intro _ rest
  rfl

theorem jcxz (disp : Byte) : Statement (.jcxz disp) := by
  intro _ rest
  rfl

theorem intType (t : Byte) : Statement (.intType t) := by
  intro _ rest
  rfl

theorem int3 : Statement (.int3) := by
  intro _ rest
  rfl

theorem into : Statement (.into) := by
  intro _ rest
  rfl

theorem iret : Statement (.iret) := by
  intro _ rest
  rfl

theorem enter (size : Word) (level : Byte) : Statement (.enter size level) := by
  intro _ rest
  exact (decode_plain (by rfl) _).trans (Tail.run_wb _ _ _ _ rest)

theorem leave : Statement (.leave) := by
  intro _ rest
  rfl

theorem bound (r : Reg) (rm : Rm) : Statement (.bound r rm) := by
  intro h rest
  refine (decode_modrm_mem (by rfl) (by rfl) h rest).trans ?_
  simp only [Reg.ofBits_bits]
  rfl

theorem clc : Statement (.clc) := by
  intro _ rest
  rfl

theorem cmc : Statement (.cmc) := by
  intro _ rest
  rfl

theorem stc : Statement (.stc) := by
  intro _ rest
  rfl

theorem cld : Statement (.cld) := by
  intro _ rest
  rfl

theorem std : Statement (.std) := by
  intro _ rest
  rfl

theorem cli : Statement (.cli) := by
  intro _ rest
  rfl

theorem sti : Statement (.sti) := by
  intro _ rest
  rfl

theorem hlt : Statement (.hlt) := by
  intro _ rest
  rfl

theorem wait : Statement (.wait) := by
  intro _ rest
  rfl

theorem escMem_plain (rm : Rm) : ∀ lo reg : BitVec 3,
    escNamedMem lo.toNat reg.toNat = false → escMem lo reg rm = .esc (lo ++ reg) rm := by
  have key : ∀ lo reg : Fin 8, escNamedMem lo reg = false →
      escMem (BitVec.ofFin lo) (BitVec.ofFin reg) rm = .esc ((BitVec.ofFin lo : BitVec 3) ++ (BitVec.ofFin reg : BitVec 3)) rm := by
    intro lo reg
    fin_cases lo <;> fin_cases reg <;> first | (intro h; exact absurd h (by decide)) | (intro _; rfl)
  intro lo reg h
  exact key lo.toFin reg.toFin h

theorem escReg_plain : ∀ lo reg i : BitVec 3,
    escNamedReg lo.toNat reg.toNat i.toNat = false → escReg lo reg i = .esc (lo ++ reg) (.reg (Reg.ofBits i)) := by
  decide

theorem esc_fields : ∀ x : BitVec 6, x.extractLsb' 3 3 ++ x.extractLsb' 0 3 = x
    ∧ (x.extractLsb' 3 3).toNat = x.toNat / 8 ∧ (x.extractLsb' 0 3).toNat = x.toNat % 8 := by
  decide

theorem esc (x : BitVec 6) (rm : Rm) : Statement (.esc x rm) := by
  intro h rest
  obtain ⟨hx, h3, h0⟩ := esc_fields x
  have hp : rm.wellFormed = true ∧ escPlain x rm = true := by simpa [Instr.wellFormed] using h
  cases hrm : rm with
  | reg r =>
    have hn : escNamedReg (x.toNat / 8) (x.toNat % 8) r.number = false := by simpa [hrm, escPlain] using hp.2
    have hb : r.bits.toNat = r.number := by cases r <;> rfl
    rw [← h3, ← h0, ← hb] at hn
    have hd := decode_esc_reg (opcodeForm_esc (x.extractLsb' 3 3)) (x.extractLsb' 0 3) r.bits rest
    rw [escReg_plain _ _ _ hn, hx, Reg.ofBits_bits] at hd
    exact hd
  | _ =>
    have hm : rm.wellFormedMem = true := by
      have := hp.1
      simp_all [Rm.wellFormed, Rm.wellFormedMem]
    have hn : escNamedMem (x.toNat / 8) (x.toNat % 8) = false := by simpa [hrm, escPlain] using hp.2
    rw [← h3, ← h0] at hn
    have hd := decode_esc_mem (opcodeForm_esc (x.extractLsb' 3 3)) (reg := x.extractLsb' 0 3) hm rest
    rw [escMem_plain _ _ _ hn, hx, hrm] at hd
    exact hd

theorem lockPrefix : Statement (.lockPrefix) := by
  intro _ rest
  rfl

theorem nop : Statement (.nop) := by
  intro _ rest
  rfl

theorem segPrefix (sr : SReg) : Statement (.segPrefix sr) := by
  intro _ rest
  cases sr <;> rfl

theorem unused63 : Statement (.unused63) := by
  intro _ rest
  rfl

theorem unused64 : Statement (.unused64) := by
  intro _ rest
  rfl

theorem unused65 : Statement (.unused65) := by
  intro _ rest
  rfl

theorem unused66 : Statement (.unused66) := by
  intro _ rest
  rfl

theorem unused67 : Statement (.unused67) := by
  intro _ rest
  rfl

theorem unusedF1 : Statement (.unusedF1) := by
  intro _ rest
  rfl

theorem unusedFE7 (rm : Rm) : Statement (.unusedFE7 rm) := by
  intro h rest
  (
    refine (decode_modrm (by rfl) h rest).trans ?_
    rfl)

theorem unusedFF7 (rm : Rm) : Statement (.unusedFF7 rm) := by
  intro h rest
  (
    refine (decode_modrm (by rfl) h rest).trans ?_
    rfl)

theorem faddM32 (rm : Rm) : Statement (.faddM32 rm) := by
  intro h rest
  exact decode_esc_mem (opcodeForm_esc 0) h rest

theorem faddM64 (rm : Rm) : Statement (.faddM64 rm) := by
  intro h rest
  exact decode_esc_mem (opcodeForm_esc 4) h rest

theorem faddStSti (i : (BitVec 3)) : Statement (.faddStSti i) := by
  intro _ rest
  exact decode_esc_reg (opcodeForm_esc 0) _ _ rest

theorem fmulM32 (rm : Rm) : Statement (.fmulM32 rm) := by
  intro h rest
  exact decode_esc_mem (opcodeForm_esc 0) h rest

theorem fmulM64 (rm : Rm) : Statement (.fmulM64 rm) := by
  intro h rest
  exact decode_esc_mem (opcodeForm_esc 4) h rest

theorem fmulStSti (i : (BitVec 3)) : Statement (.fmulStSti i) := by
  intro _ rest
  exact decode_esc_reg (opcodeForm_esc 0) _ _ rest

theorem fcomM32 (rm : Rm) : Statement (.fcomM32 rm) := by
  intro h rest
  exact decode_esc_mem (opcodeForm_esc 0) h rest

theorem fcomM64 (rm : Rm) : Statement (.fcomM64 rm) := by
  intro h rest
  exact decode_esc_mem (opcodeForm_esc 4) h rest

theorem fcomSti (i : (BitVec 3)) : Statement (.fcomSti i) := by
  intro _ rest
  exact decode_esc_reg (opcodeForm_esc 0) _ _ rest

theorem fcompM32 (rm : Rm) : Statement (.fcompM32 rm) := by
  intro h rest
  exact decode_esc_mem (opcodeForm_esc 0) h rest

theorem fcompM64 (rm : Rm) : Statement (.fcompM64 rm) := by
  intro h rest
  exact decode_esc_mem (opcodeForm_esc 4) h rest

theorem fcompSti (i : (BitVec 3)) : Statement (.fcompSti i) := by
  intro _ rest
  exact decode_esc_reg (opcodeForm_esc 0) _ _ rest

theorem fsubM32 (rm : Rm) : Statement (.fsubM32 rm) := by
  intro h rest
  exact decode_esc_mem (opcodeForm_esc 0) h rest

theorem fsubM64 (rm : Rm) : Statement (.fsubM64 rm) := by
  intro h rest
  exact decode_esc_mem (opcodeForm_esc 4) h rest

theorem fsubStSti (i : (BitVec 3)) : Statement (.fsubStSti i) := by
  intro _ rest
  exact decode_esc_reg (opcodeForm_esc 0) _ _ rest

theorem fsubrM32 (rm : Rm) : Statement (.fsubrM32 rm) := by
  intro h rest
  exact decode_esc_mem (opcodeForm_esc 0) h rest

theorem fsubrM64 (rm : Rm) : Statement (.fsubrM64 rm) := by
  intro h rest
  exact decode_esc_mem (opcodeForm_esc 4) h rest

theorem fsubrStSti (i : (BitVec 3)) : Statement (.fsubrStSti i) := by
  intro _ rest
  exact decode_esc_reg (opcodeForm_esc 0) _ _ rest

theorem fdivM32 (rm : Rm) : Statement (.fdivM32 rm) := by
  intro h rest
  exact decode_esc_mem (opcodeForm_esc 0) h rest

theorem fdivM64 (rm : Rm) : Statement (.fdivM64 rm) := by
  intro h rest
  exact decode_esc_mem (opcodeForm_esc 4) h rest

theorem fdivStSti (i : (BitVec 3)) : Statement (.fdivStSti i) := by
  intro _ rest
  exact decode_esc_reg (opcodeForm_esc 0) _ _ rest

theorem fdivrM32 (rm : Rm) : Statement (.fdivrM32 rm) := by
  intro h rest
  exact decode_esc_mem (opcodeForm_esc 0) h rest

theorem fdivrM64 (rm : Rm) : Statement (.fdivrM64 rm) := by
  intro h rest
  exact decode_esc_mem (opcodeForm_esc 4) h rest

theorem fdivrStSti (i : (BitVec 3)) : Statement (.fdivrStSti i) := by
  intro _ rest
  exact decode_esc_reg (opcodeForm_esc 0) _ _ rest

theorem fiaddI32 (rm : Rm) : Statement (.fiaddI32 rm) := by
  intro h rest
  exact decode_esc_mem (opcodeForm_esc 2) h rest

theorem fiaddI16 (rm : Rm) : Statement (.fiaddI16 rm) := by
  intro h rest
  exact decode_esc_mem (opcodeForm_esc 6) h rest

theorem fimulI32 (rm : Rm) : Statement (.fimulI32 rm) := by
  intro h rest
  exact decode_esc_mem (opcodeForm_esc 2) h rest

theorem fimulI16 (rm : Rm) : Statement (.fimulI16 rm) := by
  intro h rest
  exact decode_esc_mem (opcodeForm_esc 6) h rest

theorem ficomI32 (rm : Rm) : Statement (.ficomI32 rm) := by
  intro h rest
  exact decode_esc_mem (opcodeForm_esc 2) h rest

theorem ficomI16 (rm : Rm) : Statement (.ficomI16 rm) := by
  intro h rest
  exact decode_esc_mem (opcodeForm_esc 6) h rest

theorem ficompI32 (rm : Rm) : Statement (.ficompI32 rm) := by
  intro h rest
  exact decode_esc_mem (opcodeForm_esc 2) h rest

theorem ficompI16 (rm : Rm) : Statement (.ficompI16 rm) := by
  intro h rest
  exact decode_esc_mem (opcodeForm_esc 6) h rest

theorem fisubI32 (rm : Rm) : Statement (.fisubI32 rm) := by
  intro h rest
  exact decode_esc_mem (opcodeForm_esc 2) h rest

theorem fisubI16 (rm : Rm) : Statement (.fisubI16 rm) := by
  intro h rest
  exact decode_esc_mem (opcodeForm_esc 6) h rest

theorem fisubrI32 (rm : Rm) : Statement (.fisubrI32 rm) := by
  intro h rest
  exact decode_esc_mem (opcodeForm_esc 2) h rest

theorem fisubrI16 (rm : Rm) : Statement (.fisubrI16 rm) := by
  intro h rest
  exact decode_esc_mem (opcodeForm_esc 6) h rest

theorem fidivI32 (rm : Rm) : Statement (.fidivI32 rm) := by
  intro h rest
  exact decode_esc_mem (opcodeForm_esc 2) h rest

theorem fidivI16 (rm : Rm) : Statement (.fidivI16 rm) := by
  intro h rest
  exact decode_esc_mem (opcodeForm_esc 6) h rest

theorem fidivrI32 (rm : Rm) : Statement (.fidivrI32 rm) := by
  intro h rest
  exact decode_esc_mem (opcodeForm_esc 2) h rest

theorem fidivrI16 (rm : Rm) : Statement (.fidivrI16 rm) := by
  intro h rest
  exact decode_esc_mem (opcodeForm_esc 6) h rest

theorem faddStiSt (i : (BitVec 3)) : Statement (.faddStiSt i) := by
  intro _ rest
  exact decode_esc_reg (opcodeForm_esc 4) _ _ rest

theorem fmulStiSt (i : (BitVec 3)) : Statement (.fmulStiSt i) := by
  intro _ rest
  exact decode_esc_reg (opcodeForm_esc 4) _ _ rest

theorem fsubrStiSt (i : (BitVec 3)) : Statement (.fsubrStiSt i) := by
  intro _ rest
  exact decode_esc_reg (opcodeForm_esc 4) _ _ rest

theorem fsubStiSt (i : (BitVec 3)) : Statement (.fsubStiSt i) := by
  intro _ rest
  exact decode_esc_reg (opcodeForm_esc 4) _ _ rest

theorem fdivrStiSt (i : (BitVec 3)) : Statement (.fdivrStiSt i) := by
  intro _ rest
  exact decode_esc_reg (opcodeForm_esc 4) _ _ rest

theorem fdivStiSt (i : (BitVec 3)) : Statement (.fdivStiSt i) := by
  intro _ rest
  exact decode_esc_reg (opcodeForm_esc 4) _ _ rest

theorem faddpStiSt (i : (BitVec 3)) : Statement (.faddpStiSt i) := by
  intro _ rest
  exact decode_esc_reg (opcodeForm_esc 6) _ _ rest

theorem fmulpStiSt (i : (BitVec 3)) : Statement (.fmulpStiSt i) := by
  intro _ rest
  exact decode_esc_reg (opcodeForm_esc 6) _ _ rest

theorem fsubrpStiSt (i : (BitVec 3)) : Statement (.fsubrpStiSt i) := by
  intro _ rest
  exact decode_esc_reg (opcodeForm_esc 6) _ _ rest

theorem fsubpStiSt (i : (BitVec 3)) : Statement (.fsubpStiSt i) := by
  intro _ rest
  exact decode_esc_reg (opcodeForm_esc 6) _ _ rest

theorem fdivrpStiSt (i : (BitVec 3)) : Statement (.fdivrpStiSt i) := by
  intro _ rest
  exact decode_esc_reg (opcodeForm_esc 6) _ _ rest

theorem fdivpStiSt (i : (BitVec 3)) : Statement (.fdivpStiSt i) := by
  intro _ rest
  exact decode_esc_reg (opcodeForm_esc 6) _ _ rest

theorem fcompp : Statement (.fcompp) := by
  intro _ rest
  exact decode_esc_reg (opcodeForm_esc 6) _ _ rest

theorem fldM32 (rm : Rm) : Statement (.fldM32 rm) := by
  intro h rest
  exact decode_esc_mem (opcodeForm_esc 1) h rest

theorem fstM32 (rm : Rm) : Statement (.fstM32 rm) := by
  intro h rest
  exact decode_esc_mem (opcodeForm_esc 1) h rest

theorem fstpM32 (rm : Rm) : Statement (.fstpM32 rm) := by
  intro h rest
  exact decode_esc_mem (opcodeForm_esc 1) h rest

theorem fldenv (rm : Rm) : Statement (.fldenv rm) := by
  intro h rest
  exact decode_esc_mem (opcodeForm_esc 1) h rest

theorem fldcw (rm : Rm) : Statement (.fldcw rm) := by
  intro h rest
  exact decode_esc_mem (opcodeForm_esc 1) h rest

theorem fstenv (rm : Rm) : Statement (.fstenv rm) := by
  intro h rest
  exact decode_esc_mem (opcodeForm_esc 1) h rest

theorem fstcw (rm : Rm) : Statement (.fstcw rm) := by
  intro h rest
  exact decode_esc_mem (opcodeForm_esc 1) h rest

theorem fildI32 (rm : Rm) : Statement (.fildI32 rm) := by
  intro h rest
  exact decode_esc_mem (opcodeForm_esc 3) h rest

theorem fistI32 (rm : Rm) : Statement (.fistI32 rm) := by
  intro h rest
  exact decode_esc_mem (opcodeForm_esc 3) h rest

theorem fistpI32 (rm : Rm) : Statement (.fistpI32 rm) := by
  intro h rest
  exact decode_esc_mem (opcodeForm_esc 3) h rest

theorem fldM80 (rm : Rm) : Statement (.fldM80 rm) := by
  intro h rest
  exact decode_esc_mem (opcodeForm_esc 3) h rest

theorem fstpM80 (rm : Rm) : Statement (.fstpM80 rm) := by
  intro h rest
  exact decode_esc_mem (opcodeForm_esc 3) h rest

theorem fldM64 (rm : Rm) : Statement (.fldM64 rm) := by
  intro h rest
  exact decode_esc_mem (opcodeForm_esc 5) h rest

theorem fstM64 (rm : Rm) : Statement (.fstM64 rm) := by
  intro h rest
  exact decode_esc_mem (opcodeForm_esc 5) h rest

theorem fstpM64 (rm : Rm) : Statement (.fstpM64 rm) := by
  intro h rest
  exact decode_esc_mem (opcodeForm_esc 5) h rest

theorem frstor (rm : Rm) : Statement (.frstor rm) := by
  intro h rest
  exact decode_esc_mem (opcodeForm_esc 5) h rest

theorem fsave (rm : Rm) : Statement (.fsave rm) := by
  intro h rest
  exact decode_esc_mem (opcodeForm_esc 5) h rest

theorem fstsw (rm : Rm) : Statement (.fstsw rm) := by
  intro h rest
  exact decode_esc_mem (opcodeForm_esc 5) h rest

theorem fildI16 (rm : Rm) : Statement (.fildI16 rm) := by
  intro h rest
  exact decode_esc_mem (opcodeForm_esc 7) h rest

theorem fistI16 (rm : Rm) : Statement (.fistI16 rm) := by
  intro h rest
  exact decode_esc_mem (opcodeForm_esc 7) h rest

theorem fistpI16 (rm : Rm) : Statement (.fistpI16 rm) := by
  intro h rest
  exact decode_esc_mem (opcodeForm_esc 7) h rest

theorem fbld (rm : Rm) : Statement (.fbld rm) := by
  intro h rest
  exact decode_esc_mem (opcodeForm_esc 7) h rest

theorem fildI64 (rm : Rm) : Statement (.fildI64 rm) := by
  intro h rest
  exact decode_esc_mem (opcodeForm_esc 7) h rest

theorem fbstp (rm : Rm) : Statement (.fbstp rm) := by
  intro h rest
  exact decode_esc_mem (opcodeForm_esc 7) h rest

theorem fistpI64 (rm : Rm) : Statement (.fistpI64 rm) := by
  intro h rest
  exact decode_esc_mem (opcodeForm_esc 7) h rest

theorem fldSti (i : (BitVec 3)) : Statement (.fldSti i) := by
  intro _ rest
  exact decode_esc_reg (opcodeForm_esc 1) _ _ rest

theorem fxchSti (i : (BitVec 3)) : Statement (.fxchSti i) := by
  intro _ rest
  exact decode_esc_reg (opcodeForm_esc 1) _ _ rest

theorem fnop : Statement (.fnop) := by
  intro _ rest
  exact decode_esc_reg (opcodeForm_esc 1) _ _ rest

theorem fchs : Statement (.fchs) := by
  intro _ rest
  exact decode_esc_reg (opcodeForm_esc 1) _ _ rest

theorem fabs : Statement (.fabs) := by
  intro _ rest
  exact decode_esc_reg (opcodeForm_esc 1) _ _ rest

theorem ftst : Statement (.ftst) := by
  intro _ rest
  exact decode_esc_reg (opcodeForm_esc 1) _ _ rest

theorem fxam : Statement (.fxam) := by
  intro _ rest
  exact decode_esc_reg (opcodeForm_esc 1) _ _ rest

theorem fld1 : Statement (.fld1) := by
  intro _ rest
  exact decode_esc_reg (opcodeForm_esc 1) _ _ rest

theorem fldl2t : Statement (.fldl2t) := by
  intro _ rest
  exact decode_esc_reg (opcodeForm_esc 1) _ _ rest

theorem fldl2e : Statement (.fldl2e) := by
  intro _ rest
  exact decode_esc_reg (opcodeForm_esc 1) _ _ rest

theorem fldpi : Statement (.fldpi) := by
  intro _ rest
  exact decode_esc_reg (opcodeForm_esc 1) _ _ rest

theorem fldlg2 : Statement (.fldlg2) := by
  intro _ rest
  exact decode_esc_reg (opcodeForm_esc 1) _ _ rest

theorem fldln2 : Statement (.fldln2) := by
  intro _ rest
  exact decode_esc_reg (opcodeForm_esc 1) _ _ rest

theorem fldz : Statement (.fldz) := by
  intro _ rest
  exact decode_esc_reg (opcodeForm_esc 1) _ _ rest

theorem f2xm1 : Statement (.f2xm1) := by
  intro _ rest
  exact decode_esc_reg (opcodeForm_esc 1) _ _ rest

theorem fyl2x : Statement (.fyl2x) := by
  intro _ rest
  exact decode_esc_reg (opcodeForm_esc 1) _ _ rest

theorem fptan : Statement (.fptan) := by
  intro _ rest
  exact decode_esc_reg (opcodeForm_esc 1) _ _ rest

theorem fpatan : Statement (.fpatan) := by
  intro _ rest
  exact decode_esc_reg (opcodeForm_esc 1) _ _ rest

theorem fxtract : Statement (.fxtract) := by
  intro _ rest
  exact decode_esc_reg (opcodeForm_esc 1) _ _ rest

theorem fdecstp : Statement (.fdecstp) := by
  intro _ rest
  exact decode_esc_reg (opcodeForm_esc 1) _ _ rest

theorem fincstp : Statement (.fincstp) := by
  intro _ rest
  exact decode_esc_reg (opcodeForm_esc 1) _ _ rest

theorem fprem : Statement (.fprem) := by
  intro _ rest
  exact decode_esc_reg (opcodeForm_esc 1) _ _ rest

theorem fyl2xp1 : Statement (.fyl2xp1) := by
  intro _ rest
  exact decode_esc_reg (opcodeForm_esc 1) _ _ rest

theorem fsqrt : Statement (.fsqrt) := by
  intro _ rest
  exact decode_esc_reg (opcodeForm_esc 1) _ _ rest

theorem frndint : Statement (.frndint) := by
  intro _ rest
  exact decode_esc_reg (opcodeForm_esc 1) _ _ rest

theorem fscale : Statement (.fscale) := by
  intro _ rest
  exact decode_esc_reg (opcodeForm_esc 1) _ _ rest

theorem feni : Statement (.feni) := by
  intro _ rest
  exact decode_esc_reg (opcodeForm_esc 3) _ _ rest

theorem fdisi : Statement (.fdisi) := by
  intro _ rest
  exact decode_esc_reg (opcodeForm_esc 3) _ _ rest

theorem fclex : Statement (.fclex) := by
  intro _ rest
  exact decode_esc_reg (opcodeForm_esc 3) _ _ rest

theorem finit : Statement (.finit) := by
  intro _ rest
  exact decode_esc_reg (opcodeForm_esc 3) _ _ rest

theorem ffreeSti (i : (BitVec 3)) : Statement (.ffreeSti i) := by
  intro _ rest
  exact decode_esc_reg (opcodeForm_esc 5) _ _ rest

theorem fstSti (i : (BitVec 3)) : Statement (.fstSti i) := by
  intro _ rest
  exact decode_esc_reg (opcodeForm_esc 5) _ _ rest

theorem fstpSti (i : (BitVec 3)) : Statement (.fstpSti i) := by
  intro _ rest
  exact decode_esc_reg (opcodeForm_esc 5) _ _ rest

theorem fwait : Statement (.fwait) := by
  intro _ rest
  rfl

end Sys2Proof.Laws.RoundTrip
end

