-- ==== Sys2Proof/Tests/Slice0.lean ====
section
/-! SUPPORT. Tests: what WellFormed refuses, the decoding of a word of every constructor (each word written out from the encodings of
spec/), single steps whose results come from the examples of spec/, and for each statement a state and operands that meet its
hypotheses. -/

open Sys2Proof Sys2Proof.Machine

namespace Sys2Proof.Tests

/-! ## Well-formedness: one ill-formed term for each check -/

/-- mod 00 with r/m 110 is the direct address, so [BP] alone has no encoding (30_encoding.md R55). -/
theorem test_refuses_bp_without_displacement : Instr.wellFormed (.movRmReg .toReg .word (.ind .bp) .ax) = false := by decide
/-- CS is no destination of MOV (93_implementation_defined.md U2). -/
theorem test_refuses_mov_to_cs : Instr.wellFormed (.movSregRm .cs (.reg .ax)) = false := by decide
/-- LEA, LDS, LES, BOUND and the far indirect transfers need a memory operand (U1, U3, U4). -/
theorem test_refuses_register_operands :
    [Instr.lea .ax (.reg .bx), .lds .ax (.reg .bx), .les .ax (.reg .bx), .bound .ax (.reg .bx), .callFarRm (.reg .bx),
      .jmpFarRm (.reg .bx), .fldM80 (.reg .bx)].all (fun i => !i.wellFormed) = true := by decide
/-- A memory operand with no encoding is refused where only memory is admitted, too. -/
theorem test_refuses_bp_in_memory_forms : Instr.wellFormed (.lea .ax (.ind .bp)) = false := by decide
/-- A plain ESC is one that the 8087 table does not name: D9 /5 is FLDCW, D9 C0 is FLD ST(0) (48_npx_8087_instructions.md R424). -/
theorem test_refuses_named_escapes :
    [Instr.esc 13 (.ind .bx), .esc 8 (.reg .ax), .esc 9 (.ind .bp)].all (fun i => !i.wellFormed) = true := by decide
/-- The decoder refuses the same cases by name, and an encoding cut short. -/
theorem test_decoder_refuses :
    [([0x8E, 0xC8], DecodeError.segmentNumber), ([0x8D, 0xC3], .registerOperand), ([0xD4, 0x0B], .adjustByte), ([0x8B, 0x46], .tooShort), ([0x83, 0xE0, 0x01], .immediateGroup), ([0xD6], .opcodeD6), ([0xD0, 0xF0], .groupSlot),
      (([] : List Byte), .tooShort)].all (fun p => match decode p.1 with
        | .error e => e == p.2
        | .ok _ => false) = true := by decide

/-! ## Decoding: every constructor's word -/

/-- Each byte list decodes, wholly, to its instruction, which is well-formed. -/
def reads (l : List (List Byte × Instr)) : Bool :=
  l.all fun p => match decode p.1 with
    | .ok (i, n) => i == p.2 && n == p.1.length && i.wellFormed
    | .error _ => false

/-- 40_data_transfer.md R81 to R107. -/
theorem test_decodes_data_transfer : reads [
    ([0x8B, 0x46, 0xFE], .movRmReg .toReg .word (.disp8 .bp 0xFE) .ax),
    ([0x88, 0x26, 0x34, 0x12], .movRmReg .toRm .byte (.direct 0x1234) .sp),
    ([0xC6, 0x06, 0x00, 0x10, 0x41], .movRmImm (.direct 0x1000) (.byte 0x41)),
    ([0xB8, 0x34, 0x12], .movRegImm .ax (.word 0x1234)), ([0xB4, 0x09], .movRegImm .sp (.byte 9)),
    ([0xA1, 0x00, 0x20], .movAccAddr .word 0x2000), ([0xA2, 0x00, 0x20], .movAddrAcc .byte 0x2000),
    ([0x8E, 0xD8], .movSregRm .ds (.reg .ax)), ([0x8C, 0xC8], .movRmSreg (.reg .ax) .cs),
    ([0xFF, 0x36, 0x00, 0x10], .pushRm (.direct 0x1000)), ([0x57], .pushReg .di), ([0x16], .pushSreg .ss),
    ([0x68, 0x34, 0x12], .pushImm16 0x1234), ([0x6A, 0xFF], .pushImm8 0xFF), ([0x8F, 0x06, 0x00, 0x10], .popRm (.direct 0x1000)),
    ([0x5B], .popReg .bx), ([0x1F], .popSreg .ds), ([0x60], .pusha), ([0x61], .popa),
    ([0x86, 0x06, 0x00, 0x10], .xchgRmReg .byte (.direct 0x1000) .ax), ([0x93], .xchgAxReg .bx), ([0xD7], .xlat),
    ([0xE4, 0x60], .inAccPort .byte 0x60), ([0xED], .inAccDx .word), ([0xE7, 0x60], .outPortAcc .word 0x60),
    ([0xEE], .outDxAcc .byte), ([0x8D, 0x5C, 0x04], .lea .bx (.disp8 .si 4)), ([0xC5, 0x1F], .lds .bx (.ind .bx)),
    ([0xC4, 0x3E, 0x00, 0x20], .les .di (.direct 0x2000)), ([0x9F], .lahf), ([0x9E], .sahf), ([0x9C], .pushf), ([0x9D], .popf)] = true := by decide

/-- 41_arithmetic.md R111 to R132. -/
theorem test_decodes_arithmetic : reads [
    ([0x02, 0xC3], .addRmReg .toReg .byte (.reg .bx) .ax), ([0x83, 0xC3, 0xFF], .addRmImm (.reg .bx) (.sext 0xFF)),
    ([0x04, 0x01], .addAccImm (.byte 1)), ([0x11, 0x17], .adcRmReg .toRm .word (.ind .bx) .dx),
    ([0x81, 0xD1, 0x34, 0x12], .adcRmImm (.reg .cx) (.word 0x1234)), ([0x15, 0x00, 0x00], .adcAccImm (.word 0)),
    ([0x1A, 0x00], .sbbRmReg .toReg .byte (.ind .bxsi) .ax), ([0x80, 0x1F, 0x05], .sbbRmImm (.ind .bx) (.byte 5)),
    ([0x1D, 0x00, 0x00], .sbbAccImm (.word 0)), ([0x2B, 0xD2], .subRmReg .toReg .word (.reg .dx) .dx),
    ([0x82, 0xEB, 0x05], .subRmImm (.reg .bx) (.byteAlias 5)), ([0x2C, 0x01], .subAccImm (.byte 1)),
    ([0x3B, 0x03], .cmpRmReg .toReg .word (.ind .bpdi) .ax), ([0x80, 0xF9, 0x0D], .cmpRmImm (.reg .cx) (.byte 0x0D)),
    ([0x3C, 0x10], .cmpAccImm (.byte 0x10)), ([0xFE, 0x07], .incRm .byte (.ind .bx)), ([0x40], .incReg .ax),
    ([0xFF, 0x4D, 0x02], .decRm .word (.disp8 .di 2)), ([0x49], .decReg .cx), ([0x37], .aaa), ([0x27], .daa), ([0x3F], .aas),
    ([0x2F], .das), ([0xF6, 0xD8], .negRm .byte (.reg .ax)), ([0xF6, 0xE3], .mulRm .byte (.reg .bx)),
    ([0xF6, 0xE9], .imulRm .byte (.reg .cx)), ([0xF6, 0xF3], .divRm .byte (.reg .bx)),
    ([0xF7, 0x3E, 0x00, 0x01], .idivRm .word (.direct 0x100)), ([0x69, 0xC3, 0x02, 0x01], .imulImm16 .ax (.reg .bx) 0x0102),
    ([0x6B, 0xC3, 0xFE], .imulImm8 .ax (.reg .bx) 0xFE), ([0xD4, 0x0A], .aam), ([0xD5, 0x0A], .aad), ([0x98], .cbw),
    ([0x99], .cwd)] = true := by decide

/-- 42_bit_manipulation.md R141 to R155. -/
theorem test_decodes_bit_manipulation : reads [
    ([0xF7, 0xD0], .notRm .word (.reg .ax)), ([0x20, 0xC8], .andRmReg .toRm .byte (.reg .ax) .cx),
    ([0x80, 0x64, 0x05, 0x0F], .andRmImm (.disp8 .si 5) (.byte 0x0F)), ([0x24, 0x0F], .andAccImm (.byte 0x0F)),
    ([0x0B, 0x04], .orRmReg .toReg .word (.ind .si) .ax), ([0x81, 0x0C, 0x34, 0x12], .orRmImm (.ind .si) (.word 0x1234)),
    ([0x0C, 0x30], .orAccImm (.byte 0x30)), ([0x33, 0xC0], .xorRmReg .toReg .word (.reg .ax) .ax),
    ([0x80, 0x31, 0x55], .xorRmImm (.ind .bxdi) (.byte 0x55)), ([0x35, 0x34, 0x12], .xorAccImm (.word 0x1234)),
    ([0x85, 0xD8], .testRmReg .word (.reg .ax) .bx), ([0xF6, 0x02, 0x80], .testRmImm (.ind .bpsi) (.byte 0x80)),
    ([0xA8, 0x80], .testAccImm (.byte 0x80)), ([0xD0, 0xC0], .rolRm .one .byte (.reg .ax)),
    ([0xC0, 0xC0, 0x03], .rolRmImm .byte (.reg .ax) 3), ([0xD3, 0xC8], .rorRm .cl .word (.reg .ax)),
    ([0xC1, 0xC8, 0x03], .rorRmImm .word (.reg .ax) 3), ([0xD0, 0xD0], .rclRm .one .byte (.reg .ax)),
    ([0xC0, 0xD0, 0x02], .rclRmImm .byte (.reg .ax) 2), ([0xD1, 0xD8], .rcrRm .one .word (.reg .ax)),
    ([0xC1, 0x1F, 0x02], .rcrRmImm .word (.ind .bx) 2), ([0xD3, 0xE3], .shlRm .cl .word (.reg .bx)),
    ([0xC1, 0xE0, 0x04], .shlRmImm .word (.reg .ax) 4), ([0xD1, 0xE8], .shrRm .one .word (.reg .ax)),
    ([0xC0, 0x6E, 0x04, 0x01], .shrRmImm .byte (.disp8 .bp 4) 1), ([0xD0, 0xF8], .sarRm .one .byte (.reg .ax)),
    ([0xC1, 0xF8, 0x1F], .sarRmImm .word (.reg .ax) 0x1F)] = true := by decide

/-- 43_string.md R162 to R170, 30_encoding.md R56, R57. -/
theorem test_decodes_strings_and_prefixes : reads [
    ([0xF2], .repPrefix false), ([0xF3], .repPrefix true), ([0xA4], .movs .byte), ([0xA7], .cmps .word), ([0xAE], .scas .byte),
    ([0xAD], .lods .word), ([0xAB], .stos .word), ([0x6C], .ins .byte), ([0x6F], .outs .word), ([0x2E], .segPrefix .cs),
    ([0x36], .segPrefix .ss), ([0xF0], .lockPrefix)] = true := by decide

/-- 44_control_transfer.md R182 to R219. -/
theorem test_decodes_control_transfer : reads [
    ([0xE8, 0xFD, 0x00], .callNear 0x00FD), ([0xFF, 0xD0], .callNearRm (.reg .ax)),
    ([0x9A, 0x34, 0x12, 0x78, 0x56], .callFar 0x1234 0x5678), ([0xFF, 0x1E, 0x00, 0x05], .callFarRm (.direct 0x0500)),
    ([0xC3], .retNear), ([0xC2, 0x04, 0x00], .retNearImm 4), ([0xCB], .retFar), ([0xCA, 0x02, 0x00], .retFarImm 2),
    ([0xE9, 0xFD, 0xFF], .jmpNear 0xFFFD), ([0xEB, 0xFE], .jmpShort 0xFE), ([0xFF, 0x27], .jmpNearRm (.ind .bx)),
    ([0xEA, 0x00, 0x00, 0x00, 0xF0], .jmpFar 0 0xF000), ([0xFF, 0x2C], .jmpFarRm (.ind .si)), ([0x70, 0x01], .jo 1),
    ([0x71, 0x02], .jno 2), ([0x72, 0x03], .jb 3), ([0x73, 0x04], .jae 4), ([0x74, 0x05], .je 5), ([0x75, 0xFB], .jne 0xFB),
    ([0x76, 0x07], .jbe 7), ([0x77, 0x08], .ja 8), ([0x78, 0x09], .js 9), ([0x79, 0x0A], .jns 0x0A), ([0x7A, 0x0B], .jp 0x0B),
    ([0x7B, 0x0C], .jnp 0x0C), ([0x7C, 0x0D], .jl 0x0D), ([0x7D, 0x0E], .jge 0x0E), ([0x7E, 0x0F], .jle 0x0F),
    ([0x7F, 0x10], .jg 0x10), ([0xE2, 0xFE], .loop 0xFE), ([0xE1, 0xF0], .loope 0xF0), ([0xE0, 0xF0], .loopne 0xF0),
    ([0xE3, 0x05], .jcxz 5), ([0xCD, 0x21], .intType 0x21), ([0xCC], .int3), ([0xCE], .into), ([0xCF], .iret)] = true := by decide

/-- 45_high_level_186.md, 46_processor_control.md, 30_encoding.md R64, R71. -/
theorem test_decodes_processor_control : reads [
    ([0xC8, 0x10, 0x00, 0x01], .enter 0x0010 1), ([0xC9], .leave), ([0x62, 0x06, 0x00, 0x03], .bound .ax (.direct 0x0300)),
    ([0xF8], .clc), ([0xF5], .cmc), ([0xF9], .stc), ([0xFC], .cld), ([0xFD], .std), ([0xFA], .cli), ([0xFB], .sti),
    ([0xF4], .hlt), ([0x9B], .wait), ([0xD9, 0x0E, 0x00, 0x10], .esc 9 (.direct 0x1000)), ([0xDD, 0xC9], .esc 41 (.reg .cx)),
    ([0x90], .nop), ([0x63], .unused63), ([0x64], .unused64), ([0x65], .unused65), ([0x66], .unused66), ([0x67], .unused67),
    ([0xF1], .unusedF1), ([0xFE, 0x38], .unusedFE7 (.ind .bxsi)), ([0xFF, 0xFF], .unusedFF7 (.reg .di))] = true := by decide

/-- 48_npx_8087_instructions.md R424. -/
theorem test_decodes_npx_real_arithmetic : reads [
    ([0xD8, 0x07], .faddM32 (.ind .bx)), ([0xDC, 0x07], .faddM64 (.ind .bx)), ([0xD8, 0xC1], .faddStSti 1),
    ([0xDC, 0xC1], .faddStiSt 1), ([0xDE, 0xC1], .faddpStiSt 1), ([0xD8, 0x0F], .fmulM32 (.ind .bx)),
    ([0xDC, 0x0F], .fmulM64 (.ind .bx)), ([0xD8, 0xCA], .fmulStSti 2), ([0xDC, 0xCA], .fmulStiSt 2),
    ([0xDE, 0xCA], .fmulpStiSt 2), ([0xD8, 0x17], .fcomM32 (.ind .bx)), ([0xDC, 0x17], .fcomM64 (.ind .bx)),
    ([0xD8, 0xD3], .fcomSti 3), ([0xD8, 0x1F], .fcompM32 (.ind .bx)), ([0xDC, 0x1F], .fcompM64 (.ind .bx)),
    ([0xD8, 0xDB], .fcompSti 3), ([0xDE, 0xD9], .fcompp), ([0xD8, 0x27], .fsubM32 (.ind .bx)),
    ([0xDC, 0x27], .fsubM64 (.ind .bx)), ([0xD8, 0xE4], .fsubStSti 4), ([0xDC, 0xEC], .fsubStiSt 4),
    ([0xDE, 0xEC], .fsubpStiSt 4), ([0xD8, 0x2F], .fsubrM32 (.ind .bx)), ([0xDC, 0x2F], .fsubrM64 (.ind .bx)),
    ([0xD8, 0xED], .fsubrStSti 5), ([0xDC, 0xE5], .fsubrStiSt 5), ([0xDE, 0xE5], .fsubrpStiSt 5),
    ([0xD8, 0x37], .fdivM32 (.ind .bx)), ([0xDC, 0x37], .fdivM64 (.ind .bx)), ([0xD8, 0xF6], .fdivStSti 6),
    ([0xDC, 0xFE], .fdivStiSt 6), ([0xDE, 0xFE], .fdivpStiSt 6), ([0xD8, 0x3F], .fdivrM32 (.ind .bx)),
    ([0xDC, 0x3F], .fdivrM64 (.ind .bx)), ([0xD8, 0xFF], .fdivrStSti 7), ([0xDC, 0xF7], .fdivrStiSt 7),
    ([0xDE, 0xF7], .fdivrpStiSt 7)] = true := by decide

/-- 48_npx_8087_instructions.md R424. -/
theorem test_decodes_npx_integer_arithmetic : reads [
    ([0xDA, 0x07], .fiaddI32 (.ind .bx)), ([0xDE, 0x07], .fiaddI16 (.ind .bx)), ([0xDA, 0x0F], .fimulI32 (.ind .bx)),
    ([0xDE, 0x0F], .fimulI16 (.ind .bx)), ([0xDA, 0x17], .ficomI32 (.ind .bx)), ([0xDE, 0x17], .ficomI16 (.ind .bx)),
    ([0xDA, 0x1F], .ficompI32 (.ind .bx)), ([0xDE, 0x1F], .ficompI16 (.ind .bx)), ([0xDA, 0x27], .fisubI32 (.ind .bx)),
    ([0xDE, 0x27], .fisubI16 (.ind .bx)), ([0xDA, 0x2F], .fisubrI32 (.ind .bx)), ([0xDE, 0x2F], .fisubrI16 (.ind .bx)),
    ([0xDA, 0x37], .fidivI32 (.ind .bx)), ([0xDE, 0x37], .fidivI16 (.ind .bx)), ([0xDA, 0x3F], .fidivrI32 (.ind .bx)),
    ([0xDE, 0x3F], .fidivrI16 (.ind .bx))] = true := by decide

/-- 48_npx_8087_instructions.md R424. -/
theorem test_decodes_npx_transfers : reads [
    ([0xD9, 0x07], .fldM32 (.ind .bx)), ([0xDD, 0x07], .fldM64 (.ind .bx)), ([0xDB, 0x2E, 0x00, 0x10], .fldM80 (.direct 0x1000)),
    ([0xD9, 0xC2], .fldSti 2), ([0xD9, 0x17], .fstM32 (.ind .bx)), ([0xDD, 0x17], .fstM64 (.ind .bx)), ([0xDD, 0xD2], .fstSti 2),
    ([0xD9, 0x1F], .fstpM32 (.ind .bx)), ([0xDD, 0x1F], .fstpM64 (.ind .bx)), ([0xDB, 0x3F], .fstpM80 (.ind .bx)),
    ([0xDD, 0xDA], .fstpSti 2), ([0xD9, 0xCB], .fxchSti 3), ([0xDF, 0x07], .fildI16 (.ind .bx)),
    ([0xDB, 0x07], .fildI32 (.ind .bx)), ([0xDF, 0x2F], .fildI64 (.ind .bx)), ([0xDF, 0x17], .fistI16 (.ind .bx)),
    ([0xDB, 0x17], .fistI32 (.ind .bx)), ([0xDF, 0x1F], .fistpI16 (.ind .bx)), ([0xDB, 0x1F], .fistpI32 (.ind .bx)),
    ([0xDF, 0x3F], .fistpI64 (.ind .bx)), ([0xDF, 0x27], .fbld (.ind .bx)), ([0xDF, 0x37], .fbstp (.ind .bx))] = true := by decide

/-- 48_npx_8087_instructions.md R424. -/
theorem test_decodes_npx_functions_and_control : reads [
    ([0xD9, 0xD0], .fnop), ([0xD9, 0xE0], .fchs), ([0xD9, 0xE1], .fabs), ([0xD9, 0xE4], .ftst), ([0xD9, 0xE5], .fxam),
    ([0xD9, 0xE8], .fld1), ([0xD9, 0xE9], .fldl2t), ([0xD9, 0xEA], .fldl2e), ([0xD9, 0xEB], .fldpi), ([0xD9, 0xEC], .fldlg2),
    ([0xD9, 0xED], .fldln2), ([0xD9, 0xEE], .fldz), ([0xD9, 0xF0], .f2xm1), ([0xD9, 0xF1], .fyl2x), ([0xD9, 0xF2], .fptan),
    ([0xD9, 0xF3], .fpatan), ([0xD9, 0xF4], .fxtract), ([0xD9, 0xF6], .fdecstp), ([0xD9, 0xF7], .fincstp),
    ([0xD9, 0xF8], .fprem), ([0xD9, 0xF9], .fyl2xp1), ([0xD9, 0xFA], .fsqrt), ([0xD9, 0xFC], .frndint), ([0xD9, 0xFD], .fscale),
    ([0xDB, 0xE0], .feni), ([0xDB, 0xE1], .fdisi), ([0xDB, 0xE2], .fclex), ([0xDB, 0xE3], .finit),
    ([0xD9, 0x27], .fldenv (.ind .bx)), ([0xD9, 0x2F], .fldcw (.ind .bx)), ([0xD9, 0x37], .fstenv (.ind .bx)),
    ([0xD9, 0x3F], .fstcw (.ind .bx)), ([0xDD, 0x27], .frstor (.ind .bx)), ([0xDD, 0x37], .fsave (.ind .bx)),
    ([0xDD, 0x3F], .fstsw (.ind .bx)), ([0xDD, 0xC1], .ffreeSti 1)] = true := by decide

/-- 9BH is WAIT; FWAIT is another name of it (48_npx_8087_instructions.md R423, log 61). -/
theorem test_fwait_is_wait : encode .fwait = [0x9B] ∧ canonical .fwait = .wait := by decide

/-! ## Single steps, from spec/95_test_vectors.md -/

/-- The instruction answers a next state with a property. -/
def ok (i : Instr) (s : State) (p : State → Bool) : Bool :=
  match exec i s with
  | .next t => p t
  | .fault _ => false
  | .refused _ => false

/-- The step answers a next state with a property. -/
def steps (s : State) (p : State → Bool) : Bool :=
  match step s with
  | .next t => p t
  | .fault _ => false
  | .refused _ => false

/-- The configuration of a machine with an 8086 alone. -/
def only86 : Config := { State.reset.cfg with cpu := .i8086, hasNpx := false, hasIop := false }

/-- A small state: an 80186 (or 8086) with these registers and memory bytes. -/
def cpu (g : Regs) (mem : Memory) : State := { State.reset with regs := g, mem := mem }

/-- With SP = 0100H the flag image of an interrupt goes to a device here: its unused bits are free (log 4), and a memory that holds
them cannot be evaluated. -/
def trapping (s : State) : State := { s with cfg := { s.cfg with regions := [⟨0xFE, 2, .device⟩] } }

/-- All registers 0. -/
def zeros : Regs := Regs.reset

/-- The status flags in the order of the vectors: CF PF AF ZF SF OF. -/
def six (f : Flags) : List Bool := [f.cf, f.pf, f.af, f.zf, f.sf, f.of]
/-- The same, written with digits. -/
def bits (l : List Nat) : List Bool := l.map (· == 1)

/-- An arithmetic instruction on AL, AX with a carry before gives a value and the six flags. -/
def computes (i : Instr) (ax : Word) (carry : Bool) (after : Word) (f : List Nat) : Bool :=
  ok i { cpu { zeros with ax := ax } [] with flags := { Flags.clear with cf := carry } } fun t =>
    t.get .ax == after && six t.flags == bits f

/-- V-MEM 1 to 4. -/
theorem test_addresses : (phys 0xFFFF 0x0010 = 0 ∧ phys 0xFFFF 0 = 0xFFFF0) ∧ nextByte false 0x2000 0xFFFF = 0x20000
    ∧ nextByte true 0x2000 0xFFFF = 0x30000 := by decide
/-- V-MEM 5, 7, 8, and 9 (the override latched). -/
theorem test_effective_addresses :
    let s := cpu { zeros with bx := 0xFFFF, si := 2, bp := 7 } []
    eaOff s (.disp8 .bxsi 2) = 3 ∧ eaOff s (.direct 0x1234) = 0x1234
      ∧ eaSeg { s with segs := ⟨1, 2, 3, 4⟩ } (.disp8 .bp 0) = 3 ∧ eaSeg { s with segs := ⟨1, 2, 3, 4⟩ } (.direct 0) = 4
      ∧ eaSeg { s with segs := ⟨1, 2, 3, 4⟩, ctl := { s.ctl with latches := ⟨some .es, false, none⟩ } } (.ind .bx) = 1 := by decide

/-- V-DT 1, 5, 9. -/
theorem test_mov :
    (ok (.movRmReg .toRm .byte (.reg .bx) .ax) (cpu { zeros with ax := 0x5A } []) fun t => t.get .bx == 0x5A)
      && (ok (.movRmImm (.direct 0x200) (.word 0x1234)) (cpu zeros []) fun t => t.mem == [(0x200, 0x34), (0x201, 0x12)])
      && (ok (.movRmSreg (.reg .ax) .ds) { cpu zeros [] with segs := ⟨0, 0, 0, 0x2000⟩ } fun t => t.get .ax == 0x2000) = true := by decide
/-- V-DT 8: MOV to SS holds the recognition of interrupts. -/
theorem test_mov_segment :
    (ok (.movSregRm .ss (.reg .ax)) (cpu { zeros with ax := 0x3000 } []) fun t => t.segs.ss == 0x3000 && t.ctl.intInhibit) = true := by
  decide
/-- V-DT 11, 12, 19. -/
theorem test_push :
    (ok (.pushReg .ax) (cpu { zeros with ax := 0x1234 } []) fun t =>
        t.get .sp == 0xFFFE && t.mem == [(0xFFFE, 0x34), (0xFFFF, 0x12)])
      && (ok (.pushReg .sp) (cpu { zeros with sp := 0x100 } []) fun t => t.get .sp == 0xFE && t.mem == [(0xFE, 0xFE)])
      && (ok (.pushRm (.reg .sp)) (cpu { zeros with sp := 0x100 } []) fun t => t.get .sp == 0xFE && t.mem == [(0xFF, 1)])
      && (ok (.pushImm8 0xFF) (cpu { zeros with sp := 0x100 } []) fun t => t.mem == [(0xFE, 0xFF), (0xFF, 0xFF)]) = true := by decide
/-- V-DT 13, 15; 18: 0FH on an 80186 is interrupt type 6. -/
theorem test_pop :
    (ok (.popReg .sp) (cpu { zeros with sp := 0xFE } [(0xFE, 0x34), (0xFF, 0x12)]) fun t => t.get .sp == 0x1234)
      && (ok (.popRm (.direct 0x200)) (cpu { zeros with sp := 0xFE } [(0xFE, 0xEF), (0xFF, 0xBE)]) fun t =>
        t.get .sp == 0x100 && t.mem.read 0x200 == 0xEF && t.mem.read 0x201 == 0xBE)
      && (ok (.popSreg .cs) (trapping (cpu { zeros with sp := 0x100 } [(24, 0x77)])) fun t => t.ip == 0x77 && t.get .sp == 0xFA) = true := by decide
/-- V-DT 20, 21. -/
theorem test_pusha :
    (ok .pusha (cpu ⟨1, 2, 3, 4, 0x100, 6, 7, 8⟩ []) fun t => t.get .sp == 0xF0
        && t.mem == [(0xF0, 8), (0xF2, 7), (0xF4, 6), (0xF7, 1), (0xF8, 4), (0xFA, 3), (0xFC, 2), (0xFE, 1)]) = true := by decide
theorem test_popa :
    (ok .popa (cpu { zeros with sp := 0xF0 } [(0xF0, 8), (0xF2, 7), (0xF4, 6), (0xF7, 1), (0xF8, 4), (0xFA, 3), (0xFC, 2), (0xFE, 1)])
      fun t => t.regs == ⟨1, 2, 3, 4, 0x100, 6, 7, 8⟩) = true := by decide
/-- V-DT 22, 23. -/
theorem test_xchg :
    (ok (.xchgAxReg .bx) (cpu { zeros with ax := 0x1111, bx := 0x2222 } []) fun t => t.get .ax == 0x2222 && t.get .bx == 0x1111)
      && (ok (.xchgRmReg .byte (.reg .sp) .ax) (cpu { zeros with ax := 0x1234 } []) fun t => t.get .ax == 0x3412) = true := by decide
/-- V-DT 25, 26. -/
theorem test_xlat :
    (ok .xlat (cpu { zeros with ax := 5, bx := 0x100 } [(0x105, 0x33)]) fun t => t.get .ax == 0x33)
      && (ok .xlat (cpu { zeros with ax := 2, bx := 0xFFFF } [(1, 0x44)]) fun t => t.get .ax == 0x44) = true := by decide
/-- V-DT 27 to 29. -/
theorem test_in_out :
    (ok (.inAccPort .word 0x10) { cpu zeros [] with io := ⟨[(0x10, 0x34), (0x11, 0x12)], []⟩ } fun t => t.get .ax == 0x1234)
      && (ok (.outDxAcc .byte) (cpu { zeros with ax := 0x5A, dx := 0x20 } []) fun t => t.io.trace == [.portWrite 0x20 0x5A]) = true := by
  decide
/-- V-DT 30 to 32. -/
theorem test_lea_lds :
    (ok (.lea .ax (.disp8 .bxsi 2)) (cpu { zeros with bx := 0x1000, si := 0x234 } []) fun t => t.get .ax == 0x1236)
      && (ok (.lds .bx (.direct 0x200)) (cpu zeros [(0x200, 0x65), (0x202, 0x4C), (0x203, 0x3B)]) fun t =>
        t.get .bx == 0x65 && t.segs.ds == 0x3B4C) = true := by decide
/-- V-DT 34, 36. -/
theorem test_sahf_popf :
    (ok .sahf (cpu { zeros with ax := 0xD500 } []) fun t => t.flags == ⟨true, true, true, true, true, false, false, false, false⟩)
      && (ok .popf (cpu zeros [(0, 0xFF), (1, 0xFF)]) fun t => t.flags == ⟨true, true, true, true, true, true, true, true, true⟩)
        = true := by decide

/-- V-AR, the rows of ADD and ADC. -/
theorem test_add :
    computes (.addAccImm (.byte 1)) 0xFF false 0 [1, 1, 1, 1, 0, 0] && computes (.addAccImm (.byte 0x44)) 0x3C false 0x80 [0, 0, 1, 0, 1, 1]
      && computes (.addAccImm (.word 0x8000)) 0x8000 false 0 [1, 1, 0, 1, 0, 1]
      && computes (.addAccImm (.word 0x0FCC)) 0x1234 false 0x2200 [0, 1, 1, 0, 0, 0]
      && computes (.addRmImm (.reg .ax) (.sext 0xFF)) 1 false 0 [1, 1, 1, 1, 0, 0] = true := by decide
theorem test_adc :
    computes (.adcAccImm (.byte 0)) 0x7F true 0x80 [0, 0, 1, 0, 1, 1] && computes (.adcAccImm (.byte 0xF0)) 0x0F true 0 [1, 1, 1, 1, 0, 0]
      && computes (.adcAccImm (.byte 0xFF)) 0xFF true 0xFF [1, 1, 1, 0, 1, 0] = true := by decide
/-- V-AR, the rows of SUB, SBB and CMP. -/
theorem test_sub :
    computes (.subAccImm (.byte 1)) 0 false 0xFF [1, 1, 1, 0, 1, 0] && computes (.subAccImm (.byte 0xFF)) 0x7F false 0x80 [1, 0, 0, 0, 1, 1]
      && computes (.subAccImm (.word 1)) 0x8000 false 0x7FFF [0, 1, 1, 0, 0, 1] = true := by decide
theorem test_sbb_cmp :
    computes (.sbbAccImm (.byte 0xFF)) 0 true 0 [1, 1, 1, 1, 0, 0] && computes (.sbbAccImm (.byte 0x7F)) 0x80 true 0 [0, 1, 1, 1, 0, 1]
      && computes (.cmpAccImm (.word 0x8000)) 0x7FFF false 0x7FFF [1, 1, 0, 0, 1, 1] = true := by decide
/-- V-AR 3 to 8. -/
theorem test_inc_dec_neg :
    computes (.incRm .byte (.reg .ax)) 0x7F true 0x80 [1, 0, 1, 0, 1, 1] && computes (.incReg .ax) 0xFFFF false 0 [0, 1, 1, 1, 0, 0]
      && computes (.decRm .byte (.reg .ax)) 0x80 true 0x7F [1, 0, 1, 0, 0, 1] && computes (.decReg .ax) 0 false 0xFFFF [0, 1, 1, 0, 1, 0]
      && computes (.negRm .byte (.reg .ax)) 0x80 false 0x80 [1, 0, 0, 0, 1, 1]
      && computes (.negRm .byte (.reg .ax)) 0x10 false 0xF0 [1, 1, 0, 0, 1, 0] = true := by decide

/-- AX and some flags of an instruction on AX, with AF and CF before. -/
def adjusts (i : Instr) (ax : Word) (af cf : Bool) (p : Word → Flags → Bool) : Bool :=
  ok i { cpu { zeros with ax := ax } [] with flags := { Flags.clear with af := af, cf := cf } } fun t => p (t.get .ax) t.flags

/-- V-AR 9 to 12. -/
theorem test_decimal_adjust :
    adjusts .aaa 0x000E false false (fun a f => a == 0x0104 && f.af && f.cf)
      && adjusts .aaa 0x00FA false false (fun a f => a == 0x0100 && f.af && f.cf)
      && adjusts .daa 0x9A false false (fun a f => a == 0 && f.af && f.cf && f.zf)
      && adjusts .daa 0x12 true false (fun a f => a == 0x18 && f.af && !f.cf)
      && adjusts .aas 0x01FD true false (fun a f => a == 0x0007 && f.af && f.cf)
      && adjusts .das 0xEE true true (fun a f => a == 0x88 && f.af && f.cf && f.sf) = true := by decide
/-- V-AR 19, 20, 29. -/
theorem test_convert :
    adjusts .aam 0x3F false false (fun a f => a == 0x0603 && !f.sf && !f.zf && f.pf)
      && adjusts .aad 0x0603 false false (fun a f => a == 0x3F && !f.sf && !f.zf && f.pf)
      && adjusts .cbw 0x85 false false (fun a _ => a == 0xFF85)
      && (ok .cwd (cpu { zeros with ax := 0x8000 } []) fun t => t.get .dx == 0xFFFF) = true := by decide
/-- V-AR 13 to 18. -/
theorem test_mul :
    (ok (.mulRm .byte (.reg .bx)) (cpu { zeros with ax := 0x10, bx := 0x10 } []) fun t => t.get .ax == 0x100 && t.flags.cf && t.flags.of)
      && (ok (.mulRm .word (.reg .bx)) (cpu { zeros with ax := 0xFFFF, bx := 0xFFFF } []) fun t => t.get .dx == 0xFFFE && t.get .ax == 1)
      && (ok (.imulImm16 .ax (.reg .bx) 0x4000) (cpu { zeros with bx := 4 } []) fun t => t.get .ax == 0 && t.flags.cf) = true := by decide
theorem test_imul :
    (ok (.imulRm .byte (.reg .bx)) (cpu { zeros with ax := 0x80, bx := 0xFF } []) fun t => t.get .ax == 0x80 && t.flags.cf && t.flags.of)
      && (ok (.imulRm .word (.reg .bx)) (cpu { zeros with ax := 0xFFFE, bx := 3 } []) fun t =>
        t.get .dx == 0xFFFF && t.get .ax == 0xFFFA && !t.flags.cf)
      && (ok (.imulImm8 .ax (.reg .bx) 0xFE) (cpu { zeros with bx := 3 } []) fun t => t.get .ax == 0xFFFA && !t.flags.cf) = true := by decide
/-- V-AR 21, 24; 22: the quotient 100H is interrupt type 0, with the next instruction saved. -/
theorem test_div :
    (ok (.divRm .byte (.reg .bx)) (cpu { zeros with ax := 0x64, bx := 7 } []) fun t => t.get .ax == 0x020E)
      && (ok (.divRm .word (.reg .bx)) (cpu { zeros with dx := 1, bx := 2 } []) fun t => t.get .ax == 0x8000 && t.get .dx == 0)
      && (ok (.divRm .byte (.reg .bx)) { trapping (cpu { zeros with ax := 0x200, bx := 2, sp := 0x100 } [(1, 0x30)]) with ip := 0x55 } fun t =>
        t.ip == 0x3000 && t.mem.read 0xFA == 0x55) = true := by decide
/-- V-AR 25, 26 (80186 and 8086), 27. -/
theorem test_idiv :
    (ok (.idivRm .byte (.reg .bx)) (cpu { zeros with ax := 0xFFF9, bx := 2 } []) fun t => t.get .ax == 0xFFFD)
      && (ok (.idivRm .byte (.reg .bx)) (cpu { zeros with ax := 0xFF80, bx := 1 } []) fun t => t.get .ax == 0x80)
      && (ok (.idivRm .byte (.reg .bx)) { cpu { zeros with ax := 0xFF80, bx := 1 } [] with cfg := only86 } fun t => t.get .sp == 0xFFFA)
        = true := by decide

/-- V-BIT 1 to 6. -/
theorem test_logic :
    adjusts (.andAccImm (.byte 0x0F)) 0x35 false true (fun a f => a == 5 && !f.cf && !f.of && f.pf && !f.zf && !f.sf)
      && adjusts (.orAccImm (.byte 0x80)) 1 false true (fun a f => a == 0x81 && !f.cf && f.pf && f.sf)
      && adjusts (.xorRmReg .toReg .byte (.reg .ax) .ax) 0xFF false true (fun a f => a == 0 && !f.cf && f.zf && f.pf)
      && adjusts (.notRm .byte (.reg .ax)) 0x55 true true (fun a f => a == 0xAA && f.cf && f.af)
      && adjusts (.testAccImm (.byte 1)) 0xFE false true (fun a f => a == 0xFE && f.zf && !f.cf) = true := by decide
/-- V-BIT 7 to 10: CL = 33 shifts by 33 on the 8086, by 1 on the 80186. -/
theorem test_shl_shr :
    adjusts (.shlRm .one .byte (.reg .ax)) 0x40 false false (fun a f => a == 0x80 && !f.cf && f.of)
      && (ok (.shlRm .cl .byte (.reg .ax)) (cpu { zeros with ax := 0x81, cx := 8 } []) fun t => t.get .ax == 0 && t.flags.cf)
      && (ok (.shrRm .cl .word (.reg .ax)) (cpu { zeros with ax := 2, cx := 33 } []) fun t => t.get .ax == 1)
      && (ok (.shrRm .cl .word (.reg .ax)) { cpu { zeros with ax := 2, cx := 33 } [] with cfg := only86 } fun t => t.get .ax == 0)
      && adjusts (.shlRmImm .word (.reg .ax) 0x24) 0x0123 false true (fun a f => a == 0x1230 && !f.cf) = true := by decide
/-- V-BIT 12, 13. -/
theorem test_sar :
    adjusts (.sarRm .one .byte (.reg .ax)) 0xFB false false (fun a f => a == 0xFD && f.cf && !f.of)
      && (ok (.sarRm .cl .byte (.reg .ax)) (cpu { zeros with ax := 0x80, cx := 7 } []) fun t => t.get .ax == 0xFF && !t.flags.cf)
      && (ok (.sarRm .cl .byte (.reg .ax)) (cpu { zeros with ax := 0x80, cx := 8 } []) fun t => t.get .ax == 0xFF && t.flags.cf) = true := by
  decide
/-- V-BIT 14 to 21. -/
theorem test_rotate :
    adjusts (.rolRm .one .byte (.reg .ax)) 0x81 false false (fun a f => a == 3 && f.cf && f.of)
      && (ok (.rolRm .cl .byte (.reg .ax)) (cpu { zeros with ax := 0x81, cx := 8 } []) fun t => t.get .ax == 0x81 && t.flags.cf)
      && adjusts (.rorRm .one .byte (.reg .ax)) 1 false false (fun a f => a == 0x80 && f.cf && f.of)
      && adjusts (.rorRmImm .word (.reg .ax) 4) 0x1234 false false (fun a f => a == 0x4123 && !f.cf) = true := by decide
theorem test_rotate_through_carry :
    adjusts (.rclRm .one .byte (.reg .ax)) 0x80 false false (fun a f => a == 0 && f.cf && f.of)
      && (ok (.rclRm .cl .byte (.reg .ax)) (cpu { zeros with ax := 0x80, cx := 9 } []) fun t => t.get .ax == 0x80 && !t.flags.cf)
      && adjusts (.rcrRm .one .byte (.reg .ax)) 1 false true (fun a f => a == 0x80 && f.cf)
      && (ok (.rcrRm .cl .word (.reg .ax)) (cpu { zeros with ax := 1, cx := 17 } []) fun t => t.get .ax == 1 && !t.flags.cf) = true := by
  decide

/-- A latched repeat prefix. -/
def repeated (z : Bool) (s : State) : State := { s with ctl := { s.ctl with latches := ⟨none, false, some z⟩, opIp := 0x101, firstIp := 0x100 } }

/-- V-STR 1, 5. -/
theorem test_movs_cmps :
    (ok (.movs .byte) (cpu { zeros with si := 0x10, di := 0x20 } [(0x10, 0x41)]) fun t =>
        t.mem.read 0x20 == 0x41 && t.get .si == 0x11 && t.get .di == 0x21)
      && (ok (.cmps .byte) (cpu { zeros with si := 1, di := 2 } [(1, 1), (2, 2)]) fun t =>
        six t.flags == bits [1, 1, 1, 0, 1, 0] && t.get .si == 2 && t.get .di == 3) = true := by decide
/-- V-STR 7, its third pass: the scan ends with ZF = 1; 3: CX = 0 does nothing. -/
theorem test_repne_scas :
    (ok (.scas .byte) (repeated false (cpu { zeros with cx := 8, di := 2 } [(0, 0x41), (1, 0x42), (3, 0x43)])) fun t =>
        t.get .cx == 7 && t.get .di == 3 && t.flags.zf && t.ctl.phase == .fresh)
      && (ok (.movs .byte) (repeated true (cpu zeros [])) fun t => t == repeated true (cpu zeros [])) = true := by decide
/-- V-STR 2, its first pass: the instruction comes again. -/
theorem test_rep_movs :
    (ok (.movs .word) { repeated true (cpu { zeros with cx := 3, si := 6, di := 0x106 } [(6, 0x34), (7, 0x12)]) with
        flags := { Flags.clear with df := true } } fun t =>
      t.get .cx == 2 && t.get .si == 4 && t.get .di == 0x104 && t.mem.read 0x107 == 0x12 && t.ip == 0x101 && t.ctl.phase == .repeating)
        = true := by decide
/-- V-STR 9, 10. -/
theorem test_lods :
    (ok (.lods .word) (cpu { zeros with si := 0xFFFE } [(0xFFFF, 0x12)]) fun t => t.get .ax == 0x1200 && t.get .si == 0)
      && (ok (.lods .byte) { cpu zeros [(0, 9)] with flags := { Flags.clear with df := true } } fun t => t.get .ax == 9 && t.get .si == 0xFFFF)
        = true := by decide
/-- V-STR 13, 14 (one element of it), 11 (one element of it). -/
theorem test_ins_outs_stos :
    (ok (.ins .byte) { cpu { zeros with dx := 0x300, di := 0x10 } [] with io := ⟨[(0x300, 0x5A)], []⟩ } fun t =>
        t.mem.read 0x10 == 0x5A && t.get .di == 0x11 && t.get .dx == 0x300)
      && (ok (.outs .word) (cpu { zeros with dx := 0x300 } [(0, 1), (1, 2)]) fun t =>
        t.io.trace == [.portWrite 0x301 2, .portWrite 0x300 1] && t.get .si == 2)
      && (ok (.stos .word) (cpu { zeros with ax := 0x2020, di := 0xFFFE } []) fun t => t.mem == [(0xFFFE, 0x20), (0xFFFF, 0x20)]
        && t.get .di == 0) = true := by decide

/-- V-CT 1, 4. -/
theorem test_call :
    (ok (.callNear 0x00FD) { cpu { zeros with sp := 0x100 } [] with ip := 0x103 } fun t =>
        t.ip == 0x200 && t.get .sp == 0xFE && t.mem == [(0xFE, 3), (0xFF, 1)])
      && (ok (.callFar 0x200 0x3000) { cpu { zeros with sp := 0x100 } [] with ip := 0x105, segs := ⟨0, 0x1000, 0, 0⟩ } fun t =>
        t.ip == 0x200 && t.segs.cs == 0x3000 && t.mem == [(0xFC, 5), (0xFD, 1), (0xFF, 0x10)]) = true := by decide
/-- V-CT 5, 12, 14. -/
theorem test_indirect_transfers :
    (ok (.callFarRm (.direct 0x500)) { cpu { zeros with sp := 0x100 } [(0x501, 2), (0x503, 0x30)] with ip := 0x104 } fun t =>
        t.ip == 0x200 && t.segs.cs == 0x3000 && t.get .sp == 0xFC && t.mem.read 0xFC == 4)
      && (ok (.jmpNearRm (.reg .cx)) (cpu { zeros with cx := 0x1234 } []) fun t => t.ip == 0x1234)
      && (ok (.jmpFarRm (.ind .si)) (cpu zeros [(0, 0x65), (2, 0x4C), (3, 0x3B)]) fun t => t.ip == 0x65 && t.segs.cs == 0x3B4C) = true := by
  decide
/-- V-CT 7, 9. -/
theorem test_ret :
    (ok (.retNearImm 4) (cpu { zeros with sp := 0xFE } [(0xFE, 3), (0xFF, 1)]) fun t => t.ip == 0x103 && t.get .sp == 0x104)
      && (ok (.retFarImm 2) (cpu { zeros with sp := 0xFC } [(0xFC, 5), (0xFD, 1), (0xFF, 0x10)]) fun t =>
        t.ip == 0x105 && t.segs.cs == 0x1000 && t.get .sp == 0x102) = true := by decide
/-- V-CT 10, 11, 16 to 19. -/
theorem test_jumps :
    (ok (.jmpNear 0xFFFD) { cpu zeros [] with ip := 0x103 } fun t => t.ip == 0x100)
      && (ok (.jmpShort 0x80) { cpu zeros [] with ip := 0x102 } fun t => t.ip == 0x82)
      && (ok (.loop 0xFE) { cpu zeros [] with ip := 0x102 } fun t => t.ip == 0x100 && t.get .cx == 0xFFFF)
      && (ok (.loope 0xF0) { cpu { zeros with cx := 5 } [] with ip := 0x102 } fun t => t.ip == 0x102 && t.get .cx == 4)
      && (ok (.loopne 0xF0) { cpu { zeros with cx := 1 } [] with ip := 0x102 } fun t => t.ip == 0x102 && t.get .cx == 0)
      && (ok (.jcxz 5) { cpu zeros [] with ip := 0x102 } fun t => t.ip == 0x107) = true := by decide

/-- Taken jumps after a comparison: JB JBE JA JAE JE JL JLE JG JGE JS JO. -/
def taken (cf zf sf of : Nat) : List Bool :=
  [Instr.jb 1, .jbe 1, .ja 1, .jae 1, .je 1, .jl 1, .jle 1, .jg 1, .jge 1, .js 1, .jo 1].map fun i =>
    ok i { cpu zeros [] with flags := { Flags.clear with cf := cf == 1, zf := zf == 1, sf := sf == 1, of := of == 1 } } fun t => t.ip == 1

/-- V-CT, the table of conditional jumps after CMP. -/
theorem test_conditions :
    taken 1 0 1 1 = bits [1, 1, 0, 0, 0, 0, 0, 1, 1, 1, 1] ∧ taken 0 0 0 1 = bits [0, 0, 1, 1, 0, 1, 1, 0, 0, 0, 1]
      ∧ taken 0 1 0 0 = bits [0, 1, 0, 1, 1, 0, 1, 0, 1, 0, 0] ∧ taken 1 0 1 0 = bits [1, 1, 0, 0, 0, 1, 1, 0, 0, 1, 0]
      ∧ taken 0 0 0 0 = bits [0, 0, 1, 1, 0, 0, 0, 1, 1, 0, 0] ∧ taken 0 0 1 0 = bits [0, 0, 1, 1, 0, 1, 1, 0, 0, 1, 0] := by decide

/-- V-CT 20 (the flag image's unused bits apart), 22. -/
theorem test_int :
    (ok (.intType 0x43) { trapping (cpu { zeros with sp := 0x100 } [(0x10C, 0x20), (0x10F, 8)]) with
        ip := 0x102, segs := ⟨0, 0x1000, 0, 0⟩, flags := { Flags.clear with zf := true, pf := true, ie := true, tf := true } } fun t =>
      t.ip == 0x20 && t.segs.cs == 0x800 && t.get .sp == 0xFA && t.mem.number [0xFC, 0xFD] == 0x1000 && t.mem.number [0xFA, 0xFB] == 0x102
        && !t.flags.ie && !t.flags.tf && t.flags.zf && t.flags.pf)
      && (ok .into (cpu zeros []) fun t => t == cpu zeros []) = true := by decide
/-- V-CT 23. -/
theorem test_iret :
    (ok .iret (cpu { zeros with sp := 0xFA } [(0xFA, 2), (0xFB, 1), (0xFD, 0x10), (0xFE, 0x46), (0xFF, 0xF2)]) fun t =>
      t.ip == 0x102 && t.segs.cs == 0x1000 && t.get .sp == 0x100 && t.flags.ie && t.flags.zf && t.flags.pf && !t.flags.tf
        && t.ctl.intrDelay) = true := by decide

/-- V-186 1, 3. -/
theorem test_enter :
    (ok (.enter 4 0) (cpu { zeros with sp := 0x100, bp := 0xAAAA } []) fun t =>
        t.get .bp == 0xFE && t.get .sp == 0xFA && t.mem == [(0xFE, 0xAA), (0xFF, 0xAA)])
      && (ok (.enter 28 3) (cpu { zeros with sp := 0x1000, bp := 0x2000 } [(0x1FFC, 0xB2), (0x1FFD, 0xB2), (0x1FFE, 0xA1), (0x1FFF, 0xA1)])
        fun t => t.get .bp == 0xFFE && t.get .sp == 0xFDC && t.mem.number [0xFFE, 0xFFF] == 0x2000 && t.mem.number [0xFFC, 0xFFD] == 0xA1A1
          && t.mem.number [0xFFA, 0xFFB] == 0xB2B2 && t.mem.number [0xFF8, 0xFF9] == 0xFFE) = true := by decide
/-- V-186 4 to 6. -/
theorem test_leave_bound :
    (ok .leave (cpu { zeros with bp := 0xFFE } [(0xFFF, 0x20)]) fun t => t.get .sp == 0x1000 && t.get .bp == 0x2000)
      && (ok (.bound .ax (.direct 0x300)) (cpu { zeros with ax := 0x63 } [(0x302, 0x63)]) fun t => t.get .sp == 0)
      && (ok (.bound .ax (.direct 0x300)) { trapping (cpu { zeros with ax := 0x64, sp := 0x100 } [(0x14, 0x99), (0x302, 0x63)]) with ip := 4 } fun t =>
        t.ip == 0x99 && t.mem.read 0xFA == 4) = true := by decide

/-- V-PC 1 to 4, 7 (the WAIT stays), 10. -/
theorem test_processor_control :
    adjusts .cmc 0 false true (fun _ f => !f.cf) && (ok .std (cpu zeros []) fun t => t.flags.df)
      && (ok .sti (cpu zeros []) fun t => t.flags.ie && t.ctl.intrDelay) && (ok .hlt (cpu zeros []) fun t => t.ctl.phase == .halted)
      && (ok .wait { cpu zeros [] with cfg := only86, ip := 6, ctl := { Control.reset with opIp := 5 } } fun t =>
        t.ip == 5 && t.ctl.phase == .waiting)
      && (ok (.faddStSti 1) { trapping (cpu { zeros with sp := 0x100 } [(0x1C, 7)]) with
          pcb := { Pcb.reset with reloc := 0xA0FF }, ctl := { Control.reset with opIp := 0x44 } } fun t =>
        t.ip == 7 && t.mem.read 0xFA == 0x44) = true := by decide
/-- V-INT 8: with INTR active STI, then NOP: recognized after the NOP only. -/
theorem test_sti_delay :
    let s : State := { State.reset.withFetchWord 8 0xFB with cfg := only86, pins := ⟨true, true, 0x20, 0, 0⟩ }
    (steps s fun t => t.flags.ie && t.get .sp == 0 && (steps (t.withFetchWord 8 0x90) fun u => u.get .sp == 0xFFFA && !u.flags.ie)) = true := by
  decide
/-- V-INT 3 and 6: NMI before INTR; a trap after the instruction that follows POPF. -/
theorem test_recognition :
    let s : State := { State.reset.withFetchWord 8 0x90 with
      cfg := { only86 with regions := [⟨0xFE, 2, .device⟩] }, regs := { zeros with sp := 0x100 }, pins := ⟨true, true, 0x20, 0, 0⟩, flags := { Flags.clear with ie := true }, ctl := { Control.reset with nmiPending := true } }
    ((steps { s with mem := s.mem.write 8 0x77 } fun t => t.ip == 0x77 && !t.flags.ie && !t.ctl.nmiPending)
      && (steps { (State.reset.withFetchWord 8 0x90) with flags := { Flags.clear with tf := true } } fun t => t.get .sp == 0xFFFA && !t.flags.tf))
        = true := by decide
/-! ### 8087: V-NPX -/

/-- An 8087 that holds these numbers, ST first, after FNINIT. -/
def npx (l : List TempReal) : Npx := l.reverse.foldl (fun n v => n.pushRaw v) Npx.reset
/-- A machine with it. -/
def npxState (l : List TempReal) (mem : Memory) : State := { State.reset with npx := npx l, mem := mem }

def one : TempReal := 0x3FFF8000000000000000
def two : TempReal := 0x40008000000000000000
def three : TempReal := 0x4000C000000000000000
def four : TempReal := 0x40018000000000000000
/-- -0.0 -/
def minusZero : TempReal := 0x80000000000000000000
/-- -126.0 -/
def minus126 : TempReal := 0xC005FC00000000000000
/-- 155.625 -/
def value155 : TempReal := 0x40069BA0000000000000

/-- The free values of one operation; the vectors' results do not depend on them. -/
def anyFree : NpxFree := ⟨0, 0, 0, 0, 0⟩

/-- ST after an operation on an 8087 with these numbers and this control word, and the exceptions it raises. -/
def gives (op : NpxOp) (cw : Word) (l : List TempReal) (v : TempReal) (e : BitVec 6) : Bool :=
  let p := Npx.numeric op 0 anyFree { npx l with cw := cw }
  p.1.st 0 == v && p.2 == e

/-- The condition code C3 C2 C1 C0 after an operation, as bits 14, 10, 9, 8 of SW under a mask. -/
def conditions (op : NpxOp) (l : List TempReal) (mask : Word) : Word := (Npx.numeric op 0 anyFree (npx l)).1.sw &&& mask

/-- 2, 3, 4: the register, the tags and the top are those of the vectors; a ninth push is invalid. -/
theorem test_npx_push :
    (ok .fld1 State.reset fun t => t.npx.reg 7 == one && t.npx.tw == 0x3FFF) = true
      ∧ (ok .fldz (npxState [one] []) fun t => t.npx.reg 6 == 0 && t.npx.tw == 0x1FFF) = true
      ∧ (npx [one]).top = 7 ∧ gives (.const .one) 0x03FF [one, one, one, one, one, one, one, one] 0xFFFFC000000000000000 1 = true := by decide
/-- 6, 7. -/
theorem test_npx_add :
    gives (.arithSt .add 1) 0x03FF [one, two] three 0 = true
      ∧ (ok (.faddpStiSt 1) (npxState [one, one] []) fun t => t.npx.reg 7 == two && t.npx.tag 6 == 3) = true := by decide
/-- 8, 9, 10. -/
theorem test_npx_div :
    gives (.arithSt .div 1) 0x03FF [one, three] 0x3FFDAAAAAAAAAAAAAAAB 0x20 = true
      ∧ gives (.arithSt .div 1) 0x03FF [one, 0] 0x7FFF8000000000000000 4 = true ∧ gives (.arithSt .div 1) 0x03FB [one, 0] one 4 = true := by
  decide
/-- 11. -/
theorem test_npx_sqrt : gives .sqrt 0x03FF [four] two 0 = true := by decide +kernel
theorem test_npx_sqrt_signs :
    gives .sqrt 0x03FF [minusZero] minusZero 0 = true
      ∧ gives .sqrt 0x03FF [0xBFFF8000000000000000] 0xFFFFC000000000000000 1 = true := by decide
/-- 12. -/
theorem test_npx_rndint :
    gives .rndint 0x03FF [value155] 0x40069C00000000000000 0x20 = true
      ∧ gives .rndint 0x0FFF [value155] 0x40069B00000000000000 0x20 = true := by decide
/-- 13, 14, 15. -/
theorem test_npx_fist :
    (ok (.fistI16 (.direct 0x200)) (npxState [value155] []) fun t => t.mem == [(0x200, 0x9C)]) = true
      ∧ (ok (.fistI16 (.direct 0x200)) (npxState [0x400E8000000000000000] []) fun t => t.mem == [(0x201, 0x80)]) = true
      ∧ (ok (.fistI16 (.direct 0x200)) (npxState [0x4000A000000000000000] []) fun t => t.mem == [(0x200, 2)]) = true
      ∧ (ok (.fistpI16 (.direct 0x200)) (npxState [minus126] []) fun t => t.mem == [(0x200, 0x82), (0x201, 0xFF)] && t.npx.tag 7 == 3)
        = true := by decide
/-- 16, 17. -/
theorem test_npx_load :
    (ok (.fildI16 (.direct 0x200)) (npxState [] [(0x200, 0x82), (0x201, 0xFF)]) fun t => t.npx.reg 7 == minus126) = true
      ∧ (ok (.fldM32 (.direct 0x200)) (npxState [] [(0x201, 0x20), (0x202, 0x32), (0x203, 0x43)]) fun t =>
        t.npx.reg 7 == 0x4006B220000000000000) = true := by decide
/-- 18, 19. -/
theorem test_npx_store :
    (ok (.fstpM64 (.direct 0x200)) (npxState [minus126] []) fun t => t.mem == [(0x205, 0x80), (0x206, 0x5F), (0x207, 0xC0)]) = true
      ∧ (ok (.fbstp (.direct 0x200)) (npxState [minus126] []) fun t => t.mem == [(0x200, 0x26), (0x201, 1), (0x209, 0x80)]) = true := by decide
/-- 20; R339: a masked overflow raises O and P; 21, 22 (its quotient bits C0 = 0, C3 = 1, C1 = 1, and C2 = 0). -/
theorem test_npx_scale_xtract_prem :
    gives .scale 0x03FF [three, four] 0x4004C000000000000000 0 = true
      ∧ gives .scale 0x03FF [0x7FFEFFFFFFFFFFFFFFFF, one] 0x7FFF8000000000000000 0x28 = true
      ∧ gives .xtract 0x03FF [0x4003A000000000000000] 0x3FFFA000000000000000 0 = true
      ∧ (ok .fxtract (npxState [0x4003A000000000000000] []) fun t => t.npx.reg 7 == four) = true
      ∧ gives .prem 0x03FF [0x4001E000000000000000, two] one 0 = true
      ∧ conditions .prem [0x4001E000000000000000, two] 0x4700 = 0x4200 := by decide
/-- 23, 24, 25. -/
theorem test_npx_compare :
    conditions (.compareSt 1 0) [one, two] 0x4500 = 0x0100 ∧ conditions (.compareSt 1 0) [one, one] 0x4500 = 0x4000
      ∧ conditions (.compareSt 1 0) [two, one] 0x4500 = 0 ∧ conditions .test [minusZero] 0x4500 = 0x4000
      ∧ conditions .examine [minusZero] 0x4700 = 0x4200 ∧ conditions .examine [one] 0x4700 = 0x0400
      ∧ conditions .examine [0xFFFF8000000000000000] 0x4700 = 0x0700 := by decide
/-- 1, 27. -/
theorem test_npx_words :
    (ok .finit (npxState [one] []) fun t => t.npx.cw == 0x03FF && t.npx.tw == 0xFFFF) = true
      ∧ loadedCw 0x03FF 0x033E &&& 0x1FBF = 0x033E := by decide
/-- 26, 31, 32. -/
theorem test_npx_signs_and_stack :
    gives .chs 0x03FF [0] minusZero 0 = true ∧ gives .abs 0x03FF [0xFFFF8000000000000000] 0x7FFF8000000000000000 0 = true
      ∧ (Npx.numeric .incstp 0 anyFree (npx [one])).1.top = 0 ∧ (Npx.numeric .decstp 0 anyFree Npx.reset).1.top = 7
      ∧ (Npx.numeric (.free 1) 0 anyFree (npx [one, one])).1.tag 7 = 3 := by decide

/-! ### 8089: V-IOP -/

/-- 1, 3. -/
theorem test_iop_loads :
    iopDecode [0x51, 0x30, 0x00, 0xFF] = some (.movImm .word .gc 0xFF00)
      ∧ (iopExec false (.movImm .word .gc 0xFF00) State.reset).iop.ch1.gc = ⟨0xFFF00, true⟩
      ∧ (iopExec false (.lpd .ga ⟨.pp, .offset 4⟩) (cpu zeros [(4, 0x10), (6, 0x34), (7, 0x12)])).iop.ch1.ga = ⟨0x12350, false⟩ := by decide
/-- 4, 6, and the taken jump of 15. -/
theorem test_iop_pointers_and_jump :
    let s : State := State.reset.setChan false { IopChan.reset with ga := ⟨0x12350, false⟩, gc := ⟨0x100, false⟩, tp := ⟨0x3C, false⟩, ix := 9 }
    (iopExec false (.movpStore ⟨.gc, .based⟩ .ga) s).mem = [(0x100, 0x50), (0x101, 0x23), (0x102, 0x10)]
      ∧ (iopExec false (.movpLoad .gb ⟨.gc, .based⟩) { s with mem := [(0x100, 0x50), (0x101, 0x23), (0x102, 0x18)] }).iop.ch1.gb = ⟨0x12350, true⟩
      ∧ iopDecode [0xA8, 0x40, 0xD0] = some (.jumpReg false .ix 0xFFD0)
      ∧ (iopExec false (.jumpReg false .ix 0xFFD0) s).iop.ch1.tp.addr = 0x0C := by decide

/-! ### 80186 peripherals: V-PER -/

/-- 2: the control block moves to memory 10000H; 6: MMCS reads back 19F8H. -/
theorem test_control_block :
    (ok (.outDxAcc .word) (cpu { zeros with dx := 0xFFFE, ax := 0x1100 } []) fun t => t.pcbMem 0x100FE && !t.pcbIo 0xFFFE)
      && (ok (.outDxAcc .word) (cpu { zeros with dx := 0xFFA6, ax := 0x1800 } []) fun t =>
        ok (.inAccDx .word) t fun u => u.get .ax == 0x19F8) = true := by decide
/-- R540: with EX = 0 PCS5 carries A1 only after PACS and MPCS were accessed. -/
theorem test_latched_address :
    ChipSelects.reset.latchedAddress 5 2 = none
      ∧ ({ ChipSelects.reset with pacsUsed := true, mpcsUsed := true } : ChipSelects).latchedAddress 5 2 = some true := by decide
/-- 14: ALT = 1, CONT = 0, A = 3, B = 2 stops after five events. -/
theorem test_timer :
    let e (t : Timer) : Timer := t.event.1
    let t0 : Timer := { Timer.reset with maxA := 3, maxB := 2, mode := 0x8002 }
    (e (e (e t0))).mode = 0x9022 ∧ (e (e (e t0))).count = 0 ∧ (e (e (e (e (e t0))))).mode = 0x0022 := by decide
/-- 10: a word transfer from 1FFFEH moves the source pointer to 20000H. -/
theorem test_dma :
    let c : DmaChan := { DmaChan.reset with src := 0x1FFFE, dst := 0x300, count := 5, ctl := 0xB607 }
    let s : State := { State.reset with mem := [(0x1FFFE, 0xAB)], moves := [.dma false], pcb := { Pcb.reset with dma0 := c } }
    (steps s fun t => t.pcb.dma0.src == 0x20000 && t.pcb.dma0.dst == 0x302 && t.pcb.dma0.count == 4 && t.mem.read 0x300 == 0xAB) = true := by
  decide
/-- 18: of two requests of one priority DMA 0 is served before INT1; 21: the poll register answers INT1's type. -/
theorem test_interrupt_controller :
    let ic : Ic := { Ic.reset with dma0 := 3, int1 := 3, reqDma := 1, edge := 2, pin := 2 }
    ic.best false = some .dma0 ∧ ic.masterType .int1 = 13 ∧ ({ ic with reqDma := 0 } : Ic).best false = some .int1 := by decide

/-! ## For each statement with hypotheses, a state and operands that meet them; for its clauses, values at the ends of their ranges -/

/-- The hypotheses `State.Ordinary` holds of the small states of this file. -/
theorem ordinary_of (s : State) (h : (s.cfg.regions.isEmpty && (!s.is186 || !s.pcb.inMemory) && (!s.cfg.hasIop || !s.cfg.iop.caMemory)
    && s.npx.running.isNone && s.turns.isEmpty && s.mem.wf) = true) : s.Ordinary := by
  simp only [Bool.and_eq_true, List.isEmpty_iff, Option.isNone_iff_eq_none, Bool.or_eq_true, Bool.not_eq_true'] at h
  obtain ⟨⟨⟨⟨⟨h1, h2⟩, h3⟩, h4⟩, ht⟩, h5⟩ := h
  refine ⟨⟨h1, fun e => ?_, fun e => ?_, h4, ht⟩, h5⟩
  · rcases h2 with h2 | h2
    · rw [e] at h2; cases h2
    · exact h2
  · rcases h3 with h3 | h3
    · rw [e] at h3; cases h3
    · exact h3

theorem witness_DecodeInvertsEncode :
    Instr.wellFormed (.andRmImm (.disp8 .si 5) (.byte 0x0F)) = true ∧ Instr.wellFormed (.esc 63 (.reg .di)) = true := by decide
theorem witness_EncodeInvertsDecode :
    decode [0x80, 0x64, 0x05, 0x0F] = .ok (.andRmImm (.disp8 .si 5) (.byte 0x0F), 4) ∧ decode [0x90] = .ok (.nop, 1)
      ∧ decode [0xC7, 0x06, 1, 2, 3, 4] = .ok (.movRmImm (.direct 0x0201) (.word 0x0403), 6) := ⟨rfl, rfl, rfl⟩

/-- The six bytes wrap from offset FFFFH to offset 0. -/
theorem witness_StepRunsDecoded_fetch : ({ cpu zeros [(0, 2), (0xFFFF, 1)] with ip := 0xFFFF, segs := ⟨0, 0, 0, 0⟩ } : State).PlainMemory :=
  (ordinary_of _ (by decide)).1
/-- A machine with nothing but an instruction at CS:IP; and the same with a repeat prefix latched, under LOCK. -/
theorem witness_StepRunsDecoded :
    let s := State.reset.withFetchWord 8 0x40
    s.moves = [] ∧ s.iopHolds = false ∧ s.dmaFirst = none ∧ s.ctl.phase = .fresh ∧ decode s.code = .ok (.incReg .ax, 1)
      ∧ (s.enter 1).ctl.latches.rep = none := ⟨rfl, by decide, by decide, by decide, rfl, by decide⟩
theorem witness_StepRunsDecoded_after_rep :
    let u := State.reset.withFetchWord 8 0xA4
    let s : State := { u with ctl := { u.ctl with phase := .prefixed, latches := ⟨none, true, some true⟩ }, regs := { zeros with cx := 1 } }
    s.moves = [] ∧ s.iopHolds = false ∧ s.ctl.latches.lock = true ∧ s.ctl.phase ≠ .halted ∧ s.ctl.phase ≠ .fresh
      ∧ decode s.code = .ok (.movs .byte, 1) ∧ (s.enter 1).ctl.latches.rep ≠ none ∧ repeatable (.movs .byte) = true
      ∧ isString (.movs .byte) = true ∧ s.get .cx ≠ 0 :=
  ⟨rfl, by decide, by decide, by decide, by decide, rfl, by decide, by decide, by decide, by decide⟩
/-- R44, D6: a repetition goes on with the opcode byte read at its start, whatever memory then holds (here 90H). -/
theorem test_repeat_is_decoded_once :
    let u := State.reset.withFetchWord 8 0x90
    let s : State := { u with
      ctl := { u.ctl with phase := .repeating, opByte := 0xAA, latches := ⟨none, false, some true⟩ }, regs := { zeros with cx := 2, di := 5, ax := 7 } }
    decode s.code = .ok (.stos .byte, 1)
      ∧ steps { s with cfg := only86 } (fun t => t.get .cx == 1 && t.get .di == 6 && t.mem.read 5 == 7) = true := ⟨rfl, by decide⟩
theorem witness_HalfRegisters : (Reg.bx ≠ .ax) ∧ (Reg8.ah ≠ .al) ∧ (zeros.set8 .al 0xFF).get8 .ah = 0 := by decide

/-- Operands in memory: in plain RAM, and a word at offset FFFFH, on both kinds of part. -/
theorem witness_OperandsInMemory :
    (cpu zeros [(0xFFFF, 1)]).Ordinary ∧ ({ cpu zeros [(0xFFFF, 1)] with cfg := only86 } : State).Ordinary
      ∧ (cpu zeros [(0x10000, 1)]).rmBytes .word (.direct 0xFFFF) = [0xFFFF, 0x10000]
      ∧ ({ cpu zeros [] with cfg := only86 } : State).rmBytes .word (.direct 0xFFFF) = [0xFFFF, 0] :=
  ⟨ordinary_of _ (by decide), ordinary_of _ (by decide), by decide, by decide⟩
theorem witness_FrameOfDestinations :
    rmDestination (.addRmReg .toRm .word (.ind .bx) .ax) = some (.word, .ind .bx)
      ∧ rmDestination (.rolRmImm .byte (.reg .cx) 1) = some (.byte, .reg .cx)
      ∧ needs186 (.rolRmImm .byte (.reg .cx) 1) = true ∧ State.reset.is186 = true
      ∧ needs186 (.addRmReg .toRm .word (.ind .bx) .ax) = false := by decide
theorem witness_FrameOfDestinations_register :
    regDestination (.lea .ax (.ind .bx)) = some (.word, .ax) ∧ Instr.wellFormed (.lea .ax (.ind .bx)) = true
      ∧ regDestination (.imulImm8 .cx (.reg .ax) 1) = some (.word, .cx) ∧ Instr.wellFormed (.imulImm8 .cx (.reg .ax) 1) = true
      ∧ needs186 (.imulImm8 .cx (.reg .ax) 1) = true ∧ State.reset.is186 = true := by decide
theorem witness_FrameOfDestinations_flags : writesFlagsOnly (.cmpAccImm (.byte 1)) = true ∧ writesFlagsOnly .cmc = true := by decide

/-! ### Data transfer -/

/-- Every statement of data transfer holds of ordinary states of both parts; memory operands exist. -/
theorem witness_Ordinary : (cpu ⟨1, 2, 3, 4, 0x100, 6, 7, 8⟩ [(0xFE, 0xEF)]).Ordinary ∧ State.reset.Ordinary
    ∧ ({ cpu zeros [] with cfg := only86 } : State).Ordinary :=
  ⟨ordinary_of _ (by decide), ordinary_of _ (by decide), ordinary_of _ (by decide)⟩
theorem witness_MovMovesTheValue : State.reset.Ordinary ∧ SReg.ss ≠ .cs := ⟨ordinary_of _ (by decide), by decide⟩
theorem witness_PushStoresAtTheNewTop : State.reset.Ordinary ∧ State.reset.is186 = true ∧ (Rm.direct 0x300).wellFormedMem = true :=
  ⟨ordinary_of _ (by decide), by decide⟩
/-- POP to a segment register that is not CS, CS on an 8086, CS on an 80186. -/
theorem witness_PopLoadsTheTop : State.reset.Ordinary ∧ (Rm.disp8 .bp 0).wellFormedMem = true ∧ State.reset.is186 = true
    ∧ ¬(SReg.ds = .cs ∧ State.reset.is186 = true)
    ∧ ¬(SReg.cs = .cs ∧ ({ cpu zeros [] with cfg := only86 } : State).is186 = true)
    ∧ ({ cpu zeros [] with cfg := only86 } : State).Ordinary :=
  ⟨ordinary_of _ (by decide), by decide, by decide, by decide, by decide, ordinary_of _ (by decide)⟩
theorem witness_PushaAndPopa : (cpu ⟨1, 2, 3, 4, 0xF, 6, 7, 8⟩ []).Ordinary ∧ (cpu ⟨1, 2, 3, 4, 0xF, 6, 7, 8⟩ []).is186 = true :=
  ⟨ordinary_of _ (by decide), by decide⟩
theorem witness_ExchangeTranslateAndAddress : (cpu ⟨1, 2, 3, 4, 5, 6, 7, 8⟩ [(0xB, 1)]).Ordinary ∧ (Rm.ind .bxsi).wellFormedMem = true :=
  ⟨ordinary_of _ (by decide), by decide⟩
/-- A byte and a word at fixed ports and through DX; on an 8086 the word at port FFFFH, whose high byte is port 0. -/
theorem witness_InputAndOutput :
    let io : IoSpace := ⟨[(0, 4), (0x10, 1), (0x11, 2), (0xFFFF, 3)], []⟩
    let s : State := { cpu { zeros with dx := 0x10 } [] with io := io }
    let t : State := { cpu { zeros with dx := 0xFFFF } [] with io := io, cfg := only86 }
    s.turns = [] ∧ t.turns = [] ∧ s.pcbIo 0x10 = false ∧ s.pcbIo 0x11 = false ∧ s.caHit false 0x10 = false ∧ s.caHit false 0x11 = false
      ∧ presented s.io.inputs 0x10 = some 1 ∧ presented s.io.inputs 0x11 = some 2 ∧ (0x10 : Byte).setWidth 16 = (0x10 : Word)
      ∧ s.get .dx = 0x10 ∧ t.get .dx = 0xFFFF ∧ t.pcbIo 0xFFFF = false ∧ t.pcbIo (0xFFFF + 1) = false ∧ t.caHit false 0xFFFF = false
      ∧ t.caHit false ((0xFFFF : Word) + 1).toNat = false ∧ presented t.io.inputs 0xFFFF = some 3
      ∧ presented t.io.inputs ((0xFFFF : Word) + 1).toNat = some 4 := by decide

/-! ### Arithmetic, shifts, strings -/

theorem witness_MultiplicationResults : State.reset.is186 = true := by decide
/-- Quotient 255, and the signed quotients -128 (80186), -127 (8086) and 127; 65535, -32768, -32767 and 32767. -/
theorem witness_DivisionResults :
    ((1 : Byte) ≠ 0 ∧ (0x00FF : Word).toNat / (1 : Byte).toNat = 255)
      ∧ ((0xFF80 : Word).toInt.tdiv (1 : Byte).toInt = -128 ∧ (0xFF81 : Word).toInt.tdiv (1 : Byte).toInt = -127)
      ∧ ((0x007F : Word).toInt.tdiv (1 : Byte).toInt = 127 ∧ (0x007F : Word).toInt.tdiv (0xFF : Byte).toInt = -127) := by decide
theorem witness_DivisionResults_word :
    ((1 : Word) ≠ 0 ∧ (65536 * (0 : Word).toNat + (0xFFFF : Word).toNat) / (1 : Word).toNat = 65535)
      ∧ (65536 * (0xFFFF : Word).toInt + (0x8000 : Word).toNat).tdiv (1 : Word).toInt = -32768
      ∧ (65536 * (0xFFFF : Word).toInt + (0x8001 : Word).toNat).tdiv (1 : Word).toInt = -32767
      ∧ (65536 * (0 : Word).toInt + (0x7FFF : Word).toNat).tdiv (1 : Word).toInt = 32767 := by decide
/-- Both parts of the condition on the part: an 80186 and an 8086. -/
theorem witness_DivisionResults_parts : State.reset.is186 = true ∧ ({ State.reset with cfg := only86 } : State).is186 = false := by decide
/-- Division by 0; quotients 256, -129, 128, and -128 (on an 8086); 65536, -32769, 32768. -/
theorem witness_DivisionResults_traps :
    (readRm .byte (.reg .bx) (cpu zeros [])).1 = 0 ∧ 256 ≤ (0x0100 : Word).toNat / (1 : Byte).toNat
      ∧ (0xFF7F : Word).toInt.tdiv (1 : Byte).toInt = -129 ∧ (0x0080 : Word).toInt.tdiv (1 : Byte).toInt = 128
      ∧ (0x0080 : Word).toInt.tdiv (0xFF : Byte).toInt = -128 := by decide
theorem witness_DivisionResults_traps_word :
    (readRm .word (.reg .bx) (cpu zeros [])).1 = 0
      ∧ 65536 ≤ (65536 * (1 : Word).toNat + (0 : Word).toNat) / (1 : Word).toNat
      ∧ (65536 * (0xFFFF : Word).toInt + (0x7FFF : Word).toNat).tdiv (1 : Word).toInt = -32769
      ∧ (65536 * (0 : Word).toInt + (0x8000 : Word).toNat).tdiv (1 : Word).toInt = 32768 := by decide
/-- Counts 0, 1 and more of a shift, from CL and (80186) from an immediate. -/
theorem witness_ShiftResults :
    (0x20 : Byte).toNat % 32 = 0 ∧ (0x21 : Byte).toNat % 32 = 1 ∧ (0xFF : Byte).toNat % 32 = 31 ∧ State.reset.is186 = true
      ∧ ((cpu { zeros with cx := 0x20 } []).get8 .cl).toNat = 32 := by decide
theorem witness_RotateResults : (1 : Byte).toNat % 32 = 1 ∧ (0 : Byte).toNat % 32 = 0 ∧ State.reset.is186 = true := by decide
theorem witness_StringPrimitives : State.reset.ctl.latches.rep = none ∧ State.reset.is186 = true := by decide
/-- CX = 0; CX = 1, the last pass; CX = 2, with ZF equal to the z bit after CMPS (equal bytes, z = 1) and not (z = 0); a MOVS. -/
theorem witness_RepeatedStringPass :
    (repeated true (cpu zeros [])).get .cx = 0 ∧ (repeated true (cpu zeros [])).ctl.latches.rep = some true
      ∧ (repeated true (cpu { zeros with cx := 1 } [])).get .cx = 1 ∧ (repeated true (cpu { zeros with cx := 2 } [])).get .cx ≠ 1
      ∧ (repeated true (cpu { zeros with cx := 2 } [])).get .cx ≠ 0 ∧ needs186 (.ins .byte) = true ∧ State.reset.is186 = true
      ∧ needs186 (.movs .byte) = false
      ∧ (ok (.cmps .byte) (cpu { zeros with cx := 2 } []) fun t => t.flags.zf == true) = true
      ∧ (ok (.cmps .byte) (repeated true (cpu { zeros with cx := 2 } [])) fun t => t.ctl.phase == .repeating && t.get .cx == 1) = true
      ∧ (ok (.cmps .byte) (repeated false (cpu { zeros with cx := 2 } [])) fun t => t.ctl.phase == .fresh && t.get .cx == 1) = true := by
  decide

/-! ### Control transfer and interrupts -/

/-- Flags under which the conditions hold and flags under which they do not; CX at 1 and 0 for the loops and JCXZ. -/
theorem witness_ShortJumps :
    (∀ f ∈ [(⟨true, true, true, true, true, true, true, true, true⟩ : Flags), Flags.clear], f.sf = f.of)
      ∧ (∃ f ∈ [({ Flags.clear with of := true } : Flags)], f.sf ≠ f.of ∧ f.zf = false ∧ f.cf = false)
      ∧ ((cpu { zeros with cx := 1 } []).get .cx).toNat = 1 ∧ ((cpu { zeros with cx := 2 } []).get .cx).toNat ≠ 1
      ∧ (cpu zeros []).get .cx = 0 ∧ (BitVec.ofNat 16 ((0 : Word).toNat + 65535) = (0xFFFF : Word)) := by decide
theorem witness_JumpsCallsAndReturns : (cpu { zeros with sp := 1 } [(0x500, 1)]).Ordinary ∧ (Rm.direct 0x500).wellFormedMem = true
    ∧ (cpu { zeros with sp := 0xFFFF } [(0, 1)]).Ordinary := ⟨ordinary_of _ (by decide), by decide, ordinary_of _ (by decide)⟩
/-- A stack apart from the vector table, and one that lies in the entry of the type. -/
theorem witness_InterruptSequence : (cpu { zeros with sp := 0x100 } [(0x80, 1)]).Ordinary ∧ (cpu { zeros with sp := 0x86 } []).Ordinary :=
  ⟨ordinary_of _ (by decide), ordinary_of _ (by decide)⟩
theorem witness_InterruptSequence_into : (State.reset.flags.of = false)
    ∧ ({ State.reset with flags := { Flags.clear with of := true } } : State).flags.of = true := by decide
theorem witness_InstructionsOfOnePart :
    needs186 .pusha = true ∧ Instr.wellFormed .pusha = true ∧ needs186 (.bound .ax (.ind .bx)) = true
      ∧ Instr.wellFormed (.bound .ax (.ind .bx)) = true ∧ State.reset.is186 = true
      ∧ ({ State.reset with cfg := only86 } : State).is186 = false := by decide
theorem witness_InterruptReturn : (cpu { zeros with sp := 0xFA } [(0xFA, 2)]).Ordinary ∧ ({ cpu zeros [] with cfg := only86 } : State).Ordinary :=
  ⟨ordinary_of _ (by decide), ordinary_of _ (by decide)⟩
/-- What ends at a boundary, with TF set or not: an instruction, a WAIT, HLT, a prefix, a repetition, a WAIT between tests. -/
theorem witness_RecognitionOrder :
    (ok .nop State.reset fun t => t.ctl.phase == .fresh) = true ∧ Instr.nop ≠ .wait ∧ Instr.nop ≠ .fwait
      ∧ (ok .hlt State.reset fun t => t.ctl.phase == .halted) = true ∧ (ok .lockPrefix State.reset fun t => t.ctl.phase == .prefixed) = true
      ∧ (ok (.movs .byte) (repeated true (cpu { zeros with cx := 2 } [])) fun t => t.ctl.phase == .repeating) = true
      ∧ (ok .wait { State.reset with cfg := only86 } fun t => t.ctl.phase == .waiting) = true
      ∧ exec .nop State.reset = .next State.reset := ⟨by decide, by decide, by decide, by decide, by decide, by decide, by decide, rfl⟩
/-- R265: HLT with TF set traps at once and does not halt. -/
theorem test_trap_after_hlt :
    (steps { (State.reset.withFetchWord 8 0xF4) with flags := { Flags.clear with tf := true } } fun t =>
      t.ctl.phase == .fresh && t.get .sp == 0xFFFA && !t.flags.tf) = true := by decide
/-- A halted machine with no request, with INTR and IF = 0, with NMI, and with INTR and IF = 1. -/
theorem witness_RecognitionInsideInstructions :
    let s : State := { cpu zeros [] with cfg := only86, ctl := { Control.reset with phase := .halted } }
    (s.moves = [] ∧ s.iopHolds = false ∧ s.dmaFirst = none ∧ s.ctl.phase = .halted ∧ s.stop = none ∧ s.ctl.nmiPending = false
        ∧ s.intrLevel = false)
      ∧ (({ s with pins := ⟨false, true, 8, 0, 0⟩ } : State).intrLevel = true ∧ s.flags.ie = false)
      ∧ ({ s with ctl := { s.ctl with nmiPending := true } } : State).dmaFirst = none
      ∧ ({ s with pins := ⟨false, true, 8, 0, 0⟩, flags := { Flags.clear with ie := true } } : State).intrLevel = true := by decide
/-- R163, E24: an NMI that stands before the first pass of REP MOVSB is taken before any element; the 80186 saves the prefix byte's address. -/
theorem test_nmi_before_the_first_pass :
    let u := State.reset.withFetchWord 8 0xA4
    let s : State := { u with
      cfg := { u.cfg with regions := [⟨0xFE, 2, .device⟩] }
      ctl := { u.ctl with phase := .prefixed, firstIp := 0xFFFF, nmiPending := true, latches := ⟨none, false, some true⟩ }
      regs := { zeros with cx := 2, sp := 0x100 } }
    (steps s fun t => t.get .cx == 2 && t.get .sp == 0xFA && t.mem.number [0xFA, 0xFB] == 0xFFFF && !t.ctl.nmiPending) = true := by decide

/-! ### Processor control and high-level instructions -/

/-- TEST active and not; not active with no 8087 operation, and with a running store under LOCK (the step: `test_store_under_lock`). -/
theorem witness_ProcessorControl :
    ({ State.reset with cfg := only86, pins := ⟨true, false, 0, 0, 0⟩ } : State).testActive = true
      ∧ ({ State.reset with cfg := only86 } : State).testActive = false ∧ State.reset.npx.running = none
      ∧ let s : State := { State.reset with
          npx := { Npx.reset with sw := 0x8000, running := some ⟨.stcw, 0, 0, some 0x300, 0, false⟩ }
          ctl := { Control.reset with latches := ⟨none, true, none⟩ } }
        s.testActive = false ∧ s.npx.running ≠ none ∧ s.ctl.latches.lock = true ∧ s.npx.needsBus = true := by decide
/-- Levels 0, 1 and 3 exist; R221's example ENTER 28,3 with SP = 1000H and BP = 2000H is `test_enter`. Here the frame pointers that
level 3 copies lie where ENTER pushes: the second one read is the first one pushed. -/
theorem witness_HighLevelInstructions : (cpu { zeros with sp := 0x101, bp := 0x200 } [(0x1FE, 1)]).Ordinary
    ∧ (cpu { zeros with sp := 0x101, bp := 0x200 } [(0x1FE, 1)]).is186 = true ∧ (1 : Byte) ≠ 0 ∧ (0 : Nat) < 2 ∧ 2 < (3 : Byte).toNat
    ∧ (ok (.enter 0 3) (cpu { zeros with sp := 0x100, bp := 0x100 } []) fun t =>
        t.mem.number [0xFE, 0xFF] == 0x100 && t.mem.number [0xFC, 0xFD] == 0x100 && t.mem.number [0xFA, 0xFB] == 0x100) = true :=
  ⟨ordinary_of _ (by decide), by decide, by decide, by decide, by decide, by decide⟩
/-- Bounds -1 and 1: the register at each bound, and just outside each. -/
theorem witness_HighLevelInstructions_bound :
    let mem : Memory := [(0x300, 0xFF), (0x301, 0xFF), (0x302, 1)]
    (cpu zeros mem).Ordinary ∧ (cpu zeros mem).is186 = true ∧ (Rm.direct 0x300).wellFormedMem = true
      ∧ (BitVec.ofNat 16 (mem.number [0x300, 0x301])).toInt = -1 ∧ (BitVec.ofNat 16 (mem.number [0x302, 0x303])).toInt = 1
      ∧ (ok (.bound .ax (.direct 0x300)) (cpu { zeros with ax := 0xFFFF } mem) fun t => t.get .sp == 0) = true
      ∧ (ok (.bound .ax (.direct 0x300)) (cpu { zeros with ax := 1 } mem) fun t => t.get .sp == 0) = true
      ∧ (ok (.bound .ax (.direct 0x300)) (cpu { zeros with ax := 0xFFFE } mem) fun t => t.get .sp == 0xFFFA) = true
      ∧ (ok (.bound .ax (.direct 0x300)) (cpu { zeros with ax := 2 } mem) fun t => t.get .sp == 0xFFFA) = true := by
  refine ⟨ordinary_of _ (by decide), ?_⟩
  decide

/-! ### Invariants and the whole step -/

/-- A state that has all three invariants and steps. -/
theorem witness_invariants :
    let s := State.reset.withFetchWord 8 0x50
    (s.mem.wf = true ∧ s.iop.remoteIo.wf = true ∧ ∀ c ∈ s.mem, c.1 < 2 ^ 20) ∧ s.pcb.HardWired
      ∧ (s.ctl.phase = .fresh ∨ s.ctl.phase = .halted → s.ctl.latches = .none) ∧ steps s (fun t => t.get .sp == 0xFFFE) = true := by
  refine ⟨by decide, ?_, by decide, by decide⟩
  unfold Pcb.HardWired
  decide
theorem witness_StepKeepsMemoryCanonical : (State.reset.withFetchWord 8 0x50).MemoryCanonical ∧ Runs (State.reset.withFetchWord 8 0x50) :=
  ⟨by unfold State.MemoryCanonical; decide, _, rfl⟩
theorem witness_StepKeepsHardWiredBits : (State.reset.withFetchWord 8 0x50).pcb.HardWired ∧ Runs (State.reset.withFetchWord 8 0x50) :=
  ⟨by unfold Pcb.HardWired; decide, _, rfl⟩
theorem witness_StepLeavesNoStalePrefix : (State.reset.withFetchWord 8 0x50).NoStalePrefix ∧ Runs (State.reset.withFetchWord 8 0x50) :=
  ⟨by unfold State.NoStalePrefix; decide, _, rfl⟩
theorem witness_ResetValues :
    let s : State := { State.reset with moves := [.reset, .cpu] }
    s.moves = .reset :: [.cpu] ∧ s.stop = none ∧ s.npx.running = none := by decide
/-- Each premise of the invariant at a state that meets it: a request with BUSY; a running operation with a store behind it. -/
theorem witness_StepKeepsBusyWithRequest :
    (State.reset.withFetchWord 8 0x90).npx.BusyWithRequest ∧ Runs (State.reset.withFetchWord 8 0x90)
      ∧ ({ Npx.reset with sw := 0x8081, cw := 0x03FE } : Npx).BusyWithRequest
      ∧ ({ Npx.reset with sw := 0x8000, running := some ⟨.sqrt, 0, 0, none, 0, false⟩, queued := some ⟨.save, 0, 0, some 0x300, 0, false⟩ } : Npx).BusyWithRequest := by
  refine ⟨?_, ⟨_, rfl⟩, ?_, ?_⟩ <;> unfold Npx.BusyWithRequest <;> simp <;> decide
theorem witness_MovesAndTheCpu_one : Runs { State.reset with moves := [.nmi, .cpu] } ∧ Runs (State.reset.withFetchWord 8 0x90) :=
  ⟨⟨_, rfl⟩, ⟨_, rfl⟩⟩
/-- NMI (the clause that lets the NMI latch change) and another move. -/
theorem witness_MovesAndTheCpu :
    Runs { State.reset with moves := [.nmi] } ∧ Move.nmi ≠ .cpu ∧ Move.nmi ≠ .reset ∧ (∀ a, Move.nmi ≠ .resetDuring a)
      ∧ Runs { State.reset with moves := [.clock] } ∧ Move.clock ≠ .cpu ∧ Move.clock ≠ .reset ∧ Move.clock ≠ .nmi
      ∧ ∀ a, Move.clock ≠ .resetDuring a :=
  ⟨⟨_, rfl⟩, by decide, by decide, nofun, ⟨_, rfl⟩, by decide, by decide, by decide, nofun⟩

/-- The agents there and not there; the bus held by a locked transfer; ordinary memory; a step that RESET may cut short, and one that
answers no next state. -/
theorem witness_MovesAndTheCpu_moves :
    let alone : State := { State.reset with cfg := { defaultConfig with cpu := .i8086, hasNpx := false, hasIop := false } }
    let held : State := State.reset.setChan true { IopChan.reset with activity := .transfer, locked := true }
    (State.reset.is186 = true ∧ State.reset.cfg.hasNpx = true ∧ State.reset.cfg.hasIop = true)
      ∧ (alone.is186 = false ∧ alone.cfg.hasNpx = false ∧ alone.cfg.hasIop = false)
      ∧ held.iopHolds = true ∧ State.reset.iopHolds = false ∧ State.reset.Ordinary ∧ Runs { State.reset with moves := [.npx] }
      ∧ ¬Runs { alone with moves := [.npx] } := by
  refine ⟨by decide, by decide, by decide, by decide, ordinary_of _ (by decide), ⟨_, rfl⟩, ?_⟩
  rintro ⟨t, h⟩
  cases h
/-- The clauses on turns of other masters: a port that a device drives and one that none does, the last address of memory and the one
after it; a word at an odd address for a master behind an arbiter and for one that asks by HOLD, one at an even address on a bus of 16
bits and of 8, and one under LOCK. -/
theorem witness_MovesAndTheCpu_turns :
    let s (c : CpuKind) (lock : Bool) : State :=
      { cpu zeros [(0, 7)] with cfg := { defaultConfig with cpu := c }, ctl := { Control.reset with latches := ⟨none, lock, none⟩ } }
    (∀ c lock, (s c lock).Ordinary) ∧ presented (⟨[(0xFFFF, 3)], []⟩ : IoSpace).inputs ((2 ^ 20 - 1) % 2 ^ 16) = some 3
      ∧ (2 ^ 20 - 1) % 2 ^ 20 ≠ 0 ∧ 2 ^ 20 % 2 ^ 20 = 0 ∧ (0xFFFFF : Phys).getLsbD 0 = true ∧ (0xFFFFE : Phys).getLsbD 0 = false
      ∧ ((s .i80186 false).cfg.wide = true ∧ (s .i8088 false).cfg.wide = false)
      ∧ ((s .i80186 false).ctl.latches.lock = false ∧ (s .i80186 true).ctl.latches.lock = true ∧ (s .i80186 false).iopHolds = false) := by
  refine ⟨fun c lock => ordinary_of _ ?_, ?_⟩
  · cases c <;> cases lock <;> decide
  · decide

/-- A machine that has taken a LOCK prefix or not, the bytes 11H, 22H, 33H, 44H from address 1 on, SI = 1, AL = 5; between the first two bus
cycles of its next instruction a master comes that stores EEH at address 2; `hold`: it asks by HOLD. -/
def shared (lock hold : Bool) : State :=
  { cpu { zeros with si := 1, ax := 5 } [(1, 0x11), (2, 0x22), (3, 0x33), (4, 0x44)] with
    ctl := { Control.reset with latches := ⟨none, lock, none⟩ }
    turns := [⟨hold, []⟩, ⟨hold, [.write 2 0xEE]⟩] }

/-- R41, R307: a word at an odd address is torn by a master behind an arbiter, not by HOLD (R276), not under LOCK (R43). -/
theorem test_torn_word :
    ([(false, false), (false, true), (true, false)].map fun p =>
      match exec (.movRmReg .toReg .word (.ind .si) .bx) (shared p.1 p.2) with
      | .next t => (t.get .bx, t.turns.length)
      | _ => (0, 9)) = [(0xEE11, 0), (0x2211, 1), (0x2211, 2)] := by decide
/-- LDS: HOLD is granted between the two words of a pointer, so that the segment word is the other master's. -/
theorem test_torn_pointer :
    let s : State := { shared false true with regs := { zeros with si := 2 }, turns := [⟨true, []⟩, ⟨true, [.write 4 0xEE, .write 5 0xDD]⟩] }
    ((ok (.lds .bx (.ind .si)) s fun t => t.get .bx == 0x3322 && t.segs.ds == 0xDDEE && t.turns == []) = true)
      ∧ (ok (.lds .bx (.ind .si)) { s with ctl := { s.ctl with latches := ⟨none, true, none⟩ } } fun t => t.segs.ds == 0x0044) = true := by
  decide
/-- XCHG of a byte is two cycles: what the other master stores between them is lost; under LOCK it waits (R41, R43). -/
theorem test_xchg_semaphore :
    let s (lock : Bool) : State := { shared lock true with turns := [⟨true, []⟩, ⟨true, [.write 1 0xEE]⟩] }
    (ok (.xchgRmReg .byte (.ind .si) .ax) (s false) fun t => t.get .ax == 0x11 && t.mem.read 1 == 5 && t.turns == []) = true
      ∧ (ok (.xchgRmReg .byte (.ind .si) .ax) (s true) fun t => t.get .ax == 0x11 && t.mem.read 1 == 5 && t.turns.length == 2) = true := by
  decide
/-- R307: another master reads and writes ports, too; a locked transfer of the 8089 keeps it out (49_iop_8089.md R521). -/
theorem test_port_of_another_master :
    let s : State := { State.reset with moves := [.busAccess (.portWrite 0x10060 9)] }
    let locked : State := s.setChan false { IopChan.reset with activity := .transfer, locked := true }
    (steps s fun t => t.io.trace == [.portWrite 0x60 9]) = true ∧ (steps locked fun t => t.io.trace == []) = true := by decide
/-- R529, R521: another master can come between read and write of INC, not of TSL. -/
theorem test_iop_read_modify_write :
    let s : State := ({ shared false false with turns := [⟨false, []⟩, ⟨false, [.write 1 0xEE]⟩] } : State).setChan false
      { IopChan.reset with ga := ⟨1, false⟩ }
    (iopExec false (.incMem .byte ⟨.ga, .based⟩) s).mem.read 1 = 0x12 ∧ (iopExec false (.incMem .byte ⟨.ga, .based⟩) s).turns = []
      ∧ (iopExec false (.tsl ⟨.ga, .based⟩ 0xFF 0) { s with mem := [] }).mem.read 1 = 0xFF
      ∧ (iopExec false (.tsl ⟨.ga, .based⟩ 0xFF 0) { s with mem := [] }).turns.length = 1 := by decide

/-- Channels that the scheduler lets run: with an attention, in a program, in a transfer before and at the tests of a store; and two that
it does not, one in a wait for DRQ. -/
theorem witness_MovesAndTheCpu_iop :
    let s (c : IopChan) : State := State.reset.setChan false c
    iopRuns false (s { IopChan.reset with ca := true }) = true ∧ ({ IopChan.reset with ca := true } : IopChan).attends = true
      ∧ iopRuns false (s { IopChan.reset with activity := .program }) = true ∧ iopRuns false (s { IopChan.reset with activity := .armed }) = true
      ∧ iopRuns false (s { IopChan.reset with activity := .transfer }) = true
      ∧ iopRuns false (s { IopChan.reset with activity := .transfer, cc := 0x0800 }) = false
      ∧ iopRuns false (s { IopChan.reset with activity := .transfer, hold := some ⟨0, 1, .byteByte, false, .check⟩ }) = true
      ∧ iopRuns false (s IopChan.reset) = false := by decide

/-! ### 8087 -/

/-- ET set on an 80186; an 80186 without an 8087, ET clear; an 8086 without an 8087; one instruction of each class of forms. -/
theorem witness_EscapesOfTheCpu :
    let s : State := { cpu zeros [] with pcb := { Pcb.reset with reloc := 0xA0FF } }
    let t : State := { cpu zeros [] with cfg := { defaultConfig with hasNpx := false } }
    (s.is186 = true ∧ s.pcb.reloc.getLsbD 15 = true)
      ∧ (t.cfg.hasNpx = false ∧ t.PlainMemory ∧ t.pcb.reloc.getLsbD 15 = false)
      ∧ ({ cpu zeros [] with cfg := only86 } : State).PlainMemory ∧ only86.hasNpx = false
      ∧ (∃ rm : Rm, rm.wellFormedMem = true ∧ Instr.faddM32 (.ind .bx) = Instr.faddM32 rm) ∧ (∃ p ∈ npxFixedForms, Instr.fnop = p.1)
      ∧ ∃ x rm, Instr.esc 9 (.ind .bx) = .esc x rm :=
  ⟨by decide, ⟨rfl, (ordinary_of _ (by decide)).1, by decide⟩, (ordinary_of _ (by decide)).1, rfl, ⟨.ind .bx, by decide, rfl⟩,
    ⟨_, List.mem_append_left _ (List.mem_cons_self ..), rfl⟩, ⟨9, .ind .bx, rfl⟩⟩
/-- An idle 8087; and one that an unmasked exception keeps busy, with a no-wait form. -/
theorem witness_NpxReceivesTheOperation :
    State.reset.PlainMemory ∧ State.reset.cfg.hasNpx = true ∧ State.reset.pcb.reloc.getLsbD 15 = false ∧ State.reset.npx.busy = false
      ∧ ({ Npx.reset with sw := 0x8081, cw := 0x03FE } : Npx).busy = true ∧ NpxOp.noWait .init = true ∧ NpxOp.noWait .stcw = true
      ∧ ({ State.reset with npx := { Npx.reset with sw := 0x8081, cw := 0x03FE } } : State).PlainMemory
      ∧ (Rm.direct 0x300).wellFormedMem = true :=
  ⟨(ordinary_of _ (by decide)).1, by decide, by decide, by decide, by decide, by decide, by decide, (ordinary_of _ (by decide)).1, by decide⟩
/-- A machine whose 8087 works on alone: FSQRT starts; running, with FSAVE queued behind it. -/
theorem witness_NpxReceivesTheOperation_overlap :
    let s : State := { npxState [two] [] with cfg := { defaultConfig with npxOverlap := true } }
    let j : NpxJob := ⟨.sqrt, 0x1FA, 0x500, none, 0, false⟩
    let q : NpxJob := ⟨.save, 0x530, 0x503, some 0x300, 0, false⟩
    s.cfg.npxOverlap = true ∧ j.op.immediate = false ∧ s.npx.running = none ∧ s.npx.queued = none
      ∧ (npxStart j s).npx.running = some { j with raced := false } ∧ (npxStart j s).npx.busy = true
      ∧ (let v : State := { npxStart j s with npx := { (npxStart j s).npx with queued := some q } }
        v.npx.running ≠ none ∧ v.npx.queued = some q ∧ (q.op = .stenv ∨ q.op = .save)) := by decide
/-- An idle 8087 that holds two numbers: ST(7) is empty for a push, ST not empty for a store, ST(0) and ST(1) not empty for FXCH. -/
theorem witness_NpxStackOperations :
    (npxState [one, two] []).PlainMemory ∧ (npxState [one, two] []).cfg.hasNpx = true ∧ (npxState [one, two] []).cfg.npxOverlap = false
      ∧ (npxState [one, two] []).pcb.reloc.getLsbD 15 = false ∧ (npx [one, two]).busy = false ∧ (npx [one, two]).isEmpty 7 = true
      ∧ (npx [one, two]).isEmpty 0 = false ∧ (npx [one, two]).isEmpty 1 = false ∧ realClass ((npx [one, two]).st 1) ≠ .denormal
      ∧ ((npx [one, two]).phys 1 ≠ (npx [one, two]).top) ∧ (1 : BitVec 3) ≠ 0 :=
  ⟨(ordinary_of _ (by decide)).1, by decide, by decide, by decide, by decide, by decide, by decide, by decide, by decide, by decide, by decide⟩
/-- One that is empty, one that is full, and one that holds a denormal; with I masked, and not. -/
theorem witness_NpxStackOperations_invalid :
    (npxState [] []).PlainMemory ∧ (npx []).busy = false ∧ (npx []).isEmpty 0 = true ∧ (npx []).isEmpty 3 = true
      ∧ (npx [one, one, one, one, one, one, one, two]).isEmpty 7 = false ∧ (npx [one, one, one, one, one, one, one, two]).busy = false
      ∧ realClass ((npx [0x00004000000000000000]).st 0) = .denormal ∧ unmasked (npx []).cw 1 = 0 ∧ unmasked 0x03FE 1 ≠ 0 :=
  ⟨(ordinary_of _ (by decide)).1, by decide, by decide, by decide, by decide, by decide, by decide, by decide, by decide⟩
/-- R338 rows 1 and 2: FXCH with an empty ST(1) exchanges the indefinite; a constant pushed onto a full stack is the indefinite. -/
theorem test_npx_invalid_stack :
    gives (.exchange 1) 0x03FF [one] npxIndef 1 = true ∧ (Npx.numeric (.exchange 1) 0 anyFree (npx [one])).1.st 1 = one
      ∧ gives (.const .pi) 0x03FF [one, one, one, one, one, one, one, two] npxIndef 1 = true := by decide
/-- An 8087 that an unmasked exception keeps busy: SW = 8081H, I not masked, the address 12345H of the ESC saved. -/
def busyState : State := { npxState [one] [] with npx := { npx [one] with sw := 0xB881, cw := 0x03FE, xip := 0x12345 } }
theorem busy_stopped : busyState.NpxStopped ∧ busyState.Ordinary :=
  have h : busyState.Ordinary := ordinary_of _ (by decide)
  ⟨⟨h.1, rfl, fun _ => by decide⟩, h⟩
/-- Nothing running: an idle 8087, and one that an unmasked exception keeps busy. -/
theorem witness_NpxControlWords :
    (npxState [one] [(0x300, 0x7F)]).Ordinary ∧ (npxState [one] [(0x300, 0x7F)]).NpxStopped ∧ (npx [one]).busy = false
      ∧ busyState.Ordinary ∧ busyState.NpxStopped ∧ busyState.npx.busy = true ∧ (Rm.direct 0x300).wellFormedMem = true :=
  have h : (npxState [one] [(0x300, 0x7F)]).Ordinary := ordinary_of _ (by decide)
  ⟨h, ⟨h.1, rfl, fun _ => by decide⟩, by decide, busy_stopped.2, busy_stopped.1, by decide, by decide⟩
/-- R410: FCLEX in an exception handler clears the flags, IR and B. -/
theorem test_npx_clex_ends_busy : (ok .fclex busyState fun t => t.npx.sw == 0x3800 && !t.npx.busy) = true := by decide
/-- R318: a control word that unmasks a flag that is set: IR and B. -/
theorem test_npx_fldcw_unmasks : ({ npx [one] with sw := 0x3801, cw := loadedCw 0x03FF 0x033E } : Npx).react.sw = 0xB881 := by decide
/-- `State.NpxReady` of the small states of this file. -/
theorem ready_of (s : State) (h : s.Ordinary) (h2 : (s.cfg.hasNpx && !s.pcb.reloc.getLsbD 15 && !s.cfg.npxOverlap && !s.npx.busy) = true) :
    s.NpxReady ∧ s.Ordinary := by
  simp only [Bool.and_eq_true, Bool.not_eq_true'] at h2
  obtain ⟨⟨⟨h1, h3⟩, h4⟩, h5⟩ := h2
  exact ⟨⟨⟨h.1, h1, fun _ => h3⟩, h4, h5⟩, h⟩

/-- Every class of number a register can hold. -/
def infinity : TempReal := 0x7FFF8000000000000000
def quietNan : TempReal := 0x7FFFC000000000000001
def unnormal : TempReal := 0x40004000000000000000
def denormal : TempReal := 0x00004000000000000000
/-- The largest and the smallest normal. -/
def largest : TempReal := 0x7FFEFFFFFFFFFFFFFFFF
def smallest : TempReal := 0x00018000000000000000

theorem witness_classes :
    realClass one = .normal ∧ realClass 0 = .zero ∧ realClass infinity = .infinity ∧ realClass quietNan = .nan ∧ realClass unnormal = .unnormal
      ∧ realClass denormal = .denormal ∧ realClass largest = .normal ∧ realClass smallest = .normal ∧ realNeg minusZero = true := by decide

/-- R313, R43: under LOCK a WAIT lets the 8087's running store have no bus cycle; without it the store completes. -/
theorem test_store_under_lock :
    let job : NpxJob := ⟨.stcw, 0, 0, some 0x300, 0, false⟩
    let s : State := { npxState [] [] with npx := { Npx.reset with sw := 0x8000, running := some job } }
    (ok .wait { s with ctl := { Control.reset with latches := ⟨none, true, none⟩ } } fun t => t.npx.running == some job && t.mem == []) = true
      ∧ (npxProceed true s).npx.running = none := ⟨by decide, rfl⟩

/-- An idle 8087 with two numbers; memory and stack forms of arithmetic. -/
theorem witness_NpxArithmeticForms :
    (npxState [one, two] [(0x300, 0x40)]).NpxReady ∧ (∃ p ∈ npxMemoryForms, p.2.2 = .arithMem .add .real32)
      ∧ (∃ p ∈ npxStackForms, p.2.2 1 = .arithSt .add 1) ∧ (∃ p ∈ npxStackForms, p.2.2 1 = .arithSti .add 1 true)
      ∧ (Rm.direct 0x300).wellFormedMem = true :=
  ⟨(ready_of _ (ordinary_of _ (by decide)) (by decide)).1, ⟨(.faddM32, 0, .arithMem .add .real32), by simp [npxMemoryForms, npxMemoryFormsA], rfl⟩,
    ⟨(.faddStSti, 0, fun i => .arithSt .add i), List.mem_append_left _ (List.mem_cons_self ..), rfl⟩,
    ⟨(.faddpStiSt, 48, fun i => .arithSti .add i true), by simp [npxStackForms, npxStackFormsA], rfl⟩, by decide⟩
/-- Exact, inexact, overflow (masked and not) and underflow (masked and not) of the delivered number; 0 from 1 - 1 and from 0 * 1; division
by 0, of infinities, by an unnormal; infinities of one and of two signs; NaNs; denormals with D masked and not. -/
theorem witness_NpxArithmeticResults :
    let a (cw : Word) (op : NpxArith) (d s : TempReal) : NpxAnswer := arith cw 0 op false ⟨d, false⟩ ⟨s, false⟩
    a 0x03FF .add one two = ⟨three, 0, 0⟩ ∧ (a 0x03FF .div one three).after = 0x20 ∧ (a 0x03FF .mul largest two).after = 0x28
      ∧ (a 0x03F7 .mul largest two).after = 0x08 ∧ (a 0x03FF .div smallest two).after = 0x10 ∧ (a 0x03EF .div smallest two).after = 0x10
      ∧ a 0x03FF .sub one one = ⟨0, 0, 0⟩ ∧ a 0x03FF .mul 0 one = ⟨0, 0, 0⟩ ∧ a 0x03FF .div one 0 = ⟨infinity, 4, 0⟩
      ∧ a 0x03FF .div infinity infinity = ⟨npxIndef, 1, 0⟩ ∧ a 0x03FF .div one unnormal = ⟨npxIndef, 1, 0⟩
      ∧ a 0x03FF .add quietNan one = ⟨quietNan, 1, 0⟩ ∧ (arith 0x03FD 0 .add false ⟨denormal, true⟩ ⟨one, false⟩).before = 2
      ∧ (arith 0x03FF 0 .add false ⟨denormal, true⟩ ⟨one, false⟩).before = 2 ∧ realMag one < realMag two := by decide +kernel
/-- Unnormals with 2 and 63 leading zeros, of opposite signs, and a pseudo-zero. -/
theorem witness_NpxArithmeticResults_unnormal :
    let d : TempReal := 0x3FFF3000000000000000
    let s : TempReal := 0xC0000000000000000001
    realClass d = .unnormal ∧ realClass s = .unnormal ∧ realSig d ≠ 0 ∧ realSig s ≠ 0 ∧ realSig d < 2 ^ (64 - 2) ∧ realSig s < 2 ^ (64 - 63)
      ∧ 64 < 2 + 63 ∧ realClass 0x3FFF0000000000000000 = .unnormal ∧ realSig 0x3FFF0000000000000000 = 0 := by decide +kernel
/-- R341: more than 64 leading zero bits in total make a pseudo-zero of the product, and P; 64 do not. -/
theorem test_product_of_unnormals :
    coreMul 0x3FFF3000000000000000 0xC0000000000000000001 = .pseudoZero true true
      ∧ coreMul 0x3FFF7000000000000000 0x40000000000000000001 = .unnormal ⟨false, 0x7000000000000000, -125⟩
      ∧ (arith 0x03FF 0 .mul false ⟨0x3FFF3000000000000000, false⟩ ⟨0xC0000000000000000001, false⟩).after = 0x20 := by decide +kernel
theorem witness_NpxFunctions :
    (npxState [three, two] []).NpxReady ∧ (npx [three, two]).isEmpty 0 = false ∧ (npx [three, two]).isEmpty 1 = false
      ∧ (npx [three, two]).isEmpty 7 = true ∧ realClass three = .normal ∧ realNeg three = false ∧ (0x03FF : Word).getLsbD 8 = true
      ∧ realClass minus126 = .normal ∧ realNeg minus126 = true :=
  ⟨(ready_of _ (ordinary_of _ (by decide)) (by decide)).1, by decide, by decide, by decide, by decide, by decide, by decide, by decide, by decide⟩
/-- The number of a temporary real of known fields. -/
theorem realQ_of (v : TempReal) (sig field : Nat) (h : realNeg v = false ∧ realSig v = sig ∧ realField v = field) :
    realQ v = sig * 2 ^ (((max field 1 : Nat) : ℤ) - 16446) := by
  simp only [realQ, h, Bool.false_eq_true, if_false, one_mul]
theorem realQ_one : realQ one = 1 := by
  rw [realQ_of one (2 ^ 63) 16383 (by decide)]; norm_num
theorem realQ_two : realQ two = 2 := by
  rw [realQ_of two (2 ^ 63) 16384 (by decide)]; norm_num
/-- 1/2 and 1/4. -/
def half : TempReal := 0x3FFE8000000000000000
def quarter : TempReal := 0x3FFD8000000000000000
theorem realQ_half : realQ half = 1 / 2 := by
  rw [realQ_of half (2 ^ 63) 16382 (by decide)]; norm_num
theorem realQ_quarter : realQ quarter = 1 / 4 := by
  rw [realQ_of quarter (2 ^ 63) 16381 (by decide)]; norm_num
/-- The premises of the scaling clause on the rationals: k = 2 is `two` and below it in size, and |1| * 2 ^ 2 lies in the range of FSCALE;
an unnormal scaled by it stays in the range of exponents. -/
theorem witness_NpxFunctions_scale :
    (|((2 : ℤ) : ℚ) - realQ two| < 1 ∧ |((2 : ℤ) : ℚ)| ≤ |realQ two| ∧ 0 ≤ ((2 : ℤ) : ℚ) * realQ two ∧ -32768 ≤ realQ two ∧ realQ two < 32768)
      ∧ ((2 : ℚ) ^ (-40958 : ℤ) ≤ |realQ one| * 2 ^ (2 : ℤ) ∧ |realQ one| * 2 ^ (2 : ℤ) < (2 : ℚ) ^ (40960 : ℤ))
      ∧ realClass unnormal = .unnormal ∧ (1 : ℤ) ≤ realField unnormal + 2 ∧ (realField unnormal : ℤ) + 2 ≤ 0x7FFE
      ∧ (-16382 : ℤ) ≤ (realValue unnormal).exponent + 2 := by
  refine ⟨by rw [realQ_two]; norm_num, ⟨?_, ?_⟩, by decide, by decide, by decide, by decide⟩
  · rw [realQ_one, abs_one, one_mul]; exact zpow_le_zpow_right₀ (by norm_num) (by norm_num)
  · rw [realQ_one, abs_one, one_mul]; exact zpow_lt_zpow_right₀ (by norm_num) (by norm_num)
/-- The special operands: FSQRT of a denormal with D masked and not; FSCALE with a NaN, an infinity, a zero; FPREM with a NaN, an infinite
dividend and modulus, modulus 0, a denormal and an unnormal one, dividend 0, a denormal dividend with D masked and not; FXTRACT of each
class, empty, and full. -/
theorem witness_NpxFunctions_special :
    (scaleAnswer 0x03FF 0 quietNan one = ⟨quietNan, 1, 0⟩ ∧ scaleAnswer 0x03FF 0 one quietNan = ⟨quietNan, 1, 0⟩ ∧ realMag one < realMag quietNan
        ∧ scaleAnswer 0x03FF 0 one infinity = ⟨npxIndef, 1, 0⟩ ∧ scaleAnswer 0x03FF 0 0 infinity = ⟨0, 0, 0⟩)
      ∧ (let prem (a m : TempReal) : NpxAnswer := (premAnswer 0x03FF 0 0 (regOperand a) (regOperand m)).ans
        prem quietNan one = ⟨quietNan, 1, 0⟩ ∧ prem one quietNan = ⟨quietNan, 1, 0⟩ ∧ prem infinity one = ⟨npxIndef, 1, 0⟩
        ∧ prem one infinity = ⟨one, 0, 0⟩ ∧ prem one 0 = ⟨npxIndef, 1, 0⟩ ∧ prem one denormal = ⟨npxIndef, 1, 0⟩
        ∧ prem one unnormal = ⟨npxIndef, 1, 0⟩ ∧ prem 0 one = ⟨0, 0, 0⟩ ∧ (prem denormal one).before = 2)
      ∧ (premAnswer 0x03FD 0 0 (regOperand denormal) (regOperand one)).ans.before = 2
      ∧ realClass denormal = .denormal ∧ sqrtAnswer 0x03FF 0 (regOperand denormal) = ⟨npxIndef, 3, 0⟩
      ∧ (sqrtAnswer 0x03FD 0 (regOperand denormal)).before = 2
      ∧ (npx []).isEmpty 0 = true ∧ (npx [one]).isEmpty 1 = true
      ∧ gives .xtract 0x03FF [infinity] npxIndef 1 = true ∧ gives .xtract 0x03FF [quietNan] quietNan 1 = true
      ∧ gives .xtract 0x03FF [four, one, one, one, one, one, one, one] npxIndef 1 = true := by decide +kernel
/-- Each function in range, at a boundary where it has one (1/2 for F2XM1), and out of it (FPATAN with Y = X, F2XM1 above 1/2, FYL2X of 0,
FYL2XP1 of 1, FPTAN of 1); an empty register, and a full stack. -/
theorem witness_NpxTranscendentals :
    (npxState [two, one] []).NpxReady
      ∧ (realClass two = .normal ∧ realClass one = .normal ∧ 0 < realQ one ∧ realQ one < realQ two ∧ ¬realQ two < realQ two)
      ∧ (realClass half = .normal ∧ 0 < realQ half ∧ realQ half ≤ 1 / 2 ∧ ¬realQ one ≤ 1 / 2)
      ∧ (realClass quarter = .normal ∧ |realQ quarter| < 1 ∧ 1 < 2 * (1 - |realQ quarter|) ^ 2 ∧ ¬|realQ one| < 1)
      ∧ (realQ half < realQ 0x3FFEC90FDAA22168C235 ∧ ¬realQ one < realQ 0x3FFEC90FDAA22168C235) ∧ realClass 0 = .zero
      ∧ (npx [two]).isEmpty 1 = true ∧ (npx []).isEmpty 0 = true ∧ (npx [one, one, one, one, one, one, one, one]).isEmpty 7 = false := by
  have h : realQ 0x3FFEC90FDAA22168C235 = 14488038916154245685 * 2 ^ (-64 : ℤ) := by
    rw [realQ_of _ 14488038916154245685 16382 (by decide)]; norm_num
  rw [h, realQ_one, realQ_two, realQ_half, realQ_quarter]
  refine ⟨(ready_of _ (ordinary_of _ (by decide)) (by decide)).1, ⟨by decide, by decide, by norm_num, by norm_num, by norm_num⟩,
    ⟨by decide, by norm_num, by norm_num, by norm_num⟩, ⟨by decide, by norm_num, by norm_num, by norm_num⟩, ⟨by norm_num, by norm_num⟩,
    by decide, by decide, by decide, by decide⟩
/-- FYL2X of two of three numbers, here out of range (X = -2): it pops, the third number is below the result; a zero is F2XM1's own result. -/
theorem test_npx_transcendental_stack :
    (let n := (Npx.numeric .yl2x 0 anyFree (npx [0xC0008000000000000000, one, three])).1; n.top = 6 ∧ n.st 1 = three ∧ n.tag 5 = 3)
      ∧ gives .f2xm1 0x03FF [minusZero] minusZero 0 = true ∧ gives .ptan 0x03FF [] npxIndef 1 = true := by decide
theorem witness_NpxComparisons :
    (npxState [one, two] []).NpxReady ∧ (∃ p ∈ npxMemoryForms, p.2.2 = .compareMem .real32 true) ∧ (∃ p ∈ npxStackForms, p.2.2 1 = .compareSt 1 1)
      ∧ comparesDenormal (regOperand denormal) = true ∧ comparesDenormal (regOperand one) = false ∧ (0x13FF : Word).getLsbD 12 = true :=
  ⟨(ready_of _ (ordinary_of _ (by decide)) (by decide)).1, ⟨(.fcompM32, 3, .compareMem .real32 true), by simp [npxMemoryForms, npxMemoryFormsA], rfl⟩,
    ⟨(.fcompSti, 3, fun i => .compareSt i 1), by simp [npxStackForms, npxStackFormsA], rfl⟩, by decide, by decide, by decide⟩
/-- 0, and the integers at the ends of the formats; exponent fields 0, in between and all ones of a short real; a packed decimal. -/
theorem witness_NpxLoads :
    (BitVec.ofNat 16 (0 : TempReal).toNat).toInt = 0 ∧ (BitVec.ofNat 16 (0x8000 : TempReal).toNat).toInt = -32768
      ∧ (BitVec.ofNat 64 (0x8000000000000000 : TempReal).toNat).toInt = -9223372036854775808
      ∧ (BitVec.ofNat 32 (0x7FFFFFFF : TempReal).toNat).toInt = 2147483647
      ∧ (∀ p ∈ [((0x00000001 : TempReal), 0), (0x3F800000, 127), (0x7F800000, 255)], p.1.toNat / 2 ^ 23 % 2 ^ 8 = p.2)
      ∧ (∀ k < 18, (0x126 : TempReal).toNat / 16 ^ k % 16 < 10) ∧ (npxState [one] []).npx.isEmpty 7 = true := by decide
theorem witness_NpxLoads_ready : (npxState [one] [(0x300, 1)]).NpxReady ∧ ∃ p ∈ npxMemoryForms, p.2.2 = .load .real64 :=
  ⟨(ready_of _ (ordinary_of _ (by decide)) (by decide)).1, ⟨(.fldM64, 40, .load .real64), by simp [npxMemoryForms, npxMemoryFormsB], rfl⟩⟩
/-- Overflow and underflow of the short real, masked and not; the integers at the ends of the word; a packed decimal that fits and one
that does not. -/
theorem witness_NpxStores :
    storeReal 0x03FF 8 23 largest = ⟨0x7F800000, 0, 0x28⟩ ∧ (storeReal 0x03F7 8 23 largest).before = 0x28
      ∧ (storeReal 0x03FF 8 23 smallest).after = 0x20 ∧ (storeReal 0x03EF 8 23 smallest).before = 0x10 ∧ (storeReal 0x03FF 8 23 one).value = 0x3F800000
      ∧ storeInt 0x03FF 16 0x400DFFFE000000000000 = ⟨32767, 0, 0⟩ ∧ storeInt 0x03FF 16 0x400E8000000000000000 = ⟨32768, 1, 0⟩
      ∧ (storeBcd 0 one).value = 1 ∧ (storeBcd 0 largest).before = 1 := by decide +kernel
/-- A denormal, a pseudo-zero, an unnormal below the short real's normals and one above. -/
theorem witness_NpxStores_unnormals :
    storeReal 0x03FF 8 23 denormal = ⟨0x400000, 0, 0⟩ ∧ (realClass 0x12340000000000000000 = .unnormal ∧ realSig 0x12340000000000000000 = 0)
      ∧ storeReal 0x03FF 8 23 0x12340000000000000000 = ⟨0, 0x10, 0⟩
      ∧ (realClass 0x3E800000000000000001 = .unnormal ∧ realSig 0x3E800000000000000001 ≠ 0 ∧ |realQ 0x3E800000000000000001| < 2 ^ (1 - ((127 : Nat) : ℤ)))
      ∧ realClass unnormal = .unnormal ∧ 2 ^ (1 - ((127 : Nat) : ℤ)) ≤ |realQ unnormal| := by
  have h : realQ 0x3E800000000000000001 = 1 * 2 ^ (-446 : ℤ) := by
    rw [realQ_of _ 1 16000 (by decide)]; norm_num
  have h2 : realQ unnormal = 1 := by
    rw [realQ_of unnormal (2 ^ 62) 16384 (by decide)]; norm_num
  rw [h, h2]
  refine ⟨by decide, by decide, by decide, ⟨by decide, by decide, ?_⟩, by decide, by norm_num⟩
  rw [one_mul, abs_of_pos (by positivity)]
  exact zpow_lt_zpow_right₀ (by norm_num) (by norm_num)
theorem witness_NpxStores_ready :
    (npxState [one] []).NpxReady ∧ (npxState [one] []).Ordinary ∧ (npxState [] []).NpxReady ∧ ∃ p ∈ npxMemoryForms, p.2.2 = .store .real32 true :=
  ⟨(ready_of _ (ordinary_of _ (by decide)) (by decide)).1, ordinary_of _ (by decide), (ready_of _ (ordinary_of _ (by decide)) (by decide)).1,
    ⟨(.fstpM32, 11, .store .real32 true), by simp [npxMemoryForms, npxMemoryFormsA], rfl⟩⟩
/-- A plain state; one that an unmasked exception keeps busy; an image whose SW has an unmasked flag, for FLDENV; an operand at offset
FFFFH of an 80186. -/
theorem witness_NpxImages :
    (npxState [one] []).NpxStopped ∧ (npx [one]).busy = false ∧ busyState.NpxStopped ∧ busyState.Ordinary ∧ busyState.npx.busy = true
      ∧ NpxOp.noWait .eni = true ∧ (npxState [one] [(0x300, 0x3E), (0x302, 1)]).NpxStopped ∧ (Rm.direct 0x300).wellFormedMem = true
      ∧ (npxState [one] []).is186 = true ∧ eaOff (npxState [one] []) (.direct 0xFFFF) = 0xFFFF ∧ NpxOp.clex ≠ .init
      ∧ (NpxOp.arithMem .add .real32 ∉ [NpxOp.stenv, .save, .stcw, .stsw, .ldenv, .rstor]) :=
  ⟨(ready_of _ (ordinary_of _ (by decide)) (by decide)).1.1, by decide, busy_stopped.1, busy_stopped.2, by decide, by decide,
    (ready_of _ (ordinary_of _ (by decide)) (by decide)).1.1, by decide, by decide, by decide, by decide, by decide⟩
/-- R416, R418, D27: an environment with BUSY set and no flag ends with BUSY clear; one with an unmasked flag sets IR and BUSY. -/
theorem test_npx_environment_ends :
    (ok (.fldenv (.direct 0x300)) (npxState [one] [(0x300, 0x3F), (0x301, 3), (0x303, 0x80)]) fun t => !t.npx.sw.getLsbD 15) = true
      ∧ (ok (.fldenv (.direct 0x300)) (npxState [one] [(0x300, 0x3E), (0x301, 3), (0x302, 1)]) fun t => t.npx.sw &&& 0x8080 == 0x8080) = true := by
  decide

/-! ### Peripherals -/

/-- One port of each class: chip selects, DMA control and pointers, timer modes, the interrupt controller of both modes, the relocation
register at its two ends: it moves the block to memory, and keeps it in I/O space at FF00H. -/
theorem witness_ControlBlockReadsBack :
    [(0xFFA0 : Word), 0xFF50, 0xFFC2, 0xFFCA, 0xFF56, 0xFF66, 0xFF22, 0xFF28, 0xFF3E, 0xFFFE].all (fun p =>
        (cpu { zeros with dx := p } []).pcbIo ((cpu { zeros with dx := p } []).get .dx)) = true ∧ (cpu zeros []).turns = []
      ∧ (0x1100 : Word).getLsbD 12 = true ∧ (0x20FF : Word).toNat / 256 % 16 = 0 ∧ (0x1100 : Word).getLsbD 14 = Pcb.reset.reloc.getLsbD 14
      ∧ ({ cpu { zeros with dx := 0xFF28 } [] with pcb := { Pcb.reset with reloc := 0x60FF } } : State).pcbIo 0xFF28 = true
      ∧ ({ cpu zeros [] with pcb := { Pcb.reset with reloc := 0x1100 } } : State).pcbMem 0x100A0 = true ∧ (0x100A0 : Phys).toNat % 2 = 0 := by
  decide
/-- The classes of acknowledge: outside of an 8086; INT0 in cascade mode and DMA 0 in master mode; iRMX 86 mode selected and not selected. -/
theorem witness_InterruptController :
    let ic : Ic := { Ic.reset with dma0 := 3, int0 := 0x23, int1 := 3 }
    let s (ic : Ic) : State := { State.reset with pcb := { Pcb.reset with ic := ic } }
    let r (ic : Ic) : State := { State.reset with pcb := { Pcb.reset with ic := ic, reloc := 0x60FF } }
    ({ State.reset with cfg := only86 } : State).is186 = false ∧ (s ic).is186 = true ∧ (s ic).pcb.reloc.getLsbD 14 = false
      ∧ ({ ic with edge := 1, pin := 1 } : Ic).best false = some .int0 ∧ (ic.ctl .int0).getLsbD 5 = true
      ∧ ({ ic with reqDma := 1 } : Ic).best false = some .dma0 ∧ ic.best false = none
      ∧ (r ic).pcb.reloc.getLsbD 14 = true ∧ ({ ic with irt := 2, int0 := 1, pin := 2 } : Ic).best true = some .int0
      ∧ ({ ic with pin := 2 } : Ic).pin.getLsbD 1 = true ∧ ic.pin.getLsbD 1 = false
      ∧ ({ ic with isr := BitVec.ofNat 8 (2 ^ IcSrc.dma0.bit) } : Ic).isr.getLsbD IcSrc.dma0.bit = true := by decide

/-- A machine whose next move is a transfer of DMA 0 between memories. -/
def dmaState (count ctl : Word) : State :=
  { State.reset with moves := [.dma false], pcb := { Pcb.reset with dma0 := { DmaChan.reset with src := 0x500, dst := 0x300, count := count, ctl := ctl } } }

/-- The last unit with TC, the last unsynchronized one, and one that is not the last. -/
theorem witness_DmaMovesOneUnit :
    ∀ p ∈ [((1 : Word), (0xB607 : Word)), (1, 0xB406), (2, 0xB607), (0, 0x9006)],
      (dmaState p.1 p.2).Ordinary ∧ (dmaState p.1 p.2).is186 = true ∧ (dmaState p.1 p.2).stop = none ∧ (dmaState p.1 p.2).busFree = true
        ∧ (dmaState p.1 p.2).pcb.dmaWins false = true ∧ (dmaState p.1 p.2).dmaHalted = false
        ∧ ((dmaState p.1 p.2).pcb.dma false).ctl.getLsbD 12 = true ∧ ((dmaState p.1 p.2).pcb.dma false).ctl.getLsbD 15 = true := by
  intro p h
  simp only [List.mem_cons, List.not_mem_nil, or_false] at h
  rcases h with rfl | rfl | rfl | rfl <;> exact ⟨ordinary_of _ (by decide), by decide⟩
/-- SYN = 11 with a request at DRQ. -/
theorem witness_DmaMovesOneUnit_unused_syn :
    let s : State := { dmaState 2 0xB6C6 with pcb := { Pcb.reset with
      dma0 := { DmaChan.reset with src := 0x500, dst := 0x300, count := 2, ctl := 0xB6C6, drq := true } } }
    s.Ordinary ∧ s.pcb.dmaWins false = true ∧ (s.pcb.dma false).ctl.getLsbD 7 = true ∧ (s.pcb.dma false).ctl.getLsbD 6 = true := by
  refine ⟨ordinary_of _ (by decide), ?_, by decide, by decide⟩
  simp [Pcb.dmaWins, Pcb.dma, DmaChan.requests, DmaChan.started, Pcb.reset, DmaChan.reset]
/-- An I/O side: from a port that presents its bytes to memory, and from memory to a port outside the control block. -/
theorem witness_DmaMovesOneUnit_ports :
    let s : State := { dmaState 2 0xA606 with io := ⟨[(0x500, 0x5A)], []⟩ }
    let t : State := dmaState 2 0x1606
    s.Ordinary ∧ s.pcb.dmaWins false = true ∧ (s.pcb.dma false).ctl.getLsbD 12 = false ∧ presented s.io.inputs 0x500 = some 0x5A
      ∧ t.Ordinary ∧ t.pcb.dmaWins false = true ∧ (t.pcb.dma false).ctl.getLsbD 15 = false ∧ t.pcbIo 0x300 = false ∧ t.caHit false 0x300 = false := by
  refine ⟨ordinary_of _ (by decide), by decide, by decide, by decide, ordinary_of _ (by decide), by decide⟩
/-- A started unsynchronized channel, its rival asking at higher priority: a transfer runs in place of the CPU. -/
theorem witness_DmaMovesOneUnit_cpu :
    let s : State := { State.reset with pcb := { Pcb.reset with
      dma0 := { DmaChan.reset with ctl := 0xB606 }, dma1 := { DmaChan.reset with ctl := 0xB666, drq := true } } }
    s.moves = [] ∧ s.iopHolds = false ∧ s.ctl.latches.lock = false ∧ s.is186 = true ∧ s.dmaHalted = false ∧ (s.pcb.dma false).ctl.getLsbD 1 = true
      ∧ (s.pcb.dma false).unsynchronized = true ∧ s.pcb.dmaWins true = true ∧ s.dmaFirst = some true := by decide
/-- UCS right after RESET: the 1K block at FFC00H (Table 5-3). -/
theorem test_ucs_after_reset :
    State.reset.pcb.cs.ucs 0xFFC00 = true ∧ State.reset.pcb.cs.ucs 0xFFBFF = false := by decide
/-- LCS of 1FF8H: 128K (Table 5-4), once accessed. -/
theorem test_lcs_128k :
    let c : ChipSelects := { State.reset.pcb.cs with lmcs := 0x1FF8, lmcsUsed := true }
    c.lcs 0x1FFFF = true ∧ c.lcs 0x20000 = false ∧ { c with lmcsUsed := false }.lcs 0 = false := by decide
/-- E19 and the vectors 6 and 8 of the peripherals' list of 95_test_vectors.md: the mid-range and peripheral lines, and nothing before their registers were
accessed; with EX = 0 PCS5 and PCS6 show A1 and A2. -/
theorem test_chip_select_vectors :
    let c : ChipSelects := { State.reset.pcb.cs with
      mpcs := 0x84B8, mmcs := 0x19F8, pacs := 0x007A, lmcsUsed := true, mmcsUsed := true, mpcsUsed := true, pacsUsed := true }
    let d : ChipSelects := { c with mpcs := 0x80BA }
    (c.mcs 0 0x17FFF = false ∧ c.mcs 0 0x18000 = true ∧ c.mcs 0 0x19FFF = true ∧ c.mcs 1 0x1A000 = true ∧ c.mcs 3 0x1FFFF = true
        ∧ c.mcs 3 0x20000 = false ∧ { c with mmcsUsed := false }.mcs 0 0x18000 = false)
      ∧ d.pcs 0 false 0x3FF = false ∧ d.pcs 0 false 0x400 = true ∧ d.pcs 0 false 0x47F = true ∧ d.pcs 6 false 0x77F = true
      ∧ d.pcs 6 false 0x780 = false ∧ d.pcs 0 true 0x400 = false ∧ { c with mpcs := 0x8038 }.pcs 5 false 0x680 = false
      ∧ { c with mpcs := 0x8038 }.latchedAddress 5 0x00002 = some true ∧ { c with mpcs := 0x8038 }.latchedAddress 6 0x00002 = some false := by
  decide
/-- Register values at both ends of each table: UMCS, LMCS, the smallest and the largest mid-range block at its bases, a peripheral block in
I/O space at its highest base. -/
theorem witness_ControlBlockReadsBack_lines :
    ((0xFFFB : Word).toNat / 64 = 768 + 0xFF ∧ (0xC038 : Word).toNat / 64 = 768 + 0x00)
      ∧ ((0x0038 : Word).toNat / 64 = 0x00 ∧ (0x3FF8 : Word).toNat / 64 = 0xFF)
      ∧ ((0x8138 : Word).toNat / 256 % 128 = 2 ^ 0 ∧ (0xFFF8 : Word).toNat / 512 * 8192 % 8192 = 0)
      ∧ ((0xC038 : Word).toNat / 256 % 128 = 2 ^ 6 ∧ (0x81F8 : Word).toNat / 512 * 8192 % (8192 * 2 ^ 6) = 0)
      ∧ (0x0FF8 : Word).toNat / 64 * 1024 < 2 ^ 16 := by decide
/-- R540: a word read of LMCS through DX latches that it was accessed; of UMCS nothing. -/
theorem test_chip_select_accessed :
    (ok (.inAccDx .word) (cpu { zeros with dx := 0xFFA2 } []) fun t => t.pcb.cs.lmcsUsed && !t.pcb.cs.mmcsUsed) = true
      ∧ (ok (.outDxAcc .word) (cpu { zeros with dx := 0xFFA8 } []) fun t => t.pcb.cs.mpcsUsed && !t.pcb.cs.pacsUsed) = true
      ∧ (ok (.inAccDx .word) (cpu { zeros with dx := 0xFFA0 } []) fun t => t.pcb.cs == Pcb.reset.cs) = true := by decide
/-- A timer one event before its maximum count, and two before; timer 0 on each kind of clock, and started by its pin. -/
theorem witness_TimerEvents :
    let t : Timer := { Timer.reset with maxA := 3, mode := 0x8003 }
    ({ t with count := 2 } : Timer).count + 1 = t.maxA ∧ ({ t with count := 1 } : Timer).count + 1 ≠ t.maxA
      ∧ t.mode.getLsbD 12 = false ∧ ({ t with count := 2, mode := 0x8001 } : Timer).event.1.output = false
      ∧ ({ Pcb.reset with tmr0 := { t with pin := true }, tmr2 := t } : Pcb).clock.tmr0.count = 1
      ∧ ({ Pcb.reset with tmr0 := { t with mode := 0x8011 } } : Pcb).timerPin false true = { Pcb.reset with tmr0 := { t with mode := 0x8011, pin := true, started := true } } := by
  decide

/-! ### The 8089 -/

/-- An 8089 whose channel 1 is as given, over this memory. -/
def iopState (c : IopChan) (mem : Memory) : State := (cpu zeros mem).setChan false c

/-- A CCW of each command (reserved 2 and 4 too) at CB = 0, and an 8089 not yet initialized. -/
theorem witness_IopAttentions :
    let s : State := { iopState { IopChan.reset with ca := true } [(0, 0x99)] with iop := { (iopState { IopChan.reset with ca := true } []).iop with initialized := true } }
    s.Ordinary ∧ s.iop.initialized = true ∧ (s.mem.read 0).toNat % 8 = 1 ∧ State.reset.Ordinary ∧ State.reset.iop.initialized = false
      ∧ (∀ v ∈ [(0x98, 0), (0x99, 1), (0x9A, 2), (0x31, 1), (0x9B, 3), (0x9C, 4), (0x9D, 5), (0x9E, 6), (0x9F, 7)], v.1 % 8 = v.2)
      ∧ State.reset.cfg.hasIop = true ∧ State.reset.cfg.iop.caMemory = false := by
  refine ⟨ordinary_of _ (by decide), by decide, by decide, ordinary_of _ (by decide), by decide⟩
/-- R456: an OUT to the attention port latches the attention of its channel; Table 7-4 row 2: an attention of channel 2 goes at the
end of a transfer cycle of channel 1. -/
theorem test_iop_attention :
    (ok (.outDxAcc .byte) { cpu { zeros with dx := 0xFFE0 } [] with cfg := { defaultConfig with cpu := .i8086 } } fun t => t.iop.ch1.ca && !t.iop.ch2.ca) = true
      ∧ (let s : State := (iopState { IopChan.reset with activity := .transfer } []).setChan true { IopChan.reset with ca := true }
        iopRuns true s = true ∧ iopRuns false s = false) := by decide
/-- R451, R452: before the initialization attentions to channel 1, then to channel 2: channel 1's is served first, though the last to run was
channel 1; then nothing is remembered. -/
theorem test_iop_first_attention :
    let s : State := { (State.reset.latchCa false).latchCa true with iop := { ((State.reset.latchCa false).latchCa true).iop with lastTwo := false } }
    s.iop.initCa = some false ∧ iopRuns false s = true ∧ iopRuns true s = false
      ∧ (iopAttention false s).iop.initCa = none ∧ (iopAttention false s).iop.master = true ∧ (iopAttention false s).iop.ch2.ca = true := by decide
/-- Figure 7-47's first instruction at address 100H of system space; a fetch queue that holds no stored byte, and one that could. -/
theorem witness_IopInstructions :
    let c : IopChan := { IopChan.reset with tp := ⟨0x100, false⟩, activity := .program }
    let s := iopState c [(0x100, 0x0A), (0x101, 0x4F), (0x102, 0x0A)]
    s.Ordinary ∧ s.iopSeesAll false (spaceBytes false 4 0x100) = some ([0x0A, 0x4F, 0x0A, 0x00], [])
      ∧ iopRuns false s = true ∧ c.attends = false ∧ iopDecode [0x0A, 0x4F, 0x0A, 0x00] = some (.movMemImm .byte ⟨.pp, .offset 10⟩ 0)
      ∧ s.iop.sysWord = false ∧ (c.base .pp).tag = false ∧ (IopInstr.movImm .word .cc 0).isMov = true
      ∧ (IopInstr.dest (.movImm .word .cc 0) = some .cc) ∧ ((⟨.pp, .offset 10⟩ : IopMem).place c).2 % 2 = 0
      ∧ iopRuns false (iopState { c with activity := .armed } []) = true ∧ s.iop.badTransfer c = none := by
  refine ⟨ordinary_of _ (by decide), by decide⟩
/-- A transfer state for each clause: a first fetch of each kind, with DRQ for the source and without synchronization; a second fetch, one
that EXT prevents; waits; a store for the destination; the tests after a store, one that goes on and one that stops. -/
theorem witness_IopTransfers :
    let c : IopChan := { IopChan.reset with ga := ⟨0x200, false⟩, gb := ⟨0x300, false⟩, bc := 2, cc := 0xC008, activity := .transfer, psw := 0x43 }
    let s (c : IopChan) : State := iopState c [(0x200, 1), (0x201, 2)]
    (s c).Ordinary ∧ c.tag .ga = false ∧ c.cc.toNat / 2048 % 4 = 0 ∧ c.cycleKind = .wordWord
      ∧ ({ c with bc := 1 } : IopChan).cycleKind = .byteByte ∧ ({ c with bc := 1, cc := 0xC088 } : IopChan).cycleKind = .wordWord ∧ ({ c with psw := 0x41 } : IopChan).cycleKind = .bytesWord
      ∧ ({ c with psw := 0x42 } : IopChan).cycleKind = .wordBytes
      ∧ ({ c with cc := 0xC828, drq := true } : IopChan).cc.toNat / 2048 % 4 = 1 ∧ ({ c with cc := 0xD028 } : IopChan).cc.toNat / 2048 % 4 = 2
      ∧ (({ c with cc := 0xC828, ext := true } : IopChan).waits = true ∧ ({ c with cc := 0xC828, ext := true } : IopChan).extHit = true)
      ∧ (s c).iopSeesAll false (spaceBytes false 2 0x200) = some ([1, 2], [])
      ∧ ((iopTransfer false (s c)).chan false).hold = some ⟨0x0201, 2, .wordWord, false, .store⟩ := by
  refine ⟨ordinary_of _ (by decide), by decide⟩
/-- Ports of the CPU's I/O space and addresses of the 8089's own bus (R464): what is read there, and what a store shows. -/
theorem witness_IopTransfers_io :
    let c : IopChan := { IopChan.reset with ga := ⟨0x20, true⟩, gb := ⟨0x300, false⟩, cc := 0x8008, bc := 2, activity := .transfer, psw := 0x40 }
    let s : State := { iopState c [] with io := ⟨[(0x20, 0x5A)], []⟩ }
    let r : State := { s with cfg := { s.cfg with iop := { s.cfg.iop with remote := true, regions := [⟨0x20, 1, .device⟩] } }
                              iop := { s.iop with remoteIn := [(0x20, 0x66)] } }
    s.Ordinary ∧ r.Ordinary ∧ s.iopSeesAll true (spaceBytes true 1 0x20) = some ([0x5A], [.portRead 0x20 0x5A])
      ∧ r.iopSees true 0x20 = some (0x66, [.remoteRead 0x20 0x66]) ∧ r.iopSees true 0x21 = some (0, [])
      ∧ ((iopTransfer false s).chan false).hold = some ⟨0x5A, 1, .byteByte, false, .store⟩
      ∧ (iopTransfer false s).io.trace = [.portRead 0x20 0x5A] := by
  refine ⟨ordinary_of _ (by decide), ordinary_of _ (by decide), by decide⟩
/-- R515 step 2: between the two fetches of a source-synchronized cycle DRQ falls and EXT comes, so the second is not run. -/
theorem test_iop_ext_between_fetches :
    let c : IopChan := { IopChan.reset with
      ga := ⟨0x200, false⟩, gb := ⟨0x300, false⟩, bc := 8, cc := 0x8848, activity := .transfer, psw := 0x41, drq := true }
    let t := iopTransfer false (iopState c [(0x200, 7)])
    let u := iopTransfer false (t.setChan false { t.chan false with drq := false, ext := true })
    (t.chan false).hold = some ⟨7, 1, .bytesWord, false, .fetch⟩ ∧ (u.chan false).hold = some ⟨7, 1, .bytesWord, true, .store⟩
      ∧ (iopTransfer false u).mem = [(0x200, 7), (0x300, 7)] := by decide
/-- R519, TS = 1: the byte count of 1 does not cut the one cycle to a byte: it goes on with a word store, then ends at offset 0, BC wrapped. -/
theorem test_iop_single_ignores_count :
    let c : IopChan := { IopChan.reset with
      ga := ⟨0x200, false⟩, gb := ⟨0x300, false⟩, bc := 1, cc := 0xC098, activity := .transfer, psw := 0x43 }
    let t := iopTransfer false (iopTransfer false (iopTransfer false (iopState c [(0x200, 1), (0x201, 2)])))
    t.mem = [(0x200, 1), (0x201, 2), (0x300, 1), (0x301, 2)]
      ∧ t.chan false = { c with ga := ⟨0x202, false⟩, gb := ⟨0x302, false⟩, bc := 0xFFFF, activity := .program, psw := 0x03 } := by decide
/-- Table 7-9, memory to port, ended by EXT: decremented by 1 the source pointer points to the last byte stored, after a B/B→W cycle cut
between its fetches, a whole one, and a W→B/B cycle cut between its stores. -/
theorem test_iop_ext_last_byte :
    let ends (ga : Phys) (h : IopHold) : IopPtr := ((iopTransfer false (iopState { IopChan.reset with
      ga := ⟨ga, false⟩, gb := ⟨0x30, true⟩, cc := 0x5020, activity := .transfer, psw := 0x41, hold := some h } [])).chan false).ga
    ends 0x201 ⟨7, 1, .bytesWord, true, .check⟩ = ⟨0x201, false⟩ ∧ ends 0x202 ⟨0x0807, 2, .bytesWord, true, .check⟩ = ⟨0x202, false⟩
      ∧ ends 0x202 ⟨0x0807, 2, .wordBytes, true, .check⟩ = ⟨0x201, false⟩ := by decide
/-- Steps 5 to 8 of R515: an EXT in the DRQ wait of the destination is remembered with the bytes; at DRQ they are stored, then the transfer
ends at its offset. -/
theorem witness_IopTransfers_held :
    let c : IopChan := { IopChan.reset with
      ga := ⟨0x202, false⟩, gb := ⟨0x300, false⟩, cc := 0xD040, activity := .transfer, psw := 0x43
      hold := some ⟨0x0201, 2, .wordWord, false, .store⟩ }
    let s (c : IopChan) : State := iopState c []
    let t := iopTransfer false (s { c with ext := true })
    (s c).Ordinary ∧ t.mem = [] ∧ (t.chan false).hold = some ⟨0x0201, 2, .wordWord, true, .store⟩
      ∧ (let u := iopTransfer false (t.setChan false { t.chan false with drq := true })
        u.mem = [(0x300, 1), (0x301, 2)] ∧ (u.chan false).hold = some ⟨0x0201, 2, .wordWord, true, .check⟩
          ∧ ((iopTransfer false u).chan false).tp.addr = 4 ∧ ((iopTransfer false u).chan false).activity = .program)
      ∧ (let h : IopHold := ⟨7, 1, .bytesWord, true, .check⟩
        ((iopTransfer false (s { c with hold := some h })).chan false).tp.addr = 4)
      ∧ ((iopTransfer false (s { c with cc := 0xD002, mc := 0xFF01, hold := some ⟨0x0201, 2, .wordBytes, false, .check⟩ })).chan false).tp.addr = 4
      ∧ ((iopTransfer false (s { c with hold := some ⟨0x0201, 2, .wordBytes, false, .check⟩ })).chan false).hold
        = some ⟨2, 1, .wordBytes, false, .store⟩ := by
  refine ⟨ordinary_of _ (by decide), by decide⟩

end Sys2Proof.Tests
end

/-! SUPPORT. Registers and their halves (10_state.md R14), and what RESET leaves (10_state.md R29; 70_reset_and_hazards.md R290, R291). -/

namespace Sys2Proof.Machine

/-! ## Half registers, R14 -/

/-- The register that two bytes make has the high one at weight 256. -/
theorem toNat_eq_of_eq_mk {w : Word} {h l : Byte} (e : w = Word.mk h l) : w.toNat = 256 * h.toNat + l.toNat := by
  rw [e, Word.toNat_mk, Nat.mul_comm]

/-- Settles O5: each clause is the law of `Regs.set`, `Regs.set8` or `Word.mk` that it names. -/
theorem halfRegisters : Obligations.HalfRegisters := by
  intro g r v
  obtain ⟨sp, bp, si, di⟩ := g.set8_whole r v
  obtain ⟨ax, cx, dx, bx⟩ := g.get_eq_mk
  refine ⟨fun p x => ⟨?_, fun q hq => ?_⟩, ?_, fun q hq => ?_, sp, bp, si, di, toNat_eq_of_eq_mk ax, toNat_eq_of_eq_mk bx,
    toNat_eq_of_eq_mk cx, toNat_eq_of_eq_mk dx⟩
  · rw [Regs.get_set, if_pos rfl]
  · rw [Regs.get_set, if_neg hq]
  · rw [Regs.get8_set8, if_pos rfl]
  · rw [Regs.get8_set8, if_neg hq]

/-! ## The 8087's store that RESET abandons, 47_npx_8087_state.md R317 -/

/-- The bytes of a raced or aborted store keep what every bus access keeps: the CPU, and of the other agents what `OthersKept` names. -/
theorem npxScatter_keeps (k : Nat) (a : Phys) (s : State) : AccessKeeps s (npxScatter k a s) := by
  induction k generalizing a s with
  | zero => exact .refl s
  | succ k ih =>
    have drawn : AccessKeeps s s.draw := .of_mem_fresh s s.mem _
    have written (b : Byte) : AccessKeeps s.draw (busWrite8 a b s.draw) := (busWrite8_keeps a b s.draw).1
    exact (drawn.trans (written _)).trans (ih (a + 1) _)

theorem npxAbort_none {s : State} (h : s.npx.running = none) : npxAbort s = s := by
  simp [npxAbort, h]

theorem npxAbort_keeps (s : State) : AccessKeeps s (npxAbort s) := by
  cases h : s.npx.running with
  | none => rw [npxAbort_none h]; exact .refl s
  | some j => simpa [npxAbort, h] using npxScatter_keeps j.op.stores (j.addr.getD 0) s

@[simp] theorem npxAbort_stop (s : State) : (npxAbort s).stop = s.stop := by
  cases h : s.npx.running <;> simp [npxAbort, h]

@[simp] theorem npxAbort_cfg (s : State) : (npxAbort s).cfg = s.cfg := (npxAbort_keeps s).others.1

@[simp] theorem npxAbort_moves (s : State) : (npxAbort s).moves = s.moves := by
  obtain ⟨-, -, moves, -⟩ := (npxAbort_keeps s).others
  exact moves

/-- The data registers and the exception pointers of the 8087 are kept. -/
theorem npxAbort_npx_registers (s : State) :
    (npxAbort s).npx.r = s.npx.r ∧ (npxAbort s).npx.xip = s.npx.xip ∧ (npxAbort s).npx.xop = s.npx.xop
      ∧ (npxAbort s).npx.xopc = s.npx.xopc := by
  obtain ⟨-, -, -, -, npx, -⟩ := (npxAbort_keeps s).others
  rw [← npx]
  exact ⟨rfl, rfl, rfl, rfl⟩

/-! ## What RESET leaves -/

/-- The values of a machine right after RESET: 10_state.md R29; 70_reset_and_hazards.md R290, R291; 61_186_peripherals.md R532, R540,
R595; 47_npx_8087_state.md R317; 49_iop_8089.md R451. -/
def State.HasResetValues (t : State) : Prop :=
  t.flags = Flags.clear ∧ t.ip = 0 ∧ t.segs = { es := 0, cs := 0xFFFF, ss := 0, ds := 0 }
    ∧ (t.ctl.nmiPending = false ∧ t.ctl.intInhibit = false ∧ t.ctl.intrDelay = false ∧ t.ctl.phase = .fresh ∧ t.ctl.latches = .none)
    ∧ t.pcb.reloc = 0x20FF ∧ t.pcb.cs = ⟨0xFFFB, 0x0038, 0x01F8, 0x0038, 0x8038, false, false, false, false⟩
    ∧ t.pcb.dma0.ctl.getLsbD 1 = false ∧ t.pcb.dma1.ctl.getLsbD 1 = false
    ∧ (∀ u : IcSrc, t.pcb.ic.ctl u = 0x000F)
    ∧ t.pcb.ic = { t.pcb.ic with prm := 7, isr := 0, reqDma := 0, irt := 0, edge := 0, dhlt := false }
    ∧ t.npx.cw = 0x03FF ∧ t.npx.sw &&& 0xB8BF = 0 ∧ t.npx.tw = 0xFFFF ∧ t.npx.running = none ∧ t.npx.queued = none
    ∧ t.iop.initialized = false ∧ t.iop.initCa = none
    ∧ ∀ ch, (t.chan ch).ca = false ∧ (t.chan ch).activity = .idle ∧ (t.chan ch).locked = false ∧ (t.chan ch).sintr = false

/-- RESET gives these values at every state: each is written as a constant. -/
theorem resetMachine_hasResetValues (s : State) : (resetMachine s).HasResetValues := by
  have controls (u : IcSrc) : (resetMachine s).pcb.ic.ctl u = 0x000F := by cases u <;> rfl
  have channels (ch : Bool) : ((resetMachine s).chan ch).ca = false ∧ ((resetMachine s).chan ch).activity = .idle
      ∧ ((resetMachine s).chan ch).locked = false ∧ ((resetMachine s).chan ch).sintr = false := by
    have noRequest : IopChan.reset.sintr = false := by decide
    cases ch <;> exact ⟨rfl, rfl, rfl, noRequest⟩
  have stopped : DmaChan.reset.ctl.getLsbD 1 = false := by decide
  have status : (0 : Word) &&& 0xB8BF = 0 := by decide
  exact ⟨rfl, rfl, rfl, ⟨rfl, rfl, rfl, rfl, rfl⟩, rfl, rfl, stopped, stopped, controls, rfl, rfl, status, rfl, rfl, rfl, rfl, rfl, channels⟩

/-- RESET of the machine as it is after power-on changes nothing, so the power-on state has whatever every RESET leaves. -/
theorem resetMachine_reset : resetMachine State.reset = State.reset := rfl

theorem reset_hasResetValues : State.reset.HasResetValues := resetMachine_reset ▸ resetMachine_hasResetValues State.reset

/-! ### The invariants at the power-on state -/

theorem reset_memoryCanonical : State.reset.MemoryCanonical := ⟨Memory.wf_reset, rfl, fun _ h => absurd h List.not_mem_nil⟩

theorem reset_hardWired : State.reset.pcb.HardWired := by
  unfold Pcb.HardWired
  decide

theorem reset_noStalePrefix : State.reset.NoStalePrefix := fun _ => rfl

/-- No request stands, no operation runs and none waits. -/
theorem reset_busyWithRequest : State.reset.npx.BusyWithRequest := by
  refine ⟨fun h => ?_, fun h => absurd rfl h, fun q h => ?_⟩
  · exact absurd h (by decide)
  · exact absurd h (Option.some_ne_none q).symm

/-! ### What a RESET move keeps -/

@[simp] theorem resetMachine_stop (s : State) : (resetMachine s).stop = s.stop := npxAbort_stop s
@[simp] theorem resetMachine_cfg (s : State) : (resetMachine s).cfg = s.cfg := npxAbort_cfg s
@[simp] theorem resetMachine_moves (s : State) : (resetMachine s).moves = s.moves := npxAbort_moves s

/-- Memory is kept when no operation of the 8087 runs, whose store RESET would abandon. -/
theorem resetMachine_mem {s : State} (h : s.npx.running = none) : (resetMachine s).mem = s.mem := by
  have kept : (npxAbort s).mem = s.mem := by rw [npxAbort_none h]
  exact kept

/-- The data registers and the exception pointers of the 8087 are kept (DESIGN CHOICE, logs 36 and 7). -/
theorem resetMachine_npx_registers (s : State) :
    (resetMachine s).npx.r = s.npx.r ∧ (resetMachine s).npx.xip = s.npx.xip ∧ (resetMachine s).npx.xop = s.npx.xop
      ∧ (resetMachine s).npx.xopc = s.npx.xopc := npxAbort_npx_registers s

/-- A step whose move is RESET, with no refusal pending, answers the machine reset. -/
theorem step_reset {s : State} {rest : List Move} (hm : s.moves = .reset :: rest) (hs : s.stop = none) :
    step s = .next (resetMachine { s with moves := rest }) := by
  have stopped : (resetMachine { s with moves := rest }).stop = none := by rw [resetMachine_stop]; exact hs
  simp only [step, hm, applyMove, settle, stopped]

/-- Settles O39: the values and invariants of the power-on state, and the RESET move by `step_reset`. -/
theorem resetValues : Obligations.ResetValues := by
  refine ⟨⟨reset_hasResetValues, reset_memoryCanonical, reset_hardWired, reset_noStalePrefix, reset_busyWithRequest⟩,
    fun s rest hm hs => ⟨resetMachine { s with moves := rest }, step_reset hm hs, resetMachine_hasResetValues _, ?_⟩⟩
  exact ⟨fun idle => resetMachine_mem idle, resetMachine_cfg _, resetMachine_moves _, resetMachine_npx_registers _⟩

end Sys2Proof.Machine

/-! SUPPORT. What the agents beside the CPU leave alone (70_reset_and_hazards.md R307; 20_memory.md R30): a DMA channel, the 8087, the
8089. -/

namespace Sys2Proof.Machine

/-! ## What an agent keeps -/

/-- An agent beside the CPU keeps the CPU, the configuration and the schedule, and memory in its canonical form. -/
structure AgentKeeps (s t : State) : Prop where
  regs  : t.regs = s.regs
  segs  : t.segs = s.segs
  ip    : t.ip = s.ip
  flags : t.flags = s.flags
  ctl   : t.ctl = s.ctl
  cfg   : t.cfg = s.cfg
  moves : t.moves = s.moves
  canonical : s.MemoryCanonical → t.MemoryCanonical

variable {s t u : State}

theorem AgentKeeps.refl (s : State) : AgentKeeps s s := ⟨rfl, rfl, rfl, rfl, rfl, rfl, rfl, id⟩

theorem AgentKeeps.trans (h : AgentKeeps s t) (k : AgentKeeps t u) : AgentKeeps s u :=
  ⟨k.regs.trans h.regs, k.segs.trans h.segs, k.ip.trans h.ip, k.flags.trans h.flags, k.ctl.trans h.ctl, k.cfg.trans h.cfg,
    k.moves.trans h.moves, k.canonical ∘ h.canonical⟩

/-- An update of what `AgentKeeps` does not name. -/
theorem AgentKeeps.then_update (h : AgentKeeps s t)
    (hu : u = { t with pins := u.pins, io := u.io, pcb := u.pcb, npx := u.npx, iop := u.iop, fresh := u.fresh, stop := u.stop, turns := u.turns })
    (hr : u.iop.remoteIo = t.iop.remoteIo) : AgentKeeps s u := by
  have hm : u.mem = t.mem := by rw [hu]
  refine h.trans ⟨?_, ?_, ?_, ?_, ?_, ?_, ?_, fun c => c.of_eq hm hr⟩ <;> rw [hu]

/-- An access to memory. -/
theorem AgentKeeps.then_access {l : List Nat} (h : AgentKeeps s t) (k : AccessKeeps t u ∧ MemoryWritten l t u) : AgentKeeps s u :=
  h.trans ⟨k.1.regs, k.1.segs, k.1.ip, k.1.flags, k.1.ctl, k.1.others.1, k.1.others.2.2.1, AccessKeeps.canonical k⟩

/-- An access to a port, which leaves the private memory of the 8089 as it is. -/
theorem AgentKeeps.then_port (h : AgentKeeps s t) (k : PortKeeps t u) (hr : u.iop.remoteIo = t.iop.remoteIo) : AgentKeeps s u :=
  have closed (c : t.MemoryCanonical) : u.mem.wf = true ∧ ∀ x ∈ u.mem, x.1 < 2 ^ 20 :=
    k.mem.closed (fun m => m.wf = true ∧ ∀ x ∈ m, x.1 < 2 ^ 20)
      (fun _ a v hm => ⟨Memory.wf_write hm.1 _ _, Memory.bound_write v a.isLt hm.2⟩) ⟨c.1, c.2.2⟩
  h.trans ⟨k.regs, k.segs, k.ip, k.flags, k.ctl, k.cfg, k.moves, fun c => ⟨(closed c).1, hr ▸ c.2.1, (closed c).2⟩⟩

/-! ## Bus cycles -/

theorem AgentKeeps.then_draw (h : AgentKeeps s t) : AgentKeeps s t.draw := h.then_update rfl rfl

theorem AgentKeeps.then_refuse (h : AgentKeeps s t) (r : Refusal) : AgentKeeps s (t.refuse r) := h.then_update rfl rfl

theorem AgentKeeps.then_yieldBus (h : AgentKeeps s t) (joined : Bool) : AgentKeeps s (t.yieldBus joined) :=
  h.then_access (yieldBus_keeps joined t)

theorem AgentKeeps.then_yieldHalf (h : AgentKeeps s t) (odd : Bool) : AgentKeeps s (t.yieldHalf odd) :=
  h.then_access (yieldHalf_keeps odd t)

theorem AgentKeeps.then_busRead8 (h : AgentKeeps s t) (a : Phys) : AgentKeeps s (busRead8 a t).2 :=
  have k := busRead8_keeps a t
  h.then_access ⟨k.1, .of_eq k.2⟩

theorem AgentKeeps.then_busWrite8 (h : AgentKeeps s t) (a : Phys) (v : Byte) : AgentKeeps s (busWrite8 a v t) :=
  have k := busWrite8_keeps a v t
  h.then_access ⟨k.1, .of_write a v k.2⟩

theorem AgentKeeps.then_portRead8 (h : AgentKeeps s t) (p : Word) : AgentKeeps s (portRead8 p t).2 := by
  obtain ⟨n, tr, e⟩ := portRead8_only p t
  rw [e]
  exact h.then_update rfl rfl

theorem touchCa_remoteIo (m : Bool) (a : Nat) (s : State) : (s.touchCa m a).iop.remoteIo = s.iop.remoteIo := by
  unfold State.touchCa State.latchCa
  split
  · split <;> rfl
  · rfl

theorem AgentKeeps.then_inCycle (h : AgentKeeps s t) (p : Word) : AgentKeeps s (inCycle p t).2 := by
  refine h.then_port (inCycle_keeps p t) ?_
  unfold inCycle
  split
  · rfl
  · obtain ⟨n, tr, e⟩ := portRead8_only p t
    rw [e]

theorem AgentKeeps.then_outCycle (h : AgentKeeps s t) (p : Word) (v : Byte) : AgentKeeps s (outCycle p v t) := by
  refine h.then_port (outCycle_keeps p v t) ?_
  unfold outCycle
  split
  · rfl
  · exact touchCa_remoteIo ..

theorem AgentKeeps.then_pcbRead (h : AgentKeeps s t) (off : Nat) : AgentKeeps s (t.pcbRead off).2 := by
  obtain ⟨p, n, e⟩ := pcbRead_only off t
  rw [e]
  exact h.then_update rfl rfl

theorem AgentKeeps.then_pcbWrite (h : AgentKeeps s t) (off : Nat) (v : Word) : AgentKeeps s (t.pcbWrite off v) := by
  obtain ⟨p, n, r, e⟩ := pcbWrite_only off v t
  rw [e]
  exact h.then_update rfl rfl

theorem AgentKeeps.then_ioRead8 (h : AgentKeeps s t) (p : Word) : AgentKeeps s (ioRead8 p t).2 :=
  (h.then_yieldBus false).then_inCycle p

theorem AgentKeeps.then_ioWrite8 (h : AgentKeeps s t) (p : Word) (v : Byte) : AgentKeeps s (ioWrite8 p v t) :=
  (h.then_yieldBus false).then_outCycle p v

theorem AgentKeeps.then_ioRead16 (h : AgentKeeps s t) (p : Word) : AgentKeeps s (ioRead16 p t).2 := by
  have k := h.then_yieldBus false
  unfold ioRead16 inWord
  split
  · exact k.then_pcbRead _
  · exact ((k.then_inCycle p).then_yieldHalf _).then_inCycle _

theorem AgentKeeps.then_ioWrite16 (h : AgentKeeps s t) (p : Word) (v : Word) : AgentKeeps s (ioWrite16 p v t) := by
  have k := h.then_yieldBus false
  unfold ioWrite16 outWord
  split
  · exact k.then_pcbWrite _ _
  · exact ((k.then_outCycle p _).then_yieldHalf _).then_outCycle _ _

/-! ## The integrated DMA channels, 61_186_peripherals.md R550 to R552 -/

theorem AgentKeeps.then_dmaFetch (h : AgentKeeps s t) (mem : Bool) (w : Width) (a : Phys) : AgentKeeps s (dmaFetch mem w a t).2 := by
  cases w <;> cases mem
  · exact h.then_ioRead8 _
  · exact h.then_access (memRead8_keeps a t)
  · exact h.then_ioRead16 _
  · exact h.then_access (memRead16_keeps a (a + 1) t)

theorem AgentKeeps.then_dmaDeposit (h : AgentKeeps s t) (mem : Bool) (w : Width) (a : Phys) (v : BitVec w.bits) :
    AgentKeeps s (dmaDeposit mem w a v t) := by
  cases w <;> cases mem
  · exact h.then_ioWrite8 _ _
  · exact h.then_access (memWrite8_keeps a v t)
  · exact h.then_ioWrite16 _ _
  · exact h.then_access (memWrite16_keeps a (a + 1) v t)

theorem AgentKeeps.then_dmaTerminal (h : AgentKeeps s t) (ch : Bool) : AgentKeeps s (dmaTerminal ch t) := by
  unfold dmaTerminal
  dsimp only
  split <;> split <;> exact h.then_update rfl rfl

theorem AgentKeeps.then_dmaTransfer (h : AgentKeeps s t) (ch : Bool) : AgentKeeps s (dmaTransfer ch t) := by
  have transferred (c : DmaChan) := (h.then_dmaFetch (c.ctl.getLsbD 12) c.width c.src).then_dmaDeposit (c.ctl.getLsbD 15) c.width c.dst
    (dmaFetch (c.ctl.getLsbD 12) c.width c.src t).1
  have moved := transferred (t.pcb.dma ch)
  unfold dmaTransfer
  dsimp only
  generalize dmaDeposit _ _ _ _ _ = m at moved ⊢
  split
  · refine .then_dmaTerminal ?_ ch
    exact moved.then_update rfl rfl
  · exact moved.then_update rfl rfl

theorem AgentKeeps.then_dmaStep (h : AgentKeeps s t) (ch : Bool) : AgentKeeps s (dmaStep ch t) := by
  unfold dmaStep
  split
  · exact h.then_dmaTransfer ch
  · exact h

/-! ## The 8087, 47_npx_8087_state.md R312, R315 -/

theorem AgentKeeps.then_setNpx (h : AgentKeeps s t) (n : Npx) : AgentKeeps s (t.setNpx n) := h.then_update rfl rfl

theorem AgentKeeps.then_npxRead (h : AgentKeeps s t) (k : Nat) (a : Phys) : AgentKeeps s (npxRead k a t).2 := by
  induction k generalizing a t with
  | zero => exact h
  | succ k ih => exact ih (h.then_busRead8 a) (a + 1)

theorem AgentKeeps.then_npxWrite (h : AgentKeeps s t) (k : Nat) (a : Phys) (v : Nat) : AgentKeeps s (npxWrite k a v t) := by
  induction k generalizing a v t with
  | zero => exact h
  | succ k ih => exact ih (h.then_busWrite8 a _) (a + 1) _

theorem AgentKeeps.then_npxScatter (h : AgentKeeps s t) (k : Nat) (a : Phys) : AgentKeeps s (npxScatter k a t) := by
  induction k generalizing a t with
  | zero => exact h
  | succ k ih => exact ih (h.then_draw.then_busWrite8 a _) (a + 1)

theorem AgentKeeps.then_npxPut (h : AgentKeeps s t) (raced : Bool) (k : Nat) (a : Phys) (v : Nat) : AgentKeeps s (npxPut raced k a v t) := by
  cases raced
  · exact h.then_npxWrite k a v
  · exact h.then_npxScatter k a

theorem AgentKeeps.then_npxAbort (h : AgentKeeps s t) : AgentKeeps s (npxAbort t) := by
  unfold npxAbort
  split
  · exact h
  · exact h.then_npxScatter _ _

theorem AgentKeeps.then_npxStore (h : AgentKeeps s t) (f : NpxFmt) (pop raced : Bool) (a : Phys) (free : NpxFree) :
    AgentKeeps s (npxStore f pop raced a free t) := by
  unfold npxStore
  dsimp only
  generalize (if t.npx.isEmpty 0 then ⟨fmtIndef free.real f, exI, 0⟩ else storeAnswer t.npx.cw free.real f (t.npx.st 0)) = answer
  split
  · exact h.then_setNpx _
  · exact (h.then_npxPut _ _ _ _).then_setNpx _

theorem AgentKeeps.then_npxStoreSw (h : AgentKeeps s t) (a : Phys) (free : NpxFree) : AgentKeeps s (npxStoreSw a free t) := by
  unfold npxStoreSw
  exact h.then_npxWrite 2 a _

theorem AgentKeeps.then_npxSave (h : AgentKeeps s t) (raced : Bool) (a : Phys) (free : NpxFree) : AgentKeeps s (npxSave raced a free t) := by
  unfold npxSave
  exact ((h.then_npxPut raced 14 a _).then_npxPut raced 80 (a + 14) _).then_setNpx _

theorem AgentKeeps.then_npxStoreEnv (h : AgentKeeps s t) (raced : Bool) (a : Phys) (free : NpxFree) :
    AgentKeeps s (npxStoreEnv raced a free t) := by
  unfold npxStoreEnv
  exact (h.then_npxPut raced 14 a _).then_setNpx _

theorem AgentKeeps.then_npxReadEnv (h : AgentKeeps s t) (first : TempReal) (a : Phys) : AgentKeeps s (npxReadEnv first a t).2 := by
  unfold npxReadEnv
  dsimp only
  exact h.then_npxRead 12 (a + 2)

theorem AgentKeeps.then_npxLoadEnv (h : AgentKeeps s t) (first : TempReal) (a : Phys) : AgentKeeps s (npxLoadEnv first a t) := by
  unfold npxLoadEnv
  dsimp only
  exact (h.then_npxReadEnv first a).then_setNpx _

theorem AgentKeeps.then_npxRestore (h : AgentKeeps s t) (first : TempReal) (a : Phys) : AgentKeeps s (npxRestore first a t) := by
  unfold npxRestore
  dsimp only
  exact ((h.then_npxReadEnv first a).then_npxRead 80 (a + 14)).then_setNpx _

theorem AgentKeeps.then_npxInit (h : AgentKeeps s t) (free : NpxFree) : AgentKeeps s (npxInit free t) :=
  h.then_npxAbort.then_setNpx _

theorem AgentKeeps.then_npxRun (h : AgentKeeps s t) (j : NpxJob) : AgentKeeps s (npxRun j t) := by
  have drawn : AgentKeeps s (drawNpx t).2 := h.then_update rfl rfl
  have loaded : AgentKeeps s (if j.raced then drawReal (drawNpx t).2 else (j.data, (drawNpx t).2)).2 := by
    split
    · exact drawn.then_draw
    · exact drawn
  unfold npxRun
  dsimp only
  generalize (if j.raced then drawReal (drawNpx t).2 else (j.data, (drawNpx t).2)) = p at loaded ⊢
  split
  case h_1 => exact loaded.then_npxStore _ _ _ _ _
  case h_2 => exact loaded.then_npxInit _
  case h_6 => exact (loaded.then_npxWrite 2 _ _).then_setNpx _
  case h_7 => exact (loaded.then_npxStoreSw _ _).then_setNpx _
  case h_9 => exact loaded.then_npxSave _ _ _
  case h_10 => exact loaded.then_npxRestore _ _
  case h_11 => exact loaded.then_npxStoreEnv _ _ _
  case h_12 => exact loaded.then_npxLoadEnv _ _
  all_goals exact loaded.then_setNpx _

theorem AgentKeeps.then_captureJob (h : AgentKeeps s t) (op : NpxOp) (opcode : BitVec 11) (addr : Option Phys) (first : Word) :
    AgentKeeps s (captureJob op opcode addr first t).2 :=
  h.then_npxRead _ _

theorem AgentKeeps.then_npxOverQueue (h : AgentKeeps s t) (second : Option NpxJob) : AgentKeeps s (npxOverQueue second t) := by
  unfold npxOverQueue
  split
  · exact h.then_setNpx _
  · exact h.then_draw.then_setNpx _

/-- What the 8087 does while it is executing, unless it refuses (R315). -/
theorem AgentKeeps.then_npxWhileRunning (h : AgentKeeps s t) {j : NpxJob} (e : npxWhileRunning j t = .next u) : AgentKeeps s u := by
  unfold npxWhileRunning at e
  split at e <;> cases e
  · exact h.then_npxRun j
  · exact (h.then_setNpx _).then_npxRun j
  · exact (h.then_setNpx _).then_npxRun j
  · exact (h.then_npxRun j).then_npxOverQueue none
  · exact (h.then_npxRun j).then_npxOverQueue none
  · exact h.then_npxOverQueue _
  · exact h.then_npxOverQueue _

theorem AgentKeeps.then_npxStart (h : AgentKeeps s t) (j : NpxJob) : AgentKeeps s (npxStart j t) := by
  unfold npxStart
  dsimp only
  split
  · exact (h.then_setNpx _).then_setNpx _
  · exact (h.then_setNpx _).then_npxRun j

/-- An operation handed to the 8087, unless it is refused. -/
theorem AgentKeeps.then_npxIssue (h : AgentKeeps s t) {op : NpxOp} {opcode : BitVec 11} {addr : Option Phys} {first : Word}
    (e : npxIssue op opcode addr first t = .next u) : AgentKeeps s u := by
  have captured := h.then_captureJob op opcode addr first
  unfold npxIssue at e
  split at e
  · exact captured.then_npxWhileRunning e
  · split at e <;> cases e
    exact captured.then_npxStart _

theorem AgentKeeps.then_npxComplete (h : AgentKeeps s t) : AgentKeeps s (npxComplete t) := by
  unfold npxComplete
  split
  · exact h
  · have ran (j : NpxJob) := (h.then_setNpx { t.npx with running := none, queued := none }).then_npxRun j
    dsimp only
    split
    · exact ran _
    · exact (ran _).then_npxRun _

theorem AgentKeeps.then_npxProceed (h : AgentKeeps s t) (free : Bool) : AgentKeeps s (npxProceed free t) := by
  unfold npxProceed
  split
  · exact h.then_npxComplete
  · exact h

end Sys2Proof.Machine

namespace Sys2Proof.Machine

variable {s t u : State}

/-! ## The 8089: bus cycles, 49_iop_8089.md R464 -/

theorem AgentKeeps.then_setChan (h : AgentKeeps s t) (ch : Bool) (c : IopChan) : AgentKeeps s (t.setChan ch c) :=
  h.then_update rfl (by cases ch <;> rfl)

theorem AgentKeeps.then_iopYield (h : AgentKeeps s t) (space : Bool) : AgentKeeps s (t.iopYield space) :=
  h.then_access (iopYield_keeps space t)

theorem AgentKeeps.then_iopYieldHalf (h : AgentKeeps s t) (space odd : Bool) : AgentKeeps s (t.iopYieldHalf space odd) :=
  h.then_access (iopYieldHalf_keeps space odd t)

theorem AgentKeeps.then_remoteRead8 (h : AgentKeeps s t) (a : Nat) : AgentKeeps s (remoteRead8 a t).2 := by
  obtain ⟨n, es, e⟩ := remoteRead8_only a t
  rw [e]
  exact h.then_update rfl rfl

/-- The one access that writes the private memory: that stays in canonical form too. -/
theorem AgentKeeps.then_remoteWrite8 (h : AgentKeeps s t) (a : Nat) (v : Byte) : AgentKeeps s (remoteWrite8 a v t) := by
  obtain ⟨m, es, hm, e⟩ := remoteWrite8_only a v t
  have wf (c : t.MemoryCanonical) : m.wf = true := by
    rcases hm with rfl | rfl
    · exact c.2.1
    · exact Memory.wf_write c.2.1 a v
  rw [e]
  exact h.trans ⟨rfl, rfl, rfl, rfl, rfl, rfl, rfl, fun c => ⟨c.1, wf c, c.2.2⟩⟩

theorem AgentKeeps.then_iopReadCycle (h : AgentKeeps s t) (space : Bool) (a : Phys) : AgentKeeps s (iopReadCycle space a t).2 := by
  unfold iopReadCycle
  split
  · exact h.then_busRead8 a
  · split
    · exact h.then_remoteRead8 _
    · exact h.then_portRead8 _

theorem AgentKeeps.then_iopWriteCycle (h : AgentKeeps s t) (space : Bool) (a : Phys) (v : Byte) :
    AgentKeeps s (iopWriteCycle space a v t) := by
  unfold iopWriteCycle
  split
  · exact h.then_busWrite8 a v
  · split
    · exact h.then_remoteWrite8 _ v
    · exact h.then_update rfl rfl

theorem AgentKeeps.then_iopRead8 (h : AgentKeeps s t) (space : Bool) (a : Phys) : AgentKeeps s (iopRead8 space a t).2 :=
  (h.then_iopYield space).then_iopReadCycle space a

theorem AgentKeeps.then_iopWrite8 (h : AgentKeeps s t) (space : Bool) (a : Phys) (v : Byte) : AgentKeeps s (iopWrite8 space a v t) :=
  (h.then_iopYield space).then_iopWriteCycle space a v

theorem AgentKeeps.then_iopRead (h : AgentKeeps s t) (space : Bool) (k : Nat) (a : Phys) : AgentKeeps s (iopRead space k a t).2 := by
  induction k generalizing a t with
  | zero => exact h
  | succ k ih => exact ih (h.then_iopReadCycle space a) (a + 1)

theorem AgentKeeps.then_iopRead16 (h : AgentKeeps s t) (space : Bool) (a : Phys) : AgentKeeps s (iopRead16 space a t).2 :=
  ((h.then_iopRead8 space a).then_iopYieldHalf space _).then_iopReadCycle space (a + 1)

theorem AgentKeeps.then_iopWrite16 (h : AgentKeeps s t) (space : Bool) (a : Phys) (v : Word) : AgentKeeps s (iopWrite16 space a v t) :=
  ((h.then_iopWrite8 space a v.lo).then_iopYieldHalf space _).then_iopWriteCycle space (a + 1) v.hi

/-! ## Its operands and results, R466, R467 -/

theorem AgentKeeps.then_iopLocate (h : AgentKeeps s t) (ch : Bool) (m : IopMem) (n : Nat) : AgentKeeps s (iopLocate ch m n t).2 :=
  h.then_setChan ch _

theorem AgentKeeps.then_iopReadAt (h : AgentKeeps s t) (w : Width) (p : IopPtr) : AgentKeeps s (iopReadAt w p t).2 := by
  cases w
  · exact h.then_iopRead8 _ _
  · exact h.then_iopRead16 _ _

theorem AgentKeeps.then_iopStoreCycle (h : AgentKeeps s t) (ch : Bool) (p : IopPtr) (v : Byte) : AgentKeeps s (iopStoreCycle ch p v t) := by
  unfold iopStoreCycle
  dsimp only
  split
  · exact (h.then_refuse _).then_iopWriteCycle _ _ _
  · exact h.then_iopWriteCycle _ _ _

theorem AgentKeeps.then_iopStoreAt (h : AgentKeeps s t) (ch : Bool) (w : Width) (p : IopPtr) (v : BitVec w.bits) :
    AgentKeeps s (iopStoreAt ch w p v t) := by
  cases w
  · exact (h.then_iopYield _).then_iopStoreCycle _ _ _
  · exact (((h.then_iopYield _).then_iopStoreCycle _ _ _).then_iopYieldHalf _ _).then_iopStoreCycle _ _ _

theorem AgentKeeps.then_iopLoad (h : AgentKeeps s t) (ch : Bool) (w : Width) (m : IopMem) : AgentKeeps s (iopLoad ch w m t).2 :=
  (h.then_iopLocate ch m w.bytes).then_iopReadAt w _

theorem AgentKeeps.then_iopStore (h : AgentKeeps s t) (ch : Bool) (w : Width) (m : IopMem) (v : BitVec w.bits) :
    AgentKeeps s (iopStore ch w m v t) :=
  (h.then_iopLocate ch m w.bytes).then_iopStoreAt ch w _ v

theorem AgentKeeps.then_iopModify (h : AgentKeeps s t) (ch : Bool) (w : Width) (m : IopMem) (f : BitVec w.bits → BitVec w.bits) :
    AgentKeeps s (iopModify ch w m f t) :=
  ((h.then_iopLocate ch m w.bytes).then_iopReadAt w _).then_iopStoreAt ch w _ _

theorem AgentKeeps.then_iopMove (h : AgentKeeps s t) (ch : Bool) (w : Width) (r : IopReg) (v : BitVec w.bits) :
    AgentKeeps s (iopMove ch w r v t) :=
  h.then_setChan ch _

theorem AgentKeeps.then_iopLogical (h : AgentKeeps s t) (ch : Bool) (w : Width) (r : IopReg) (v : BitVec w.bits) :
    AgentKeeps s (iopLogical ch w r v t) :=
  h.then_draw.then_setChan ch _

theorem AgentKeeps.then_iopAluReg (h : AgentKeeps s t) (ch : Bool) (op : IopAlu) (w : Width) (r : IopReg) (v : BitVec w.bits) :
    AgentKeeps s (iopAluReg ch op w r v t) := by
  cases op
  · exact h.then_setChan ch _
  · exact h.then_iopLogical ch w r _
  · exact h.then_iopLogical ch w r _

theorem AgentKeeps.then_iopJump (h : AgentKeeps s t) (ch c : Bool) (disp : Word) : AgentKeeps s (iopJump ch c disp t) := by
  unfold iopJump
  split
  · exact h.then_setChan ch _
  · exact h

/-- One byte of a pointer variable: looked for in the fetch queue, `check`, or not. -/
theorem AgentKeeps.then_iopPutByte (h : AgentKeeps s t) (ch check : Bool) (p : IopPtr) (b : Byte) :
    AgentKeeps s (if check then iopStoreCycle ch p b t else iopWriteCycle p.tag p.addr b t) := by
  split
  · exact h.then_iopStoreCycle ch p b
  · exact h.then_iopWriteCycle _ _ b

theorem AgentKeeps.then_iopStorePtr (h : AgentKeeps s t) (ch : Bool) (place v : IopPtr) (check : Bool) :
    AgentKeeps s (iopStorePtr ch place v check t) := by
  have start : AgentKeeps s (if place.addr.getLsbD 0 then t.refuse .iopOddSave else t) := by
    split
    · exact h.then_refuse _
    · exact h
  exact ((((start.then_iopYield _).then_iopPutByte ch check _ _).then_iopYieldHalf _ _).then_iopPutByte ch check _ _).then_iopYield _
    |>.then_iopPutByte ch check _ _

theorem AgentKeeps.then_iopBusy (h : AgentKeeps s t) (ch : Bool) (v : Byte) : AgentKeeps s (iopBusy ch v t) :=
  h.then_iopWrite8 false _ v

/-! ## Its instructions, R470 to R512 -/

theorem AgentKeeps.then_iopExec (h : AgentKeeps s t) (ch : Bool) (i : IopInstr) : AgentKeeps s (iopExec ch i t) := by
  cases i with
  | nop => exact h
  | xfer => exact h
  | hlt => exact (h.then_iopBusy ch _).then_setChan ch _
  | sintr => exact h.then_setChan ch _
  | wid src dst =>
    unfold iopExec
    dsimp only
    split
    · exact (h.then_refuse _).then_setChan ch _
    · exact h.then_setChan ch _
  | lpdi p off seg => exact h.then_setChan ch _
  | aluImm op w r imm => exact h.then_iopAluReg ch op w r _
  | movImm w r imm => exact h.then_iopMove ch w r _
  | notReg r => exact h.then_iopLogical ch .word r _
  | incReg r => exact h.then_setChan ch _
  | decReg r => exact h.then_setChan ch _
  | jumpReg zero r disp => exact h.then_iopJump ch _ disp
  | movMemImm w m imm => exact h.then_iopStore ch w m _
  | movRegMem w r m => exact (h.then_iopLoad ch w m).then_iopMove ch w r _
  | movMemReg w m r => exact h.then_iopStore ch w m _
  | movMemMem w dst src => exact (h.then_iopLoad ch w src).then_iopStore ch w dst _
  | lpd p m => exact (((h.then_iopLocate ch m 4).then_iopRead16 _ _).then_iopRead16 _ _).then_setChan ch _
  | movpLoad p m => exact (((h.then_iopLocate ch m 3).then_iopRead16 _ _).then_iopRead8 _ _).then_setChan ch _
  | movpStore m p => exact (h.then_iopLocate ch m 3).then_iopStorePtr ch _ _ true
  | tsl m v disp =>
    have located := h.then_iopLocate ch m 1
    have read := located.then_iopRead8 (iopLocate ch m 1 t).1.tag (iopLocate ch m 1 t).1.addr
    unfold iopExec
    dsimp only
    split
    · exact read.then_iopStoreCycle ch _ v
    · exact read.then_iopJump ch true disp
  | call m disp => exact ((h.then_iopLocate ch m 3).then_iopStorePtr ch _ _ false).then_iopJump ch true disp
  | aluRegMem op w r m => exact (h.then_iopLoad ch w m).then_iopAluReg ch op w r _
  | aluMemReg op w m r => exact h.then_iopModify ch w m fun x => iopAlu op x (lowOperand w ((t.chan ch).get r))
  | aluMemImm op w m imm => exact h.then_iopModify ch w m fun x => iopAlu op x (lowOperand w (sx20 imm))
  | notRegMem w r m => exact (h.then_iopLoad ch w m).then_iopLogical ch w r _
  | notMem w m => exact h.then_iopModify ch w m fun x => ~~~x
  | incMem w m => exact h.then_iopModify ch w m fun x => x + 1
  | decMem w m => exact h.then_iopModify ch w m fun x => x - 1
  | jumpMasked equal m disp => exact (h.then_iopLoad ch .byte m).then_iopJump ch _ disp
  | jumpBit value b m disp => exact (h.then_iopLoad ch .byte m).then_iopJump ch _ disp
  | jumpMem zero w m disp => exact (h.then_iopLoad ch w m).then_iopJump ch _ disp
  | setBit value m b =>
    exact h.then_iopModify ch .byte m fun x => if value then x ||| (1 : Byte) <<< b.toNat else x &&& ~~~((1 : Byte) <<< b.toNat)

theorem AgentKeeps.then_iopFetch (h : AgentKeeps s t) (ch : Bool) : AgentKeeps s (iopFetch ch t).2 := by
  unfold iopFetch
  exact (((h.then_iopReadCycle _ _).then_iopReadCycle _ _).then_iopRead _ _ _).then_iopRead _ _ _

theorem AgentKeeps.then_iopEnter (h : AgentKeeps s t) (ch : Bool) : AgentKeeps s (iopEnter ch t) := by
  unfold iopEnter
  dsimp only
  split
  · exact (h.then_refuse _).then_setChan ch _
  · exact h.then_setChan ch _

/-- A refusal that may stand against an instruction. -/
theorem AgentKeeps.then_refuseIf (h : AgentKeeps s t) (c : Prop) [Decidable c] (r : Refusal) : AgentKeeps s (if c then t.refuse r else t) := by
  split
  · exact h.then_refuse r
  · exact h

theorem AgentKeeps.then_iopInstruction (h : AgentKeeps s t) (ch : Bool) : AgentKeeps s (iopInstruction ch t) := by
  have fetched := h.then_iopFetch ch
  unfold iopInstruction
  dsimp only
  split
  · exact fetched.then_refuse _
  · have checked (c : IopChan) (p q : Prop) [Decidable p] [Decidable q] :=
      ((fetched.then_setChan ch c).then_refuseIf p .iopAfterXfer).then_refuseIf q .iopChannelControl
    split
    · exact ((checked _ _ _).then_iopExec ch _).then_iopEnter ch
    · split
      · exact ((checked _ _ _).then_iopExec ch _).then_setChan ch _
      · exact (checked _ _ _).then_iopExec ch _

/-! ## Its transfers, R514 to R521 -/

theorem AgentKeeps.then_iopDmaByte (h : AgentKeeps s t) (ch : Bool) : AgentKeeps s (iopDmaByte ch t).2 :=
  (h.then_iopRead8 _ _).then_setChan ch _

theorem AgentKeeps.then_iopDmaWord (h : AgentKeeps s t) (ch : Bool) : AgentKeeps s (iopDmaWord ch t).2 :=
  (h.then_iopRead16 _ _).then_setChan ch _

theorem AgentKeeps.then_iopTranslate (h : AgentKeeps s t) (ch : Bool) (b : Byte) : AgentKeeps s (iopTranslate ch b t).2 := by
  unfold iopTranslate
  dsimp only
  split
  · exact h.then_iopRead8 _ _
  · exact h

theorem AgentKeeps.then_iopDmaFirst (h : AgentKeeps s t) (ch : Bool) : AgentKeeps s (iopDmaFirst ch t).2 := by
  unfold iopDmaFirst
  dsimp only
  split
  · exact (h.then_iopDmaByte ch).then_iopTranslate ch _
  · exact h.then_iopDmaByte ch
  · exact h.then_iopDmaWord ch
  · exact h.then_iopDmaWord ch

theorem AgentKeeps.then_iopDmaBegin (h : AgentKeeps s t) (ch : Bool) : AgentKeeps s (iopDmaBegin ch t) :=
  ((h.then_setChan ch _).then_iopDmaFirst ch).then_setChan ch _

theorem AgentKeeps.then_iopDmaSecond (h : AgentKeeps s t) (ch : Bool) (d : IopHold) : AgentKeeps s (iopDmaSecond ch d t) := by
  unfold iopDmaSecond
  split
  · exact h.then_setChan ch _
  · exact (h.then_iopDmaByte ch).then_setChan ch _

theorem AgentKeeps.then_iopDmaStore (h : AgentKeeps s t) (ch word : Bool) (v : Word) : AgentKeeps s (iopDmaStore ch word v t) := by
  cases word
  · exact (h.then_iopWrite8 _ _ _).then_setChan ch _
  · exact (h.then_iopWrite16 _ _ _).then_setChan ch _

theorem AgentKeeps.then_iopDmaPut (h : AgentKeeps s t) (ch : Bool) (d : IopHold) : AgentKeeps s (iopDmaPut ch d t) :=
  (h.then_iopDmaStore ch _ _).then_setChan ch _

theorem AgentKeeps.then_iopCutShort (h : AgentKeeps s t) (ch compare : Bool) (left : Nat) : AgentKeeps s (iopCutShort ch compare left t) :=
  h.then_draw.then_draw.then_draw.then_draw.then_draw.then_setChan ch _

theorem AgentKeeps.then_iopTerminate (h : AgentKeeps s t) (ch : Bool) (offset : Nat) : AgentKeeps s (iopTerminate ch offset t) :=
  h.then_setChan ch _

theorem AgentKeeps.then_iopDmaCheck (h : AgentKeeps s t) (ch : Bool) (d : IopHold) : AgentKeeps s (iopDmaCheck ch d t) := by
  unfold iopDmaCheck
  dsimp only
  split
  · exact h.then_setChan ch _
  · split
    · exact (h.then_iopCutShort ch _ _).then_iopTerminate ch _
    · exact h.then_iopTerminate ch _

theorem AgentKeeps.then_iopExtWaiting (h : AgentKeeps s t) (ch : Bool) : AgentKeeps s (iopExtWaiting ch t) := by
  unfold iopExtWaiting
  dsimp only
  split
  · exact h.then_iopTerminate ch _
  · exact h.then_setChan ch _

theorem AgentKeeps.then_iopTransfer (h : AgentKeeps s t) (ch : Bool) : AgentKeeps s (iopTransfer ch t) := by
  unfold iopTransfer
  dsimp only
  split
  · split
    · exact h.then_iopExtWaiting ch
    · exact h
  · split
    · exact h.then_iopDmaBegin ch
    · split
      · exact h.then_iopDmaSecond ch _
      · exact h.then_iopDmaPut ch _
      · exact h.then_iopDmaCheck ch _

/-! ## Its attentions, R452, R456 -/

theorem AgentKeeps.then_iopSaveState (h : AgentKeeps s t) (ch : Bool) : AgentKeeps s (iopSaveState ch t) :=
  (h.then_iopWrite16 false _ _).then_iopWrite16 false _ _

theorem AgentKeeps.then_iopPointerAt (h : AgentKeeps s t) (a : Phys) : AgentKeeps s (iopPointerAt a t).2 :=
  (h.then_iopRead16 false a).then_iopRead16 false (a + 2)

theorem AgentKeeps.then_iopStart (h : AgentKeeps s t) (ch io : Bool) : AgentKeeps s (iopStart ch io t) := by
  unfold iopStart
  exact (((h.then_iopPointerAt _).then_iopPointerAt _).then_iopBusy ch _).then_setChan ch _

theorem AgentKeeps.then_iopResume (h : AgentKeeps s t) (ch : Bool) : AgentKeeps s (iopResume ch t) := by
  unfold iopResume
  exact (((h.then_iopRead16 false _).then_iopRead16 false _).then_iopBusy ch _).then_setChan ch _

theorem AgentKeeps.then_iopStop (h : AgentKeeps s t) (ch : Bool) (keep : Byte) : AgentKeeps s (iopStop ch keep t) :=
  (h.then_iopBusy ch _).then_setChan ch _

theorem AgentKeeps.then_iopAttend (h : AgentKeeps s t) (ch : Bool) : AgentKeeps s (iopAttend ch t) := by
  have commanded (c : IopChan) := (h.then_iopRead8 false (t.cbBase ch)).then_setChan ch c
  unfold iopAttend
  dsimp only
  split
  case h_2 => exact (commanded _).then_iopStart ch true
  case h_3 => exact (commanded _).then_iopStart ch false
  case h_4 => exact (commanded _).then_iopResume ch
  case h_5 => exact ((commanded _).then_iopSaveState ch).then_iopStop ch _
  case h_6 => exact (commanded _).then_iopStop ch _
  all_goals exact commanded _

theorem AgentKeeps.then_iopInitialize (h : AgentKeeps s t) (ch : Bool) : AgentKeeps s (iopInitialize ch t) := by
  have scb := (h.then_iopRead8 false 0xFFFF6).then_iopPointerAt 0xFFFF8
  unfold iopInitialize
  dsimp only
  generalize iopPointerAt 0xFFFF8 _ = p at scb ⊢
  have cb := (scb.then_iopRead8 false p.1.addr).then_iopPointerAt (p.1.addr + 2)
  generalize iopPointerAt (p.1.addr + 2) _ = q at cb ⊢
  refine .then_iopBusy ?_ false _
  exact cb.then_update rfl rfl

theorem AgentKeeps.then_iopAttention (h : AgentKeeps s t) (ch : Bool) : AgentKeeps s (iopAttention ch t) := by
  unfold iopAttention
  dsimp only
  split
  · exact (h.then_setChan ch _).then_iopAttend ch
  · exact (h.then_setChan ch _).then_iopInitialize ch

/-- A step of a channel of the 8089 (R463). -/
theorem AgentKeeps.then_iopStep (h : AgentKeeps s t) (ch : Bool) : AgentKeeps s (iopStep ch t) := by
  have turn : AgentKeeps s (if (t.chan ch).checking then t else { t with iop := { t.iop with lastTwo := ch } }) := by
    split
    · exact h
    · exact h.then_update rfl rfl
  unfold iopStep
  dsimp only
  generalize (if (t.chan ch).checking then t else { t with iop := { t.iop with lastTwo := ch } }) = m at turn ⊢
  split
  · split
    · exact turn.then_iopAttention ch
    · split
      · exact turn
      · exact turn.then_iopInstruction ch
      · exact turn.then_iopInstruction ch
      · exact turn.then_iopTransfer ch
  · exact h

end Sys2Proof.Machine

/-! SUPPORT. What the CPU can do in one item (20_memory.md R42; 60_exceptions.md R259), said once: its own registers, bus accesses, the
acknowledge of an interrupt, the hand-over to the 8087. An invariant of the items needs a proof for each of these acts alone. -/

namespace Sys2Proof.Machine

/-! ## The acts of the CPU -/

/-- The states that acts of the CPU lead to, one after the other. -/
inductive CpuActs (s : State) : State → Prop
  | refl : CpuActs s s
  /-- a change of its own registers and control state, or a draw of a free value -/
  | then_own {t u : State} (h : CpuActs s t)
      (e : u = { t with regs := u.regs, segs := u.segs, ip := u.ip, flags := u.flags, ctl := u.ctl, fresh := u.fresh }) : CpuActs s u
  | then_memRead8 {t : State} (h : CpuActs s t) (a : Phys) : CpuActs s (memRead8 a t).2
  | then_memRead16 {t : State} (h : CpuActs s t) (a a2 : Phys) : CpuActs s (memRead16 a a2 t).2
  | then_memWrite8 {t : State} (h : CpuActs s t) (a : Phys) (v : Byte) : CpuActs s (memWrite8 a v t)
  | then_memWrite16 {t : State} (h : CpuActs s t) (a a2 : Phys) (v : Word) : CpuActs s (memWrite16 a a2 v t)
  | then_ioRead8 {t : State} (h : CpuActs s t) (p : Word) : CpuActs s (ioRead8 p t).2
  | then_ioRead16 {t : State} (h : CpuActs s t) (p : Word) : CpuActs s (ioRead16 p t).2
  | then_ioWrite8 {t : State} (h : CpuActs s t) (p : Word) (v : Byte) : CpuActs s (ioWrite8 p v t)
  | then_ioWrite16 {t : State} (h : CpuActs s t) (p : Word) (v : Word) : CpuActs s (ioWrite16 p v t)
  /-- the acknowledge of an interrupt (R262) -/
  | then_intAck {t : State} (h : CpuActs s t) : CpuActs s (intAck t).2
  /-- DHLT set by NMI, cleared by IRET (61_186_peripherals.md R584) -/
  | then_setDhlt {t : State} (h : CpuActs s t) (b : Bool) : CpuActs s (t.setIc { t.pcb.ic with dhlt := b })
  /-- an operation handed to the 8087 (47_npx_8087_state.md R311) -/
  | then_npxIssue {t u : State} (h : CpuActs s t) {op : NpxOp} {opcode : BitVec 11} {addr : Option Phys} {first : Word}
      (e : npxIssue op opcode addr first t = .next u) : CpuActs s u
  /-- the 8087 goes on while a WAIT tests it (log 35) -/
  | then_npxProceed {t : State} (h : CpuActs s t) (free : Bool) : CpuActs s (npxProceed free t)

namespace CpuActs

variable {s t u : State}

theorem then_next (h : CpuActs s t) (e : Host.Outcome.next t = (.next u : Host.Outcome State Fault Refusal)) : CpuActs s u := by
  cases e
  exact h

/-! ## Registers -/

theorem then_set (h : CpuActs s t) (r : Reg) (v : Word) : CpuActs s (t.set r v) := h.then_own rfl
theorem then_set8 (h : CpuActs s t) (r : Reg8) (v : Byte) : CpuActs s (t.set8 r v) := h.then_own rfl
theorem then_setSeg (h : CpuActs s t) (r : SReg) (v : Word) : CpuActs s (t.setSeg r v) := h.then_own rfl
theorem then_setIp (h : CpuActs s t) (v : Word) : CpuActs s (t.setIp v) := h.then_own rfl
theorem then_setFlags (h : CpuActs s t) (f : Flags) : CpuActs s (t.setFlags f) := h.then_own rfl
theorem then_scramble (h : CpuActs s t) (m : FlagSet) : CpuActs s (scramble m t) := h.then_own rfl
theorem then_draw (h : CpuActs s t) : CpuActs s t.draw := h.then_own rfl
theorem then_inhibit (h : CpuActs s t) : CpuActs s t.inhibit := h.then_own rfl
theorem then_setPhase (h : CpuActs s t) (p : Phase) : CpuActs s (t.setPhase p) := h.then_own rfl
theorem then_setLatches (h : CpuActs s t) (l : Latches) : CpuActs s (t.setLatches l) := h.then_own rfl

theorem then_setReg (h : CpuActs s t) (w : Width) (r : Reg) (v : BitVec w.bits) : CpuActs s (t.setReg w r v) := by
  cases w
  · exact h.then_set8 _ _
  · exact h.then_set _ _

theorem then_scrambleSome (h : CpuActs s t) (m : Option FlagSet) : CpuActs s ((m.map (scramble · t)).getD t) := by
  cases m
  · exact h
  · exact h.then_scramble _

/-! ## Memory, the stack, interrupts -/

theorem then_readMem (h : CpuActs s t) (w : Width) (seg off : Word) : CpuActs s (readMem w seg off t).2 := by
  cases w
  · exact h.then_memRead8 _
  · exact h.then_memRead16 _ _

theorem then_writeMem (h : CpuActs s t) (w : Width) (seg off : Word) (v : BitVec w.bits) : CpuActs s (writeMem w seg off v t) := by
  cases w
  · exact h.then_memWrite8 _ _
  · exact h.then_memWrite16 _ _ _

theorem then_readRm (h : CpuActs s t) (w : Width) (rm : Rm) : CpuActs s (readRm w rm t).2 := by
  cases rm with
  | reg r => exact h
  | ind | disp8 | disp16 | direct => exact h.then_readMem w _ _

theorem then_writeRm (h : CpuActs s t) (w : Width) (rm : Rm) (v : BitVec w.bits) : CpuActs s (writeRm w rm v t) := by
  cases rm with
  | reg r => exact h.then_setReg w r v
  | ind | disp8 | disp16 | direct => exact h.then_writeMem w _ _ v

theorem then_readPointer (h : CpuActs s t) (seg off : Word) : CpuActs s (readPointer seg off t).2 :=
  (h.then_readMem .word seg off).then_readMem .word seg (off + 2)

theorem then_push16 (h : CpuActs s t) (v : Word) : CpuActs s (push16 v t) := (h.then_set .sp _).then_writeMem .word _ _ v

theorem then_pop16 (h : CpuActs s t) : CpuActs s (pop16 t).2 := (h.then_readMem .word _ _).then_set .sp _

theorem then_popInto (h : CpuActs s t) (r : Reg) : CpuActs s (popInto r t) := h.then_pop16.then_set r _

theorem then_pushAll (h : CpuActs s t) : CpuActs s (pushAll t) :=
  (((((((h.then_push16 _).then_push16 _).then_push16 _).then_push16 _).then_push16 _).then_push16 _).then_push16 _).then_push16 _

theorem then_popAll (h : CpuActs s t) : CpuActs s (popAll t) :=
  have low := (((h.then_popInto .di).then_popInto .si).then_popInto .bp).then_pop16
  (((low.then_popInto .bx).then_popInto .dx).then_popInto .cx).then_popInto .ax

theorem then_interrupt (h : CpuActs s t) (type : Byte) (savedIp : Word) : CpuActs s (interrupt type savedIp t) := by
  obtain ⟨s1, s2, s3, s4, cs, s5, s6, s7, ip, e1, e2, e3, e4, e5, e6, e7, e⟩ := interrupt_stages type savedIp t
  have flagsPushed : CpuActs s s1 := e1 ▸ h.then_draw.then_push16 _
  have csPushed : CpuActs s s3 := e3 ▸ CpuActs.then_push16 (e2 ▸ flagsPushed.then_setFlags _) _
  have csRead : CpuActs s s4 := by
    rw [show s4 = (memRead16 _ _ s3).2 from congrArg Prod.snd e4]
    exact csPushed.then_memRead16 _ _
  have ipPushed : CpuActs s s6 := e6 ▸ CpuActs.then_push16 (e5 ▸ csRead.then_setSeg .cs cs) _
  have ipRead : CpuActs s s7 := by
    rw [show s7 = (memRead16 _ _ s6).2 from congrArg Prod.snd e7]
    exact ipPushed.then_memRead16 _ _
  exact e ▸ ipRead.then_setIp ip

theorem then_interruptReturn (h : CpuActs s t) : CpuActs s (interruptReturn t) := by
  have popped (ip cs : Word) := ((h.then_pop16.then_setIp ip).then_pop16.then_setSeg .cs cs).then_pop16
  unfold interruptReturn
  dsimp only
  split
  · exact ((popped _ _).then_own rfl).then_setDhlt false
  · exact (popped _ _).then_own rfl

theorem then_unusedOpcode (h : CpuActs s t) (e : unusedOpcode t = .next u) : CpuActs s u := by
  unfold unusedOpcode at e
  split at e
  · exact (h.then_interrupt 6 _).then_next e
  · cases e

theorem then_popSreg (h : CpuActs s t) {sr : SReg} (e : execPopSreg sr t = .next u) : CpuActs s u := by
  unfold execPopSreg at e
  split at e
  · exact h.then_unusedOpcode e
  · exact (h.then_pop16.then_setSeg sr _).then_inhibit.then_next e

theorem then_only186 {k : State → State} (h : CpuActs s (k t)) (e : only186 t k = .next u) : CpuActs s u := by
  unfold only186 at e
  split at e
  · exact h.then_next e
  · cases e

/-! ## The shared forms of the instructions -/

theorem then_binRmReg (h : CpuActs s t) (op : BinOp) (undef : Option FlagSet) (store : Bool) (dir : Dir) (w : Width) (rm : Rm) (r : Reg) :
    CpuActs s (binRmReg op undef store dir w rm r t) := by
  have flagged (f : Flags) := ((h.then_readRm w rm).then_setFlags f).then_scrambleSome undef
  cases store
  · exact flagged _
  · cases dir
    · exact (flagged _).then_writeRm w rm _
    · exact (flagged _).then_setReg w r _

theorem then_binRmVal (h : CpuActs s t) (op : BinOp) (undef : Option FlagSet) (store : Bool) (w : Width) (rm : Rm) (b : BitVec w.bits) :
    CpuActs s (binRmVal op undef store w rm b t) := by
  have flagged (f : Flags) := ((h.then_readRm w rm).then_setFlags f).then_scrambleSome undef
  cases store
  · exact flagged _
  · exact (flagged _).then_writeRm w rm _

theorem then_binAccVal (h : CpuActs s t) (op : BinOp) (undef : Option FlagSet) (store : Bool) (w : Width) (b : BitVec w.bits) :
    CpuActs s (binAccVal op undef store w b t) := by
  have flagged (f : Flags) := (h.then_setFlags f).then_scrambleSome undef
  cases store
  · exact flagged _
  · exact (flagged _).then_setReg w .ax _

theorem then_unaryRm (h : CpuActs s t) (op : (n : Nat) → BitVec n → Flags → BitVec n × Flags) (w : Width) (rm : Rm) :
    CpuActs s (unaryRm op w rm t) :=
  ((h.then_readRm w rm).then_setFlags _).then_writeRm w rm _

theorem then_shiftRm (h : CpuActs s t) (op : ShiftOp) (w : Width) (rm : Rm) (c : Byte) : CpuActs s (shiftRm op w rm c t) :=
  (((h.then_readRm w rm).then_setFlags _).then_scramble _).then_writeRm w rm _

theorem then_mulFlags (h : CpuActs s t) (c : Bool) : CpuActs s (mulFlags c t) := (h.then_setFlags _).then_scramble _

theorem then_imulImm (h : CpuActs s t) (r : Reg) (rm : Rm) (imm : Word) : CpuActs s (imulImm r rm imm t) :=
  ((h.then_readRm .word rm).then_set r _).then_mulFlags _

theorem then_xchgRmReg (h : CpuActs s t) {w : Width} {rm : Rm} {r : Reg} (e : execXchgRmReg w rm r t = .next u) : CpuActs s u := by
  have read := h.then_readRm w rm
  unfold execXchgRmReg at e
  dsimp only at e
  split at e
  · exact ((read.then_setReg w _ _).then_setReg w r _).then_next e
  · exact ((read.then_writeRm w _ _).then_setReg w r _).then_next e

theorem then_setProduct (h : CpuActs s t) (w : Width) (p : BitVec 32) : CpuActs s (setProduct w p t) := by
  cases w <;> exact h.then_own rfl

theorem then_setQuotient (h : CpuActs s t) (w : Width) (q r : Word) : CpuActs s (setQuotient w q r t) := by
  cases w <;> exact h.then_own rfl

/-- A division succeeds or takes interrupt 0. -/
theorem then_divide (h : CpuActs s t) {c : Prop} [Decidable c] {w : Width} {q r : Word}
    (e : (if c then .next (divideError w t) else .next (divided w q r t)) = (.next u : Host.Outcome State Fault Refusal)) : CpuActs s u := by
  split at e
  · exact (((h.then_draw.then_draw.then_setQuotient w _ _).then_scramble _).then_interrupt 0 _).then_next e
  · exact ((h.then_setQuotient w q r).then_scramble _).then_next e

theorem then_farCall (h : CpuActs s t) (off seg : Word) : CpuActs s (farCall off seg t) :=
  (((h.then_push16 _).then_setSeg .cs seg).then_push16 _).then_setIp off

theorem then_popIp (h : CpuActs s t) : CpuActs s (popIp t) := h.then_pop16.then_setIp _

theorem then_popCs (h : CpuActs s t) : CpuActs s (popCs t) := h.then_pop16.then_setSeg .cs _

theorem then_jumpIf (h : CpuActs s t) (c : Bool) (disp : Byte) : CpuActs s (jumpIf c disp t) := by
  cases c
  · exact h
  · exact h.then_setIp _

theorem then_loopIf (h : CpuActs s t) (c : Bool) (disp : Byte) : CpuActs s (loopIf c disp t) := (h.then_set .cx _).then_jumpIf _ disp

theorem then_copyFrames (h : CpuActs s t) (n : Nat) : CpuActs s (copyFrames n t) := by
  induction n generalizing t with
  | zero => exact h
  | succ n ih => exact ih (((h.then_set .bp _).then_readMem .word _ _).then_push16 _)

theorem then_enterFrame (h : CpuActs s t) (size : Word) (level : Byte) : CpuActs s (enterFrame size level t) := by
  have pushed := h.then_push16 (t.get .bp)
  unfold enterFrame
  dsimp only
  split
  · exact (pushed.then_set .bp _).then_set .sp _
  · exact (((pushed.then_copyFrames _).then_push16 _).then_set .bp _).then_set .sp _

theorem then_leaveFrame (h : CpuActs s t) : CpuActs s (leaveFrame t) := (h.then_set .sp _).then_pop16.then_set .bp _

theorem then_boundCheck (h : CpuActs s t) (r : Reg) (rm : Rm) : CpuActs s (boundCheck r rm t) := by
  have read := h.then_readPointer (eaSeg t rm) (eaOff t rm)
  unfold boundCheck readRmPointer
  dsimp only
  split
  · exact read.then_interrupt 5 _
  · exact read

/-! ## Strings and ports -/

theorem then_ioRead (h : CpuActs s t) (w : Width) (p : Word) : CpuActs s (ioRead w p t).2 := by
  cases w
  · exact h.then_ioRead8 p
  · exact h.then_ioRead16 p

theorem then_ioWrite (h : CpuActs s t) (w : Width) (p : Word) (v : BitVec w.bits) : CpuActs s (ioWrite w p v t) := by
  cases w
  · exact h.then_ioWrite8 p v
  · exact h.then_ioWrite16 p v

theorem then_readSource (h : CpuActs s t) (w : Width) : CpuActs s (readSource w t).2 := h.then_readMem w _ _
theorem then_readDest (h : CpuActs s t) (w : Width) : CpuActs s (readDest w t).2 := h.then_readMem w _ _
theorem then_writeDest (h : CpuActs s t) (w : Width) (v : BitVec w.bits) : CpuActs s (writeDest w v t) := h.then_writeMem w _ _ v
theorem then_advanceSi (h : CpuActs s t) (w : Width) : CpuActs s (advanceSi w t) := h.then_set .si _
theorem then_advanceDi (h : CpuActs s t) (w : Width) : CpuActs s (advanceDi w t) := h.then_set .di _

theorem then_movsOnce (h : CpuActs s t) (w : Width) : CpuActs s (movsOnce w t) :=
  (((h.then_readSource w).then_writeDest w _).then_advanceSi w).then_advanceDi w
theorem then_cmpsOnce (h : CpuActs s t) (w : Width) : CpuActs s (cmpsOnce w t) :=
  ((((h.then_readSource w).then_readDest w).then_setFlags _).then_advanceSi w).then_advanceDi w
theorem then_scasOnce (h : CpuActs s t) (w : Width) : CpuActs s (scasOnce w t) := ((h.then_readDest w).then_setFlags _).then_advanceDi w
theorem then_lodsOnce (h : CpuActs s t) (w : Width) : CpuActs s (lodsOnce w t) := ((h.then_readSource w).then_setReg w .ax _).then_advanceSi w
theorem then_stosOnce (h : CpuActs s t) (w : Width) : CpuActs s (stosOnce w t) := (h.then_writeDest w _).then_advanceDi w
theorem then_insOnce (h : CpuActs s t) (w : Width) : CpuActs s (insOnce w t) := ((h.then_ioRead w _).then_writeDest w _).then_advanceDi w
theorem then_outsOnce (h : CpuActs s t) (w : Width) : CpuActs s (outsOnce w t) := ((h.then_readSource w).then_ioWrite w _ _).then_advanceSi w

/-- One pass of a string instruction: not at all, or its primitive. -/
theorem then_repeated {primitive : State → State} (h : CpuActs s t) (k : CpuActs s (primitive t)) (compares : Bool) :
    CpuActs s (repeated compares primitive t) := by
  unfold repeated
  split
  · exact k
  · split
    · exact h
    · dsimp only
      split
      · exact k.then_set .cx _
      · exact (k.then_set .cx _).then_own rfl

/-! ## The 8087's instructions and WAIT -/

theorem then_dummyRead (h : CpuActs s t) (rm : Rm) : CpuActs s (dummyRead rm t).2 := by
  cases rm with
  | reg r => exact h
  | ind | disp8 | disp16 | direct => exact h.then_readMem .word _ _

theorem then_escape (h : CpuActs s t) {x : BitVec 6} {rm : Rm} {op : Option NpxOp} (e : escape x rm op t = .next u) : CpuActs s u := by
  have read := h.then_dummyRead rm
  unfold escape at e
  split at e
  · exact (h.then_interrupt 7 _).then_next e
  · dsimp only at e
    split at e
    · cases op with
      | none => cases e
      | some op => exact read.then_npxIssue e
    · exact read.then_next e

theorem then_escMemory (h : CpuActs s t) {x : BitVec 6} {rm : Rm} {op : NpxOp} (e : escMemory x rm op t = .next u) : CpuActs s u := by
  unfold escMemory at e
  split at e
  · cases e
  · exact h.then_escape e

theorem then_escRegister (h : CpuActs s t) {x : BitVec 6} {i : BitVec 3} {op : NpxOp} (e : escRegister x i op t = .next u) : CpuActs s u :=
  h.then_escape (op := some op) e

theorem then_waitTest (h : CpuActs s t) : CpuActs s (waitTest t) := by
  unfold waitTest
  split
  · exact h
  · exact (h.then_npxProceed _).then_own rfl

end CpuActs

/-! ## Every instruction -/

/-- What an instruction does, unless it is refused, is acts of the CPU. -/
theorem exec_acts {i : Instr} {s t : State} (h : exec i s = .next t) : CpuActs s t := by
  have start : CpuActs s s := .refl
  cases i with
  | movRmReg dir w rm r =>
    cases dir
    · exact (start.then_writeRm w rm _).then_next h
    · exact ((start.then_readRm w rm).then_setReg w r _).then_next h
  | movRmImm rm imm => exact (start.then_writeRm _ rm _).then_next h
  | movRegImm r imm => exact (start.then_setReg _ r _).then_next h
  | movAccAddr w addr => exact ((start.then_readMem w _ _).then_setReg w .ax _).then_next h
  | movAddrAcc w addr => exact (start.then_writeMem w _ _ _).then_next h
  | movSregRm sr rm => exact ((start.then_readRm .word rm).then_setSeg sr _).then_inhibit.then_next h
  | movRmSreg rm sr => exact (start.then_writeRm .word rm _).then_next h
  | pushRm rm => exact ((start.then_readRm .word rm).then_push16 _).then_next h
  | pushReg r => exact ((start.then_set .sp _).then_writeMem .word _ _ _).then_next h
  | pushSreg sr => exact (start.then_push16 _).then_next h
  | pushImm16 imm => exact (start.then_push16 _).then_only186 h
  | pushImm8 imm => exact (start.then_push16 _).then_only186 h
  | popRm rm => exact (start.then_pop16.then_writeRm .word rm _).then_next h
  | popReg r => exact (start.then_pop16.then_set r _).then_next h
  | popSreg sr => exact start.then_popSreg h
  | xchgRmReg w rm r => exact start.then_xchgRmReg h
  | xchgAxReg r => exact ((start.then_set .ax _).then_set r _).then_next h
  | xlat => exact ((start.then_readMem .byte _ _).then_set8 .al _).then_next h
  | inAccPort w port => exact ((start.then_ioRead w _).then_setReg w .ax _).then_next h
  | inAccDx w => exact ((start.then_ioRead w _).then_setReg w .ax _).then_next h
  | outPortAcc w port => exact (start.then_ioWrite w _ _).then_next h
  | outDxAcc w => exact (start.then_ioWrite w _ _).then_next h
  | lea r rm =>
    cases rm with
    | reg q => cases h
    | ind | disp8 | disp16 | direct => exact (start.then_set r _).then_next h
  | lds r rm =>
    cases rm with
    | reg q => cases h
    | ind | disp8 | disp16 | direct => exact (((start.then_readPointer _ _).then_set r _).then_setSeg .ds _).then_next h
  | les r rm =>
    cases rm with
    | reg q => cases h
    | ind | disp8 | disp16 | direct => exact (((start.then_readPointer _ _).then_set r _).then_setSeg .es _).then_next h
  | addRmReg | adcRmReg | subRmReg | sbbRmReg | cmpRmReg | andRmReg | orRmReg | xorRmReg | testRmReg =>
    exact (start.then_binRmReg _ _ _ _ _ _ _).then_next h
  | addRmImm | adcRmImm | subRmImm | sbbRmImm | cmpRmImm | andRmImm | orRmImm | xorRmImm | testRmImm =>
    exact (start.then_binRmVal _ _ _ _ _ _).then_next h
  | addAccImm | adcAccImm | subAccImm | sbbAccImm | cmpAccImm | andAccImm | orAccImm | xorAccImm | testAccImm =>
    exact (start.then_binAccVal _ _ _ _ _).then_next h
  | incRm | decRm | negRm | notRm => exact (start.then_unaryRm _ _ _).then_next h
  | incReg r | decReg r => exact (start.then_unaryRm _ .word (.reg r)).then_next h
  | aaa | aas | daa | das | aam | aad | cbw | cwd => exact (start.then_own rfl).then_next h
  | mulRm w rm | imulRm w rm => exact (((start.then_readRm w rm).then_setProduct w _).then_mulFlags _).then_next h
  | imulImm16 r rm | imulImm8 r rm => exact (start.then_imulImm r rm _).then_only186 h
  | divRm w rm | idivRm w rm => exact (start.then_readRm w rm).then_divide h
  | rolRm | rorRm | rclRm | rcrRm | shlRm | shrRm | sarRm => exact (start.then_shiftRm _ _ _ _).then_next h
  | rolRmImm | rorRmImm | rclRmImm | rcrRmImm | shlRmImm | shrRmImm | sarRmImm => exact (start.then_shiftRm _ _ _ _).then_only186 h
  | movs w => exact (start.then_repeated (start.then_movsOnce w) _).then_next h
  | cmps w => exact (start.then_repeated (start.then_cmpsOnce w) _).then_next h
  | scas w => exact (start.then_repeated (start.then_scasOnce w) _).then_next h
  | lods w => exact (start.then_repeated (start.then_lodsOnce w) _).then_next h
  | stos w => exact (start.then_repeated (start.then_stosOnce w) _).then_next h
  | ins w => exact (start.then_repeated (start.then_insOnce w) _).then_only186 h
  | outs w => exact (start.then_repeated (start.then_outsOnce w) _).then_only186 h
  | pusha => exact start.then_pushAll.then_only186 h
  | popa => exact start.then_popAll.then_only186 h
  | lahf => exact (start.then_draw.then_set8 .ah _).then_next h
  | pushf => exact (start.then_draw.then_push16 _).then_next h
  | popf => exact (start.then_pop16.then_setFlags _).then_next h
  | sahf | clc | cmc | stc | cld | std | cli | sti | hlt | nop | lockPrefix | segPrefix | repPrefix =>
    exact (start.then_own rfl).then_next h
  | callNear disp => exact ((start.then_push16 _).then_setIp _).then_next h
  | callNearRm rm => exact (((start.then_readRm .word rm).then_push16 _).then_setIp _).then_next h
  | callFar off seg => exact (start.then_farCall off seg).then_next h
  | callFarRm rm =>
    cases rm with
    | reg q => cases h
    | ind | disp8 | disp16 | direct => exact ((start.then_readPointer _ _).then_farCall _ _).then_next h
  | retNear => exact start.then_popIp.then_next h
  | retNearImm imm => exact (start.then_popIp.then_set .sp _).then_next h
  | retFar => exact start.then_popIp.then_popCs.then_next h
  | retFarImm imm => exact (start.then_popIp.then_popCs.then_set .sp _).then_next h
  | jmpNear | jmpShort => exact (start.then_setIp _).then_next h
  | jmpNearRm rm => exact ((start.then_readRm .word rm).then_setIp _).then_next h
  | jmpFar off seg => exact ((start.then_setSeg .cs seg).then_setIp off).then_next h
  | jmpFarRm rm =>
    cases rm with
    | reg q => cases h
    | ind | disp8 | disp16 | direct => exact (((start.then_readPointer _ _).then_setSeg .cs _).then_setIp _).then_next h
  | jo | jno | jb | jae | je | jne | jbe | ja | js | jns | jp | jnp | jl | jge | jle | jg | jcxz =>
    exact (start.then_jumpIf _ _).then_next h
  | loop | loope | loopne => exact (start.then_loopIf _ _).then_next h
  | intType | int3 => exact (start.then_interrupt _ _).then_next h
  | into =>
    refine CpuActs.then_next ?_ h
    split
    · exact start.then_interrupt 4 _
    · exact start
  | iret => exact start.then_interruptReturn.then_next h
  | enter size level => exact (start.then_enterFrame size level).then_only186 h
  | leave => exact start.then_leaveFrame.then_only186 h
  | bound r rm =>
    cases rm with
    | reg q => cases h
    | ind | disp8 | disp16 | direct => exact (start.then_boundCheck r _).then_only186 h
  | wait | fwait => exact start.then_waitTest.then_next h
  | unused63 | unused64 | unused65 | unused66 | unused67 | unusedF1 | unusedFE7 | unusedFF7 => exact start.then_unusedOpcode h
  | esc x rm => exact start.then_escape (x := x) (op := none) h
  | faddM32 | faddM64 | fmulM32 | fmulM64 | fcomM32 | fcomM64 | fcompM32 | fcompM64 | fsubM32 | fsubM64 | fsubrM32 | fsubrM64
  | fdivM32 | fdivM64 | fdivrM32 | fdivrM64 | fiaddI32 | fiaddI16 | fimulI32 | fimulI16 | ficomI32 | ficomI16 | ficompI32
  | ficompI16 | fisubI32 | fisubI16 | fisubrI32 | fisubrI16 | fidivI32 | fidivI16 | fidivrI32 | fidivrI16 | fldM32 | fstM32
  | fstpM32 | fldenv | fldcw | fstenv | fstcw | fildI32 | fistI32 | fistpI32 | fldM80 | fstpM80 | fldM64 | fstM64 | fstpM64
  | frstor | fsave | fstsw | fildI16 | fistI16 | fistpI16 | fbld | fildI64 | fbstp | fistpI64 => exact start.then_escMemory h
  | faddStSti | fmulStSti | fcomSti | fcompSti | fsubStSti | fsubrStSti | fdivStSti | fdivrStSti | faddStiSt | fmulStiSt
  | fsubrStiSt | fsubStiSt | fdivrStiSt | fdivStiSt | faddpStiSt | fmulpStiSt | fsubrpStiSt | fsubpStiSt | fdivrpStiSt
  | fdivpStiSt | fldSti | fxchSti | ffreeSti | fstSti | fstpSti | fcompp | fnop | fchs | fabs | ftst | fxam | fld1 | fldl2t
  | fldl2e | fldpi | fldlg2 | fldln2 | fldz | f2xm1 | fyl2x | fptan | fpatan | fxtract | fdecstp | fincstp | fprem | fyl2xp1
  | fsqrt | frndint | fscale | feni | fdisi | fclex | finit => exact start.then_escRegister h

end Sys2Proof.Machine

namespace Sys2Proof.Machine

/-! ## Recognition and a whole item, 60_exceptions.md R256 to R267 -/

namespace CpuActs

variable {s t u : State}

theorem then_takeNmi (h : CpuActs s t) (savedIp : Word) : CpuActs s (takeNmi savedIp t) := by
  have taken : CpuActs s { t with ctl := { t.ctl with nmiPending := false } } := h.then_own rfl
  unfold takeNmi
  dsimp only
  split
  · exact (taken.then_setDhlt true).then_interrupt 2 savedIp
  · exact taken.then_interrupt 2 savedIp

theorem then_recognize (h : CpuActs s t) (delay : Bool) (savedIp : Word) : CpuActs s (recognize delay savedIp t).2 := by
  unfold recognize
  split
  · exact h.then_takeNmi savedIp
  · split
    · exact h.then_intAck.then_interrupt _ savedIp
    · exact h

theorem then_complete (h : CpuActs s t) : CpuActs s t.complete := h.then_own rfl
theorem then_dropHolds (h : CpuActs s t) : CpuActs s t.dropHolds := h.then_own rfl

/-- The single-step trap, if it is due. -/
theorem then_trap (h : CpuActs s t) (trap : Bool) : CpuActs s (if trap then interrupt 1 t.ip t else t) := by
  split
  · exact h.then_interrupt 1 _
  · exact h

theorem then_boundary (h : CpuActs s t) (trap : Bool) : CpuActs s (boundary trap t) := by
  unfold boundary
  dsimp only
  split
  · exact h.then_complete.then_dropHolds
  · exact (h.then_complete.then_recognize _ _).then_dropHolds.then_trap trap

theorem then_midItem (h : CpuActs s t) (savedIp : Word) (trap : Bool) : CpuActs s (midItem savedIp trap t).2 := by
  have unheld : CpuActs s { t with ctl := { t.ctl with heldAll := false, heldIntr := false } } := h.then_own rfl
  unfold midItem
  dsimp only
  split
  · exact unheld
  · split
    · exact (unheld.then_recognize _ _).then_complete.then_trap trap
    · exact unheld.then_recognize _ _

theorem then_afterItem (h : CpuActs s t) (i : Instr) : CpuActs s (afterItem i t) := by
  unfold afterItem
  split
  · exact h
  · exact h
  · exact h.then_midItem _ _
  · split
    · exact h.then_boundary true
    · exact h.then_own rfl
  · exact h.then_boundary _

theorem trans (h : CpuActs s t) (k : CpuActs t u) : CpuActs s u := by
  induction k with
  | refl => exact h
  | then_own _ e ih => exact ih.then_own e
  | then_memRead8 _ a ih => exact ih.then_memRead8 a
  | then_memRead16 _ a a2 ih => exact ih.then_memRead16 a a2
  | then_memWrite8 _ a v ih => exact ih.then_memWrite8 a v
  | then_memWrite16 _ a a2 v ih => exact ih.then_memWrite16 a a2 v
  | then_ioRead8 _ p ih => exact ih.then_ioRead8 p
  | then_ioRead16 _ p ih => exact ih.then_ioRead16 p
  | then_ioWrite8 _ p v ih => exact ih.then_ioWrite8 p v
  | then_ioWrite16 _ p v ih => exact ih.then_ioWrite16 p v
  | then_intAck _ ih => exact ih.then_intAck
  | then_setDhlt _ b ih => exact ih.then_setDhlt b
  | then_npxIssue _ e ih => exact ih.then_npxIssue e
  | then_npxProceed _ free ih => exact ih.then_npxProceed free

end CpuActs

theorem finishItem_acts {i : Instr} {s t : State} (h : finishItem i s = .next t) : CpuActs s t := by
  unfold finishItem at h
  split at h
  case h_1 u e => exact ((exec_acts e).then_afterItem i).then_next h
  all_goals cases h

/-- An item of the CPU, the interrupt sequence that may end it included. -/
theorem runItem_acts {s t : State} (h : runItem s = .next t) : CpuActs s t := by
  unfold runItem at h
  split at h
  · cases h
  · have entered (n : Nat) : CpuActs s (s.enter n) := CpuActs.refl.then_own rfl
    dsimp only at h
    split at h
    · cases h
    · split at h
      · split at h
        · exact ((entered _).then_midItem _ _).then_next h
        · exact ((entered _).then_midItem _ _).trans (finishItem_acts h)
      · exact (entered _).trans (finishItem_acts h)

theorem haltedStep_acts (s : State) : CpuActs s (haltedStep s) := by
  unfold haltedStep
  split
  · exact CpuActs.refl.then_boundary false
  · exact .refl

/-- A step of the CPU is a transfer of a DMA channel that goes before it (61_186_peripherals.md R551), or acts of the CPU. -/
theorem cpuStep_cases {s t : State} (h : cpuStep s = .next t) : CpuActs s t ∨ ∃ ch, t = dmaTransfer ch s := by
  unfold cpuStep at h
  split at h
  · exact .inl (CpuActs.refl.then_next h)
  · split at h
    · exact .inr ⟨_, (Host.Outcome.next.inj h).symm⟩
    · split at h
      · exact .inl ((haltedStep_acts s).then_next h)
      · exact .inl (runItem_acts h)

/-! ## What every step of an agent keeps -/

theorem AgentKeeps.then_externalAck {s t : State} (h : AgentKeeps s t) (line : Nat) (type : Byte) :
    AgentKeeps s (externalAck line type t).2 :=
  (h.then_yieldBus false).then_update rfl rfl

/-- The acknowledge of an interrupt keeps the CPU and memory too. -/
theorem intAck_keeps (s : State) : AgentKeeps s (intAck s).2 := by
  have start := AgentKeeps.refl s
  have acknowledged (ic : Ic) : AgentKeeps s (s.setIc ic) := start.then_update rfl rfl
  unfold intAck masterAck slaveAck
  dsimp only
  split
  · split
    · split
      · split
        · exact start.then_draw.then_externalAck _ _
        · exact (acknowledged _).then_externalAck _ _
      · exact start.then_externalAck _ _
    · split
      · exact start.then_draw
      · split
        · split
          · exact (acknowledged _).then_externalAck _ _
          · exact (acknowledged _).then_externalAck _ _
        · exact acknowledged _
  · exact start.then_externalAck _ _

/-- What no step changes: configuration, schedule, the canonical form of memory. -/
structure StepKeeps (s t : State) : Prop where
  cfg   : t.cfg = s.cfg
  moves : t.moves = s.moves
  canonical : s.MemoryCanonical → t.MemoryCanonical

theorem StepKeeps.then_agent {s t u : State} (h : StepKeeps s t) (k : AgentKeeps t u) : StepKeeps s u :=
  ⟨k.cfg.trans h.cfg, k.moves.trans h.moves, k.canonical ∘ h.canonical⟩

theorem CpuActs.keeps {s t : State} (h : CpuActs s t) : StepKeeps s t := by
  induction h with
  | refl => exact ⟨rfl, rfl, id⟩
  | then_own _ e ih =>
    rw [e]
    exact ⟨ih.cfg, ih.moves, ih.canonical⟩
  | @then_memRead8 t _ a ih => exact ih.then_agent ((AgentKeeps.refl t).then_access (memRead8_keeps a t))
  | @then_memRead16 t _ a a2 ih => exact ih.then_agent ((AgentKeeps.refl t).then_access (memRead16_keeps a a2 t))
  | @then_memWrite8 t _ a v ih => exact ih.then_agent ((AgentKeeps.refl t).then_access (memWrite8_keeps a v t))
  | @then_memWrite16 t _ a a2 v ih => exact ih.then_agent ((AgentKeeps.refl t).then_access (memWrite16_keeps a a2 v t))
  | then_ioRead8 _ p ih => exact ih.then_agent ((AgentKeeps.refl _).then_ioRead8 p)
  | then_ioRead16 _ p ih => exact ih.then_agent ((AgentKeeps.refl _).then_ioRead16 p)
  | then_ioWrite8 _ p v ih => exact ih.then_agent ((AgentKeeps.refl _).then_ioWrite8 p v)
  | then_ioWrite16 _ p v ih => exact ih.then_agent ((AgentKeeps.refl _).then_ioWrite16 p v)
  | then_intAck _ ih => exact ih.then_agent (intAck_keeps _)
  | then_setDhlt _ b ih => exact ih.then_agent ((AgentKeeps.refl _).then_update rfl rfl)
  | then_npxIssue _ e ih => exact ih.then_agent ((AgentKeeps.refl _).then_npxIssue e)
  | then_npxProceed _ free ih => exact ih.then_agent ((AgentKeeps.refl _).then_npxProceed free)

theorem cpuStep_keeps {s t : State} (h : cpuStep s = .next t) : StepKeeps s t := by
  rcases cpuStep_cases h with acts | ⟨ch, rfl⟩
  · exact acts.keeps
  · exact StepKeeps.then_agent ⟨rfl, rfl, id⟩ ((AgentKeeps.refl s).then_dmaTransfer ch)

/-! ## Moves, 70_reset_and_hazards.md R290, R307 -/

/-- A move of an agent answers only when the machine has the agent. -/
theorem agent_next {present : Bool} {s t : State} (h : agent present s = .next t) : present = true ∧ t = s := by
  cases present
  · cases h
  · exact ⟨rfl, (Host.Outcome.next.inj h).symm⟩

/-- The agents beside the CPU keep the CPU. -/
theorem agentStep_keeps {a : BusAgent} {s t : State} (ha : a ≠ .cpu) (h : agentStep a s = .next t) : AgentKeeps s t := by
  have start := AgentKeeps.refl s
  cases a with
  | cpu => exact absurd rfl ha
  | dma ch =>
    obtain ⟨-, rfl⟩ := agent_next h
    split
    · exact start.then_dmaStep ch
    · exact start
  | iop ch =>
    obtain ⟨-, rfl⟩ := agent_next h
    split
    · exact start
    · exact start.then_iopStep ch
  | npx =>
    obtain ⟨-, rfl⟩ := agent_next h
    exact start.then_npxProceed _

/-- Every agent keeps what no step changes. -/
theorem agentStep_stepKeeps {a : BusAgent} {s t : State} (h : agentStep a s = .next t) : StepKeeps s t := by
  by_cases ha : a = .cpu
  · rw [ha] at h
    exact cpuStep_keeps h
  · exact StepKeeps.then_agent ⟨rfl, rfl, id⟩ (agentStep_keeps ha h)

/-- RESET keeps memory in canonical form: the store of the 8087 that it abandons writes whole bytes (47_npx_8087_state.md R317). -/
theorem resetMachine_stepKeeps (s : State) : StepKeeps s (resetMachine s) :=
  ⟨resetMachine_cfg s, resetMachine_moves s, fun c => ((AgentKeeps.refl s).then_npxAbort.canonical c).of_eq rfl rfl⟩

/-- What is left of a step that RESET cuts short is in canonical form if the state before and the whole step's are. -/
theorem abandon_canonical {s t : State} (hs : s.MemoryCanonical) (ht : t.MemoryCanonical) : (abandon s t).MemoryCanonical := by
  obtain ⟨mem, remote, bound⟩ := hs
  obtain ⟨-, -, bound'⟩ := ht
  exact ⟨Memory.partly_wf _ mem, Memory.partly_wf _ remote, Memory.partly_bound _ _ bound bound'⟩

theorem abandon_stepKeeps {s t : State} (h : StepKeeps s t) : StepKeeps s (abandon s t) :=
  ⟨h.cfg, h.moves, fun c => abandon_canonical c (h.canonical c)⟩

theorem StepKeeps.then_reset {s t : State} (h : StepKeeps s t) : StepKeeps s (resetMachine t) :=
  have k := resetMachine_stepKeeps t
  ⟨k.cfg.trans h.cfg, k.moves.trans h.moves, k.canonical ∘ h.canonical⟩

/-- RESET in the middle of a step answers when the step does, and resets what is left of it. -/
theorem resetDuring_next {a : BusAgent} {s t : State} (h : resetDuring a s = .next t) :
    ∃ u, agentStep a s = .next u ∧ t = resetMachine (abandon s u) := by
  unfold resetDuring at h
  split at h
  case h_1 u e => exact ⟨u, e, (Host.Outcome.next.inj h).symm⟩
  all_goals cases h

theorem busAccess_agentKeeps (c : BusAccess) (s : State) : AgentKeeps s (busAccess c s) := by
  have start := AgentKeeps.refl s
  cases c with
  | read a => exact start.then_busRead8 _
  | write a v => exact start.then_busWrite8 _ v
  | portRead p => exact start.then_portRead8 _
  | portWrite p v => exact start.then_update rfl rfl

theorem latchCa_remoteIo (ch : Bool) (s : State) : (s.latchCa ch).iop.remoteIo = s.iop.remoteIo := by cases ch <;> rfl

/-- A move of the platform or of another agent keeps the CPU, but for the NMI latch. -/
theorem applyMove_keeps {m : Move} {s t : State} (hc : m ≠ .cpu) (hr : m ≠ .reset) (hd : ∀ a, m ≠ .resetDuring a) (hn : m ≠ .nmi)
    (h : applyMove m s = .next t) : AgentKeeps s t := by
  have start := AgentKeeps.refl s
  cases m with
  | cpu => exact absurd rfl hc
  | reset => exact absurd rfl hr
  | resetDuring a => exact absurd rfl (hd a)
  | nmi => exact absurd rfl hn
  | intr | test | busTurns | portInput =>
    cases h
    exact start.then_update rfl rfl
  | cascadeType line type =>
    cases h
    exact start.then_update rfl rfl
  | busAccess c =>
    cases h
    split
    · exact busAccess_agentKeeps c s
    · exact start
  | remoteInput | drq | timerPin | clock | intPin =>
    obtain ⟨-, rfl⟩ := agent_next h
    exact start.then_update rfl rfl
  | ca ch =>
    obtain ⟨-, rfl⟩ := agent_next h
    exact start.then_update (by cases ch <;> rfl) (latchCa_remoteIo ch s)
  | iopDrq ch | iopExt ch =>
    obtain ⟨-, rfl⟩ := agent_next h
    exact start.then_setChan ch _
  | dma ch => exact agentStep_keeps (a := .dma ch) nofun h
  | iop ch => exact agentStep_keeps (a := .iop ch) nofun h
  | npx => exact agentStep_keeps (a := .npx) nofun h

theorem applyMove_stepKeeps {m : Move} {s t : State} (h : applyMove m s = .next t) : StepKeeps s t := by
  have start : StepKeeps s s := ⟨rfl, rfl, id⟩
  cases m
  case cpu => exact cpuStep_keeps h
  case reset =>
    cases h
    exact resetMachine_stepKeeps s
  case resetDuring a =>
    obtain ⟨u, e, rfl⟩ := resetDuring_next h
    exact (abandon_stepKeeps (agentStep_stepKeeps e)).then_reset
  case nmi =>
    cases h
    exact ⟨rfl, rfl, fun c => c.of_eq rfl rfl⟩
  all_goals exact start.then_agent (applyMove_keeps (m := _) (by nofun) (by nofun) (by nofun) (by nofun) h)

/-! ## The step -/

/-- A step that answers a next state leaves no refusal pending. -/
theorem settle_next {o : Host.Outcome State Fault Refusal} {t : State} (h : settle o = .next t) : o = .next t ∧ t.stop = none := by
  unfold settle at h
  split at h
  · split at h
    case h_1 stop =>
      cases h
      exact ⟨rfl, stop⟩
    case h_2 => cases h
  all_goals cases h

theorem settle_stop {t : State} (h : t.stop = none) : settle (.next t) = .next t := by
  simp only [settle, h]

/-- A step is a step of the CPU, or consumes the first move. -/
theorem step_keeps {s t : State} (h : step s = .next t) : StepKeeps { s with moves := s.moves.tail } t ∧ t.stop = none := by
  unfold step at h
  split at h
  case h_1 e =>
    obtain ⟨h, stop⟩ := settle_next h
    have k := cpuStep_keeps h
    exact ⟨⟨k.cfg, by rw [k.moves, e]; rfl, fun c => k.canonical c⟩, stop⟩
  case h_2 m rest e =>
    obtain ⟨h, stop⟩ := settle_next h
    rw [e]
    exact ⟨applyMove_stepKeeps h, stop⟩

/-- Settles O36: each act of the CPU and each step of another agent writes bytes one at a time, at 20-bit addresses. -/
theorem stepKeepsMemoryCanonical : Obligations.StepKeepsMemoryCanonical :=
  fun _ _ canonical h => (step_keeps h).1.canonical canonical

end Sys2Proof.Machine

/-! SUPPORT. Addresses and operands in ordinary memory (20_memory.md R31, R33, R36 to R38; 30_encoding.md R55, R61). -/

namespace Sys2Proof.Machine

/-! ## Physical addresses, R33, R38 -/

theorem toNat_segBase (seg : Word) : (seg ++ (0 : BitVec 4)).toNat = 16 * seg.toNat := by
  rw [BitVec.toNat_append]
  have e : (0 : BitVec 4).toNat = 0 := rfl
  rw [e, Nat.or_zero, Nat.shiftLeft_eq]
  omega

theorem toNat_phys (seg off : Word) : (phys seg off).toNat = (16 * seg.toNat + off.toNat) % 2 ^ 20 := by
  have hoff := off.isLt
  rw [phys, BitVec.toNat_add, toNat_segBase, BitVec.toNat_setWidth]
  omega

theorem toNat_nextByte (is186 : Bool) (seg off : Word) :
    (nextByte is186 seg off).toNat = (16 * seg.toNat + (if is186 then off.toNat + 1 else (off.toNat + 1) % 2 ^ 16)) % 2 ^ 20 := by
  unfold nextByte
  split
  case isTrue last =>
    subst last
    cases is186
    · exact toNat_phys seg 0
    · exact (BitVec.toNat_add _ _).trans (by rw [toNat_segBase]; rfl)
  case isFalse last =>
    have below : off.toNat ≠ 0xFFFF := fun e => last (BitVec.eq_of_toNat_eq e)
    have hoff := off.isLt
    have succ : (off + 1).toNat = off.toNat + 1 := by
      rw [BitVec.toNat_add]
      exact Nat.mod_eq_of_lt (show off.toNat + 1 < 2 ^ 16 by omega)
    rw [toNat_phys, succ]
    split <;> omega

/-- The two bytes of a word never share their place. -/
theorem phys_ne_nextByte (is186 : Bool) (seg off : Word) : (phys seg off).toNat ≠ (nextByte is186 seg off).toNat := by
  have hoff := off.isLt
  rw [toNat_phys, toNat_nextByte]
  split <;> omega

/-! ## Effective addresses, R55, R61 -/

/-- A base and index sum as a number, and its default segment. -/
def Base.Row (s : State) (b : Base) (n : Nat) (g : SReg) : Prop := (Base.sum s b).toNat = n % 2 ^ 16 ∧ Base.seg b = g

/-- The eight rows of R55. -/
theorem base_rows (s : State) :
    Base.Row s .bxsi (s.regs.bx.toNat + s.regs.si.toNat) .ds ∧ Base.Row s .bxdi (s.regs.bx.toNat + s.regs.di.toNat) .ds
      ∧ Base.Row s .bpsi (s.regs.bp.toNat + s.regs.si.toNat) .ss ∧ Base.Row s .bpdi (s.regs.bp.toNat + s.regs.di.toNat) .ss
      ∧ Base.Row s .si s.regs.si.toNat .ds ∧ Base.Row s .di s.regs.di.toNat .ds
      ∧ Base.Row s .bp s.regs.bp.toNat .ss ∧ Base.Row s .bx s.regs.bx.toNat .ds := by
  have one (w : Word) : w.toNat = w.toNat % 2 ^ 16 := (Nat.mod_eq_of_lt w.isLt).symm
  exact ⟨⟨BitVec.toNat_add _ _, rfl⟩, ⟨BitVec.toNat_add _ _, rfl⟩, ⟨BitVec.toNat_add _ _, rfl⟩, ⟨BitVec.toNat_add _ _, rfl⟩,
    ⟨one _, rfl⟩, ⟨one _, rfl⟩, ⟨one _, rfl⟩, ⟨one _, rfl⟩⟩

theorem signExtend_eq_ofInt (d : Byte) : d.signExtend 16 = BitVec.ofInt 16 d.toInt := rfl

/-- A sum of words with a sign-extended byte is the sum of the numbers modulo 2^16. -/
theorem toNat_add_signExtend (w : Word) (d : Byte) : ((w + d.signExtend 16).toNat : Int) = ((w.toNat : Int) + d.toInt) % 2 ^ 16 := by
  rw [BitVec.toNat_add, signExtend_eq_ofInt, BitVec.toNat_ofInt]
  omega

/-- The value of the segment register that an override or a default selects. -/
theorem segFor_eq (s : State) (d : SReg) : s.segFor d = s.segs.get (match s.ctl.latches.seg with
    | some o => o
    | none => d) := by
  unfold State.segFor
  cases s.ctl.latches.seg <;> rfl

/-- The addresses that the memory forms of a row give. -/
theorem Base.Row.addresses {s : State} {b : Base} {n : Nat} {g : SReg} (h : Base.Row s b n g) :
    (eaOff s (.ind b)).toNat = n % 2 ^ 16
      ∧ (∀ d, ((eaOff s (.disp8 b d)).toNat : Int) = ((n : Int) + d.toInt) % 2 ^ 16)
      ∧ (∀ d, (eaOff s (.disp16 b d)).toNat = (n + d.toNat) % 2 ^ 16)
      ∧ ∀ (d : Byte) (e : Word), ∀ rm ∈ [Rm.ind b, .disp8 b d, .disp16 b e],
          eaSeg s rm = s.segs.get (match s.ctl.latches.seg with
            | some o => o
            | none => g) := by
  obtain ⟨sum, rfl⟩ := h
  refine ⟨sum, fun d => ?_, fun d => ?_, fun d e => ?_⟩
  · have far := toNat_add_signExtend (Base.sum s b) d
    rw [sum] at far
    exact far.trans (by omega)
  · exact (BitVec.toNat_add _ _).trans (by rw [sum, Nat.mod_add_mod])
  · have seg := segFor_eq s (Base.seg b)
    simp only [List.forall_mem_cons, List.not_mem_nil, IsEmpty.forall_iff, implies_true, and_true]
    exact ⟨seg, seg, seg⟩

/-- Settles O6: the segment base is 16 times the segment, and each row is its sum of `base_rows`. -/
theorem effectiveAddresses : Obligations.EffectiveAddresses := by
  refine ⟨fun seg off => ⟨toNat_phys seg off, fun b => toNat_nextByte b seg off⟩, fun s => ⟨?_, fun a => ⟨rfl, segFor_eq s .ds⟩⟩⟩
  obtain ⟨bxsi, bxdi, bpsi, bpdi, si, di, bp, bx⟩ := base_rows s
  intro p hp
  simp only [List.mem_cons, List.not_mem_nil, or_false] at hp
  obtain rfl | rfl | rfl | rfl | rfl | rfl | rfl | rfl := hp
  exacts [bxsi.addresses, bxdi.addresses, bpsi.addresses, bpdi.addresses, si.addresses, di.addresses, bp.addresses, bx.addresses]

end Sys2Proof.Machine

namespace Sys2Proof.Machine

/-! ## Operands in ordinary memory, R31, R36 to R38 -/

theorem Memory.number_byte (m : Memory) (a : Nat) : m.number [a] = (m.read a).toNat := by
  simp only [Memory.number, Nat.mul_zero, Nat.add_zero]

theorem Memory.number_word (m : Memory) (a b : Nat) : m.number [a, b] = (Word.mk (m.read b) (m.read a)).toNat := by
  simp only [Memory.number, Word.toNat_mk]
  omega

/-- A read of an operand in ordinary memory gives the number that its bytes make. -/
theorem readMem_number {s : State} (h : s.PlainMemory) (w : Width) (seg off : Word) :
    (readMem w seg off s).1.toNat = s.mem.number (operandBytes s.is186 w seg off) := by
  cases w with
  | byte => rw [readMem, memRead8_plain h]; exact (Memory.number_byte ..).symm
  | word => rw [readMem, memRead16_plain h]; exact (Memory.number_word ..).symm

/-- A byte stored in canonical memory is there, and the other bytes are as before. -/
theorem stored_byte {s : State} (h : s.mem.wf = true) (a : Nat) (v : Byte) :
    Stored [a] v.toNat s { s with mem := s.mem.write a v } := by
  refine ⟨rfl, ?_, fun b hb _ => Memory.read_write_other _ _ fun e => hb (List.mem_singleton.2 e)⟩
  rw [Memory.number_byte, Memory.read_write_same h]

/-- A word stored at two places in canonical memory is there, and the other bytes are as before. -/
theorem stored_word {s : State} (h : s.mem.wf = true) {a b : Nat} (ne : a ≠ b) (v : Word) :
    Stored [a, b] v.toNat s { s with mem := (s.mem.write a v.lo).write b v.hi } := by
  refine ⟨rfl, ?_, fun c hc _ => ?_⟩
  · rw [Memory.number_word, Memory.read_write_same (Memory.wf_write h _ _), Memory.read_write_other _ _ ne, Memory.read_write_same h,
      Word.mk_hi_lo]
  · have ca : c ≠ a := fun e => hc (e ▸ List.mem_cons_self)
    have cb : c ≠ b := fun e => hc (e ▸ List.mem_cons_of_mem _ List.mem_cons_self)
    rw [Memory.read_write_other _ _ cb, Memory.read_write_other _ _ ca]

/-- A write of an operand in ordinary memory stores its bytes. -/
theorem writeMem_stored {s : State} (h : s.Ordinary) (w : Width) (seg off : Word) (v : BitVec w.bits) :
    Stored (operandBytes s.is186 w seg off) v.toNat s (writeMem w seg off v s) := by
  obtain ⟨plain, wf⟩ := h
  cases w with
  | byte => rw [writeMem, memWrite8_plain plain]; exact stored_byte wf _ v
  | word => rw [writeMem, memWrite16_plain plain]; exact stored_word wf (phys_ne_nextByte s.is186 seg off) v

/-- Settles O7: a register operand by definition, one in memory by the rules for segmented reads and writes. -/
theorem operandsInMemory : Obligations.OperandsInMemory := by
  intro s w rm h
  refine ⟨?_, readRm_plain h.1 w rm, fun v => ?_⟩
  · cases rm with
    | reg r => cases w <;> rfl
    | ind | disp8 | disp16 | direct => exact readMem_number h.1 ..
  · cases rm with
    | reg r => simp only [RmWritten, writeRm, BitVec.ofNat_toNat, BitVec.setWidth_eq]
    | ind | disp8 | disp16 | direct => exact writeMem_stored h ..

/-- A read of an r/m operand with ordinary memory. -/
theorem readRm_ordinary {s : State} (h : s.Ordinary) (w : Width) (rm : Rm) : readRm w rm s = (BitVec.ofNat w.bits (s.rmValue w rm), s) := by
  obtain ⟨value, same, -⟩ := operandsInMemory s w rm h
  refine Prod.ext (BitVec.eq_of_toNat_eq ?_) same
  rw [← value, BitVec.toNat_ofNat, Nat.mod_eq_of_lt (BitVec.isLt _)]

end Sys2Proof.Machine

/-! SUPPORT. The stack (20_memory.md R40; 40_data_transfer.md R87 to R93, R106, R107). -/

namespace Sys2Proof.Machine

/-! ## PUSH, R87 to R89, R93, R106 -/

/-- A push onto an ordinary stack, the draw count apart. -/
theorem push16_pushed {s : State} (h : s.Ordinary) (v : Word) (n : Nat) : Pushed v s (push16 v { s with fresh := n }) := by
  obtain ⟨plain, wf⟩ := h
  have e := push16_plain (s := { s with fresh := n }) plain v
  obtain ⟨-, number, kept⟩ := stored_word wf (phys_ne_nextByte s.is186 s.segs.ss (s.get .sp - 2)) v
  rw [e]
  exact ⟨rfl, number, kept⟩

/-- The free bits of a flag image are none of the nine flags. -/
theorem ofImage_image (f : Flags) (fill : Word) : Flags.ofImage (f.image fill) = f := by
  have clear (k : Nat) (h : imageFillBits.getLsbD k = false) (w : Word) : ((fill &&& imageFillBits) ||| w).getLsbD k = w.getLsbD k := by
    simp only [BitVec.getLsbD_or, BitVec.getLsbD_and, h, Bool.and_false, Bool.false_or]
  have flags : ∀ cf pf af zf sf tf ie df of : Bool,
      Flags.ofImage (BitVec.ofNat 16 (cf.toNat + 4 * pf.toNat + 16 * af.toNat + 64 * zf.toNat + 128 * sf.toNat + 256 * tf.toNat
        + 512 * ie.toNat + 1024 * df.toNat + 2048 * of.toNat))
        = { cf := cf, pf := pf, af := af, zf := zf, sf := sf, tf := tf, ie := ie, df := df, of := of } := by decide
  calc Flags.ofImage (f.image fill)
      = Flags.ofImage (BitVec.ofNat 16 (f.cf.toNat + 4 * f.pf.toNat + 16 * f.af.toNat + 64 * f.zf.toNat + 128 * f.sf.toNat + 256 * f.tf.toNat
        + 512 * f.ie.toNat + 1024 * f.df.toNat + 2048 * f.of.toNat)) := by
        simp only [Flags.ofImage, Flags.image]
        rw [clear 0 rfl, clear 2 rfl, clear 4 rfl, clear 6 rfl, clear 7 rfl, clear 8 rfl, clear 9 rfl, clear 10 rfl, clear 11 rfl]
    _ = f := flags ..

/-- PUSH reg16 pushes the register, SP as it is then (R88). -/
theorem pushRegister_eq (r : Reg) (s : State) : pushRegister r s = push16 (if r = .sp then s.get .sp - 2 else s.get r) s := by
  rw [← State.get_set .sp r (s.get .sp - 2) s]
  rfl

theorem pushImm_pushed {s : State} (h : s.Ordinary) (h6 : s.is186 = true) (v : Word) : Gives (only186 s (push16 v)) (Pushed v s) :=
  ⟨push16 v s, if_pos h6, push16_pushed h v s.fresh⟩

/-- PUSH r/m16 reads the operand, SP as it was, and pushes it (R87, R181). -/
theorem exec_pushRm {s : State} (h : s.Ordinary) (rm : Rm) :
    exec (.pushRm rm) s = .next (push16 (BitVec.ofNat 16 (s.rmValue .word rm)) s) := by
  have step : exec (.pushRm rm) s = .next (push16 (readRm .word rm s).1 (readRm .word rm s).2) := rfl
  rw [step, readRm_ordinary h]

/-- Settles O10: each form is one `push16`. -/
theorem pushStoresAtTheNewTop : Obligations.PushStoresAtTheNewTop := by
  refine ⟨fun _ => rfl, fun _ => rfl, fun _ => rfl, fun _ => rfl, fun _ => rfl, rfl, fun s h => ?_⟩
  have pushes (v : Word) : Pushed v s (push16 v s) := push16_pushed h v s.fresh
  refine ⟨fun r => ⟨_, congrArg Host.Outcome.next (pushRegister_eq r s), pushes _⟩, fun rm => ?_, fun sr => ⟨_, rfl, pushes _⟩,
    fun h6 => ⟨fun v => pushImm_pushed h h6 v, fun b => pushImm_pushed h h6 _⟩, _, rfl, s.flags.image (Config.freeFill s.fresh),
    ofImage_image _ _, push16_pushed h _ _⟩
  exact ⟨_, exec_pushRm h rm, pushes _⟩

/-! ## POP, R90 to R92, R107 -/

/-- A pop from an ordinary stack. -/
theorem pop16_ordinary {s : State} (h : s.Ordinary) : pop16 s = (s.topWord, s.set .sp (s.get .sp + 2)) := by
  have top : s.topWord = Word.mk (s.mem.read (nextByte s.is186 s.segs.ss (s.get .sp)).toNat) (s.mem.read (phys s.segs.ss (s.get .sp)).toNat) := by
    rw [State.topWord, State.stackBytes, operandBytes, Memory.number_word, BitVec.ofNat_toNat, BitVec.setWidth_eq]
  rw [pop16_plain h.1, top]

/-- SP takes no part in an effective address. -/
theorem eaOff_set_sp (s : State) (v : Word) (rm : Rm) : eaOff (s.set .sp v) rm = eaOff s rm := by
  have sum (b : Base) : Base.sum (s.set .sp v) b = Base.sum s b := by cases b <;> rfl
  cases rm with
  | reg | direct => rfl
  | ind b => exact sum b
  | disp8 b d => exact congrArg (· + d.signExtend 16) (sum b)
  | disp16 b d => exact congrArg (· + d) (sum b)

/-- Settles O11: each form is one `pop16`. -/
theorem popLoadsTheTop : Obligations.PopLoadsTheTop := by
  refine ⟨fun _ => rfl, fun _ => rfl, fun _ => rfl, rfl, fun s h => ?_⟩
  have pop := pop16_ordinary h
  refine ⟨fun r => ?_, fun rm mem => ?_, fun sr some => ?_, fun h6 => ?_, ?_⟩
  · have reg : exec (.popReg r) s = .next ((pop16 s).2.set r (pop16 s).1) := rfl
    have rm : exec (.popRm (.reg r)) s = .next ((pop16 s).2.set r (pop16 s).1) := rfl
    rw [reg, rm, pop]
    exact ⟨rfl, rfl⟩
  · have step : exec (.popRm rm) s = .next (writeRm .word rm (pop16 s).1 (pop16 s).2) := rfl
    have stored := writeMem_stored (s := s.set .sp (s.get .sp + 2)) h .word (eaSeg s rm) (eaOff s rm) s.topWord
    rw [pop, writeRm_mem _ _ _ _ mem, eaOff_set_sp] at step
    exact ⟨_, step, stored⟩
  · have step : exec (.popSreg sr) s = .next ((pop16 s).2.setSeg sr (pop16 s).1).inhibit := if_neg some
    rw [step, pop]
    rfl
  · have unused : exec (.popSreg .cs) s = unusedOpcode s := if_pos ⟨rfl, h6⟩
    rw [unused]
    exact if_pos h6
  · have step : exec .popf s = .next ((pop16 s).2.setFlags (Flags.ofImage (pop16 s).1)) := rfl
    rw [step, pop]

end Sys2Proof.Machine

/-! SUPPORT. Ports (20_memory.md R46, R47; 40_data_transfer.md R99, R100). -/

namespace Sys2Proof.Machine

/-! ## The cycles, R47 -/

/-- A port outside the control block, no access of which raises an attention. -/
def State.PlainPort (s : State) (p : Word) : Prop := s.pcbIo p = false ∧ s.caHit false p.toNat = false

theorem inCycle_presented {s : State} {p : Word} {v : Byte} (h : s.pcbIo p = false) (hv : presented s.io.inputs p.toNat = some v) :
    inCycle p s = (v, s.event (.portRead p.toNat v)) := by
  simp only [inCycle, h, portRead8, hv, Bool.false_eq_true, if_false]

theorem outCycle_plain {s : State} {p : Word} (h : s.PlainPort p) (v : Byte) : outCycle p v s = s.event (.portWrite p.toNat v) := by
  obtain ⟨block, attention⟩ := h
  have same : (s.event (.portWrite p.toNat v)).caHit false p.toNat = false := attention
  simp only [outCycle, block, State.touchCa, same, portWrite8, Bool.false_eq_true, if_false]

theorem ioRead8_presented {s : State} {p : Word} {v : Byte} (alone : s.turns = []) (h : s.pcbIo p = false)
    (hv : presented s.io.inputs p.toNat = some v) : ioRead8 p s = (v, s.event (.portRead p.toNat v)) := by
  rw [ioRead8, State.yieldBus_nil alone, inCycle_presented h hv]

/-- A word of two presented bytes, the low one at the lower port; the next port wraps at 64K (D8). -/
theorem ioRead16_presented {s : State} {p : Word} {lo hi : Byte} (alone : s.turns = []) (h : s.pcbIo p = false) (h2 : s.pcbIo (p + 1) = false)
    (hlo : presented s.io.inputs p.toNat = some lo) (hhi : presented s.io.inputs (p + 1).toNat = some hi) :
    ioRead16 p s = (Word.mk hi lo, (s.event (.portRead p.toNat lo)).event (.portRead (p + 1).toNat hi)) := by
  have second : inCycle (p + 1) (s.event (.portRead p.toNat lo)) = (hi, (s.event (.portRead p.toNat lo)).event (.portRead (p + 1).toNat hi)) :=
    inCycle_presented h2 hhi
  simp only [ioRead16, inWord, State.yieldBus_nil alone, h, Bool.false_and, Bool.false_eq_true, if_false, inCycle_presented h hlo]
  rw [State.yieldHalf_nil (s := s.event _) alone, second]

theorem ioWrite8_plain {s : State} {p : Word} (alone : s.turns = []) (h : s.PlainPort p) (v : Byte) :
    ioWrite8 p v s = s.event (.portWrite p.toNat v) := by
  rw [ioWrite8, State.yieldBus_nil alone, outCycle_plain h]

theorem ioWrite16_plain {s : State} {p : Word} (alone : s.turns = []) (h : s.PlainPort p) (h2 : s.PlainPort (p + 1)) (v : Word) :
    ioWrite16 p v s = (s.event (.portWrite p.toNat v.lo)).event (.portWrite (p + 1).toNat v.hi) := by
  have second : outCycle (p + 1) v.hi (s.event (.portWrite p.toNat v.lo)) =
    (s.event (.portWrite p.toNat v.lo)).event (.portWrite (p + 1).toNat v.hi) := outCycle_plain (s := s.event _) h2 v.hi
  simp only [ioWrite16, outWord, State.yieldBus_nil alone, h.1, Bool.false_and, Bool.false_eq_true, if_false, outCycle_plain h]
  rw [State.yieldHalf_nil (s := s.event _) alone, second]

theorem mk_eq_ofNat (hi lo : Byte) : Word.mk hi lo = BitVec.ofNat 16 (lo.toNat + 256 * hi.toNat) := by
  rw [Nat.add_comm, ← toNat_eq_of_eq_mk rfl, BitVec.ofNat_toNat, BitVec.setWidth_eq]

/-! ## IN and OUT, R99, R100 -/

theorem ioRead_keeps (w : Width) (p : Word) (s : State) : PortKeeps s (ioRead w p s).2 := by
  cases w with
  | byte => exact ioRead8_keeps p s
  | word => exact ioRead16_keeps p s

theorem ioWrite_keeps (w : Width) (p : Word) (v : BitVec w.bits) (s : State) : PortKeeps s (ioWrite w p v s) := by
  cases w with
  | byte => exact ioWrite8_keeps p v s
  | word => exact ioWrite16_keeps p v s

/-- A write of the accumulator changes no other register. -/
theorem setAcc_keptBut (w : Width) (v : BitVec w.bits) (s : State) : Regs.keptBut w .ax s.regs (s.setAcc w v).regs := by
  cases w with
  | byte => exact ⟨fun q hq => (Regs.get8_set8 s.regs .al q v).trans (if_neg hq), Regs.set8_whole s.regs .al v⟩
  | word => exact fun q hq => (Regs.get_set s.regs .ax q v).trans (if_neg hq)

theorem setAcc_frame (w : Width) (v : BitVec w.bits) (s : State) : s.setAcc w v = { s with regs := (s.setAcc w v).regs } := by
  cases w <;> rfl

/-- An IN and an OUT of one width through one port. -/
def PortPair (s : State) (w : Width) (p : Word) (inp out : Instr) : Prop :=
  (inp = .inAccDx w ∧ out = .outDxAcc w ∧ p = s.get .dx) ∨ ∃ b : Byte, inp = .inAccPort w b ∧ out = .outPortAcc w b ∧ p = b.setWidth 16

theorem PortPair.exec {s : State} {w : Width} {p : Word} {inp out : Instr} (h : PortPair s w p inp out) :
    Machine.exec inp s = .next ((ioRead w p s).2.setAcc w (ioRead w p s).1) ∧ Machine.exec out s = .next (ioWrite w p (s.acc w) s) := by
  obtain ⟨rfl, rfl, rfl⟩ | ⟨b, rfl, rfl, rfl⟩ := h
  · exact ⟨rfl, rfl⟩
  · exact ⟨rfl, rfl⟩

/-- Settles O14: the frame from what a port access keeps, the values from the cycles of ports that present a byte. -/
theorem inputAndOutput : Obligations.InputAndOutput := by
  refine ⟨fun w b => ⟨rfl, rfl, rfl, rfl⟩, fun s w p inp out pair => ?_⟩
  obtain ⟨input, output⟩ := PortPair.exec pair
  have read := ioRead_keeps w p s
  have written := ioWrite_keeps w p (s.acc w) s
  refine ⟨⟨_, input, ?_⟩, ⟨_, output, written.regs, ⟨written.segs, written.ip, written.ctl⟩, written.flags, written.mem.kept,
    written.cfg⟩, ?_⟩
  · have acc := setAcc_keptBut w (ioRead w p s).1 (ioRead w p s).2
    rw [read.regs] at acc
    rw [setAcc_frame]
    exact ⟨acc, ⟨read.segs, read.ip, read.ctl⟩, read.flags, read.mem.kept, read.cfg⟩
  cases w with
  | byte =>
    refine fun alone block attention => ⟨fun lo hlo => ?_, ?_⟩
    · rw [input, ioRead, ioRead8_presented alone block hlo]
      rfl
    · rw [output, ioWrite, ioWrite8_plain alone ⟨block, attention⟩]
      rfl
  | word =>
    refine fun alone block block2 attention attention2 => ⟨fun lo hi hlo hhi => ?_, ?_⟩
    · rw [input, ioRead, ioRead16_presented alone block block2 hlo hhi]
      rw [mk_eq_ofNat]
      rfl
    · rw [output, ioWrite, ioWrite16_plain alone ⟨block, attention⟩ ⟨block2, attention2⟩]
      rfl

end Sys2Proof.Machine

/-! SUPPORT. Fetch and the item that a step runs (20_memory.md R33, R44; 30_encoding.md R67; 70_reset_and_hazards.md R307). -/

namespace Sys2Proof.Machine

/-! ## The code at CS:IP, R67 -/

theorem toNat_codeAddr (s : State) (k : Nat) :
    (s.codeAddr k).toNat = (16 * s.segs.cs.toNat + (s.ip.toNat + k) % 2 ^ 16) % 2 ^ 20 := by
  rw [State.codeAddr, toNat_phys, BitVec.toNat_add, BitVec.toNat_ofNat, Nat.add_mod_mod]

/-- Ordinary memory is plain for a fetch everywhere. -/
theorem fetchByte_plain {s : State} (h : s.PlainMemory) (a : Phys) : s.fetchByte a = s.mem.read a.toNat := by
  have plain : s.plainCode a = true := by
    simp only [State.plainCode, h.1, regionAt_nil, h.pcbMem, h.npxStoring, Bool.not_false, Bool.and_self]
  rw [State.fetchByte, if_pos plain]

theorem fetch_plain {s : State} (h : s.PlainMemory) :
    s.fetch = (List.range 6).map fun k => s.mem.read ((16 * s.segs.cs.toNat + (s.ip.toNat + k) % 2 ^ 16) % 2 ^ 20) := by
  simp only [State.fetch, fetchByte_plain h, toNat_codeAddr]
  rfl

theorem code_eq (s : State) : s.code = if s.ctl.phase = .repeating ∨ s.ctl.phase = .waiting then [s.ctl.opByte] else s.fetch := by
  unfold State.code
  cases s.ctl.phase <;> rfl

/-! ## The start of an item, R259 -/

theorem enter_frame (s : State) (n : Nat) : s.enter n = { s with ip := (s.enter n).ip, ctl := (s.enter n).ctl, fresh := (s.enter n).fresh } :=
  rfl

/-- Every item remembers its first byte and its offset. -/
theorem begin_opByte (c : Control) (tf : Bool) (ip : Word) (first : Byte) :
    (c.begin tf ip first).opIp = ip ∧ (c.begin tf ip first).opByte = first := by
  unfold Control.begin
  cases c.phase <;> exact ⟨rfl, rfl⟩

/-- The first item of an instruction samples TF and clears the latches. -/
theorem begin_fresh {c : Control} (h : c.phase = .fresh) (tf : Bool) (ip : Word) (first : Byte) :
    (c.begin tf ip first).firstIp = ip ∧ (c.begin tf ip first).tfSampled = tf ∧ (c.begin tf ip first).latches = .none := by
  unfold Control.begin
  rw [h]
  exact ⟨rfl, rfl, rfl⟩

/-- A later item of an instruction keeps what its first one latched. -/
theorem begin_later {c : Control} (h : c.phase ≠ .fresh) (h' : c.phase ≠ .halted) (tf : Bool) (ip : Word) (first : Byte) :
    (c.begin tf ip first).firstIp = c.firstIp ∧ (c.begin tf ip first).tfSampled = c.tfSampled
      ∧ (c.begin tf ip first).latches = c.latches := by
  unfold Control.begin
  split
  · exact ⟨rfl, rfl, rfl⟩
  · exact ⟨rfl, rfl, rfl⟩
  · exact ⟨rfl, rfl, rfl⟩
  · next prefixed repeating waiting =>
    cases e : c.phase with
    | fresh => exact absurd e h
    | halted => exact absurd e h'
    | prefixed => exact absurd e prefixed
    | repeating => exact absurd e repeating
    | waiting => exact absurd e waiting

/-! ## The step of the CPU, R307 -/

/-- The CPU runs an item when neither another master nor a halt keeps it from doing so. -/
theorem cpuStep_runItem {s : State} (hold : s.iopHolds = false) (dma : s.ctl.latches.lock = true ∨ s.dmaFirst = none)
    (awake : s.ctl.phase ≠ .halted) : cpuStep s = runItem s := by
  have none_first : (if s.ctl.latches.lock = true then none else s.dmaFirst) = none := by
    split
    · rfl
    · next free => exact dma.resolve_left free
  simp only [cpuStep, hold, none_first, awake, Bool.false_eq_true, if_false]

theorem step_of_no_moves {s : State} (h : s.moves = []) : step s = settle (cpuStep s) := by
  simp only [step, h]

theorem passBegins_iff (s : State) (i : Instr) :
    s.passBegins i = true ↔ isString i = true ∧ s.ctl.latches.rep ≠ none ∧ s.get .cx ≠ 0 := by
  simp only [State.passBegins, Bool.and_eq_true, bne_iff_ne, ne_eq, Option.isSome_iff_ne_none, and_assoc]

/-- An item that decodes runs; before a pass of a repeated string instruction come the tests for NMI and INTR (R162). -/
theorem runItem_decoded {s : State} {i : Instr} {n : Nat} (h : decode s.code = .ok (i, n))
    (rep : (s.enter n).ctl.latches.rep = none ∨ repeatable i = true) :
    let u := s.enter n
    let test := midItem u.repeatIp u.ctl.tfSampled u
    runItem s = if u.passBegins i then (if test.1 then .next test.2 else finishItem i test.2) else finishItem i u := by
  intro u test
  have may : (u.ctl.latches.rep.isSome && !repeatable i) = false := by
    obtain none | may := rep
    · rw [show u.ctl.latches.rep = .none from none]; rfl
    · rw [may, Bool.not_true, Bool.and_false]
  unfold runItem
  rw [h]
  dsimp only
  rw [if_neg (Bool.eq_false_iff.1 may)]

/-- Settles O4: the fetch byte by byte, the start of the item by its phase, the step by the item it runs. -/
theorem stepRunsDecoded : Obligations.StepRunsDecoded := by
  refine ⟨fun s => ⟨fetch_plain, code_eq s⟩, fun s i n alone hold dma awake decoded rep => ?_⟩
  intro u run pass test
  have same (v : State) : finishItem i v = run v := rfl
  have item := runItem_decoded decoded rep
  simp only [same] at item
  have stepped : step s = settle (runItem s) := by rw [step_of_no_moves alone, cpuStep_runItem hold dma awake]
  obtain ⟨opIp, opByte⟩ := begin_opByte s.ctl s.flags.tf s.ip (s.code.headD 0)
  refine ⟨rfl, opIp, opByte, enter_frame s n, fun first => begin_fresh first .., fun later => begin_later later awake ..,
    fun no => ?_, fun yes => ?_⟩
  · rw [stepped, item, if_neg (mt (passBegins_iff u i).1 no)]
  · rw [stepped, item, if_pos ((passBegins_iff u i).2 yes)]

end Sys2Proof.Machine

/-! SUPPORT. What each move of the schedule does (70_reset_and_hazards.md R307; 20_memory.md R41 to R43, R47). -/

namespace Sys2Proof.Machine

/-! ## A move as a step -/

theorem step_of_move {s : State} {m : Move} {rest : List Move} (h : s.moves = m :: rest) :
    step s = settle (applyMove m { s with moves := rest }) := by
  simp only [step, h]

/-- A move that always answers a next state. -/
theorem step_does {s : State} {m : Move} {rest : List Move} {v : State} (h : applyMove m { s with moves := rest } = .next v) :
    s.moves = m :: rest → step s = settle (.next v) := fun e => (step_of_move e).trans (congrArg settle h)

/-- A move of an agent: it needs the agent, and answers a fault without it. -/
theorem step_asks {s : State} {m : Move} {rest : List Move} {v : State} {present : Bool}
    (h : applyMove m { s with moves := rest } = agent present v) :
    (present = true → s.moves = m :: rest → step s = settle (.next v))
      ∧ (present = false → s.moves = m :: rest → step s = .fault .noSuchAgent) := by
  refine ⟨fun there => step_does (h.trans (if_pos there)), fun absent e => ?_⟩
  rw [step_of_move e, h, agent, if_neg (Bool.eq_false_iff.1 absent)]
  rfl

/-! ## Who holds the bus, R521 -/

theorem holdsBus_iff (c : IopChan) : c.holdsBus = true ↔ c.activity = .transfer ∧ c.locked = true := by
  simp only [IopChan.holdsBus, Bool.and_eq_true, beq_iff_eq]

theorem iopHolds_iff (s : State) :
    s.iopHolds = true ↔ s.cfg.hasIop = true ∧ ∃ ch, (s.chan ch).activity = .transfer ∧ (s.chan ch).locked = true := by
  simp only [State.iopHolds, Bool.and_eq_true, Bool.or_eq_true, holdsBus_iff, Bool.exists_bool]
  rfl

theorem cpuStep_held {s : State} (h : s.iopHolds = true) : cpuStep s = .next s := if_pos h

/-! ## RESET in the middle of a step, R290 -/

/-- The move whose step RESET cuts short. -/
def BusAgent.move : BusAgent → Move
  | .cpu => .cpu
  | .dma ch => .dma ch
  | .iop ch => .iop ch
  | .npx => .npx

theorem applyMove_agent (a : BusAgent) (s : State) : applyMove a.move s = agentStep a s := by
  cases a <;> rfl

/-- Each byte of a memory that a step has written in part is as it was or as the step leaves it. -/
theorem Memory.partly_read (d : Nat) {old : Memory} (h : old.wf = true) (new : Memory) (b : Nat) :
    (Memory.partly d old new).read b = old.read b ∨ (Memory.partly d old new).read b = new.read b := by
  have go : ∀ (cells : List (Host.Cell × Nat)) (m : Memory), m.wf = true → (m.read b = old.read b ∨ m.read b = new.read b) →
      let n := cells.foldl (fun m c => if Config.freeBit c.2 then m.write c.1.1 (new.read c.1.1) else m) m
      n.read b = old.read b ∨ n.read b = new.read b := by
    intro cells
    induction cells with
    | nil => exact fun m _ hm => hm
    | cons c cells ih =>
      intro m wf hm
      rw [List.foldl_cons]
      split
      · refine ih _ (Memory.wf_write wf _ _) ?_
        by_cases e : b = c.1.1
        · rw [e, Memory.read_write_same wf]
          exact .inr rfl
        · rwa [Memory.read_write_other _ _ e]
      · exact ih m wf hm
  exact go _ old h (.inl rfl)

theorem settle_stopped {t : State} {r : Refusal} (h : t.stop = some r) : settle (.next t) = .refused r := by
  simp only [settle, h]

/-- RESET in the middle of a step that does not run answers what that step does. -/
theorem settle_resetDuring_fails {a : BusAgent} {s : State} (h : ∀ t, settle (agentStep a s) ≠ .next t) :
    settle (resetDuring a s) = settle (agentStep a s) := by
  unfold resetDuring
  cases e : agentStep a s with
  | fault | refused => rfl
  | next t =>
    cases stop : t.stop with
    | none => exact absurd (settle_stop stop) (e ▸ h t)
    | some r =>
      have same : (resetMachine (abandon s t)).stop = some r := (resetMachine_stop _).trans stop
      exact (settle_stopped same).trans (settle_stopped stop).symm

/-- RESET in the middle of a step that runs abandons it. -/
theorem settle_resetDuring_runs {a : BusAgent} {s t : State} (h : settle (agentStep a s) = .next t) :
    settle (resetDuring a s) = .next (resetMachine (abandon s t)) := by
  obtain ⟨e, stop⟩ := settle_next h
  rw [resetDuring, e]
  exact settle_stop ((resetMachine_stop _).trans stop)

/-! ## Accesses of other masters, R41, R47 -/

/-- What a port presents after a byte has been put at one (R47). -/
theorem presented_present (cells : List Host.Cell) (p : Nat) (v : Byte) (q : Nat) :
    presented (present cells p v) q = if q = p then some v else presented cells q := by
  induction cells with
  | nil => rfl
  | cons c rest ih =>
    obtain ⟨n, w⟩ := c
    unfold present
    split
    · rfl
    · split
      · next e =>
        subst e
        unfold presented
        split <;> rfl
      · next ne =>
        simp only [presented, ih]
        split
        · next e => rw [if_neg (fun k => ne (k.symm.trans e))]
        · rfl

theorem busAccess_portWrite (p : Nat) (v : Byte) (s : State) : busAccess (.portWrite p v) s = s.event (.portWrite (p % 2 ^ 16) v) := by
  rw [busAccess, portWrite8, BitVec.toNat_ofNat]

theorem busAccess_portRead {p : Nat} {v : Byte} {s : State} (h : presented s.io.inputs (p % 2 ^ 16) = some v) :
    busAccess (.portRead p) s = s.event (.portRead (p % 2 ^ 16) v) := by
  simp only [busAccess, portRead8, BitVec.toNat_ofNat, h]

theorem busAccess_read_plain {s : State} (h : s.PlainMemory) (a : Nat) : busAccess (.read a) s = s := by
  rw [busAccess, busRead8_plain h]

theorem busAccess_write_plain {s : State} (h : s.PlainMemory) (a : Nat) (v : Byte) :
    busAccess (.write a v) s = { s with mem := s.mem.write (a % 2 ^ 20) v } := by
  rw [busAccess, busWrite8_plain h, BitVec.toNat_ofNat]

/-! ## A word read in two cycles, R41, R43, R276 -/

/-- A turn of another master that holds the bus for these accesses, when it may have it. -/
theorem yieldBus_cons {s : State} {t : BusTurn} {rest : List BusTurn} (h : s.turns = t :: rest) (joined : Bool) :
    s.yieldBus joined =
      if s.busFree = true ∧ (joined = true → t.hold = false) then t.accesses.foldl (fun u c => busAccess c u) { s with turns := rest }
      else s := by
  simp only [State.yieldBus, h]
  cases s.busFree <;> cases joined <;> cases t.hold <;> rfl

/-- A read cycle in ordinary memory, whoever waits for the bus. -/
theorem readCycle_waiting {s : State} (h : s.PlainMemory) (ts : List BusTurn) (a : Phys) :
    readCycle a { s with turns := ts } = (s.mem.read a.toNat, { s with turns := ts }) := by
  have block : ({ s with turns := ts } : State).pcbMem a = false := h.pcbMem a
  have attention : ({ s with turns := ts } : State).caHit true a.toNat = false := h.caHit a.toNat
  have storing : ({ s with turns := ts } : State).npxStoring a = false := h.npxStoring a
  simp only [readCycle, block, State.touchCa, attention, busRead8, h.1, regionAt_nil, storing, Bool.false_eq_true, if_false]

/-- The two cycles of a word read in ordinary memory: between them a turn may come. -/
theorem readWord_waiting {s : State} (h : s.PlainMemory) (ts : List BusTurn) (a a2 : Phys) :
    readWord a a2 { s with turns := ts } =
      let second := readCycle a2 (State.yieldHalf (a.getLsbD 0) { s with turns := ts })
      (Word.mk second.1 (s.mem.read a.toNat), second.2) := by
  have word : ({ s with turns := ts } : State).pcbMemWord a a2 = false := by
    have block : ({ s with turns := ts } : State).pcbMem a = false := h.pcbMem a
    simp only [State.pcbMemWord, block, Bool.false_and]
  simp only [readWord, word, readCycle_waiting h, Bool.false_eq_true, if_false]

/-- May a turn come between the two cycles of a word read? -/
def State.LetsBetween (s : State) (a : Phys) (hold : Bool) : Prop :=
  s.busFree = true ∧ if a.getLsbD 0 then hold = false else s.cfg.wide = false

theorem yieldHalf_cons {s : State} {t : BusTurn} {rest : List BusTurn} (h : s.turns = t :: rest) (a : Phys) (lets : s.LetsBetween a t.hold) :
    s.yieldHalf (a.getLsbD 0) = t.accesses.foldl (fun u c => busAccess c u) { s with turns := rest } := by
  obtain ⟨free, half⟩ := lets
  rw [State.yieldHalf]
  split at half
  · next odd => rw [odd, Bool.not_true, Bool.false_and, if_neg nofun, yieldBus_cons h, if_pos ⟨free, fun _ => half⟩]
  · next even => rw [half, Bool.and_false, if_neg nofun, yieldBus_cons h, if_pos ⟨free, fun odd => absurd odd even⟩]

theorem yieldHalf_cons_waits {s : State} {t : BusTurn} {rest : List BusTurn} (h : s.turns = t :: rest) (a : Phys)
    (lets : ¬s.LetsBetween a t.hold) : s.yieldHalf (a.getLsbD 0) = s := by
  unfold State.LetsBetween at lets
  rw [State.yieldHalf, yieldBus_cons h]
  split
  · rfl
  · next half =>
    refine if_neg fun k => lets ⟨k.1, ?_⟩
    split
    · next odd => exact k.2 odd
    · next even =>
      rw [Bool.eq_false_iff.2 even, Bool.not_false, Bool.true_and] at half
      exact Bool.eq_false_iff.2 half

end Sys2Proof.Machine

namespace Sys2Proof.Machine

/-! ## A torn word, R41, R43, R276 -/

/-- Two turns of another master that wait: an empty one, and one that stores to both bytes of a word. -/
def State.withTearing (s : State) (a a2 : Phys) (hold : Bool) (x y : Byte) : State :=
  { s with turns := [⟨hold, []⟩, ⟨hold, [.write a.toNat x, .write a2.toNat y]⟩] }

/-- The stores come between the cycles: the first half is the old one, the second the new one. -/
theorem memRead16_torn {s : State} (h : s.Ordinary) {a : Phys} {hold : Bool} (lets : s.LetsBetween a hold) (a2 : Phys) (x y : Byte) :
    (memRead16 a a2 (s.withTearing a a2 hold x y)).1 = Word.mk y (s.mem.read a.toNat)
      ∧ (memRead16 a a2 (s.withTearing a a2 hold x y)).2.turns = [] := by
  obtain ⟨plain, wf⟩ := h
  have same (b : Phys) : b.toNat % 2 ^ 20 = b.toNat := Nat.mod_eq_of_lt b.isLt
  have first : (s.withTearing a a2 hold x y).yieldBus false = { s with turns := [⟨hold, [.write a.toNat x, .write a2.toNat y]⟩] } := by
    rw [yieldBus_cons rfl, if_pos ⟨lets.1, nofun⟩]
    rfl
  have between : State.yieldHalf (a.getLsbD 0) { s with turns := [⟨hold, [.write a.toNat x, .write a2.toNat y]⟩] } =
      { s with mem := (s.mem.write a.toNat x).write a2.toNat y } := by
    rw [yieldHalf_cons rfl a lets, List.foldl_cons, List.foldl_cons, List.foldl_nil]
    have alone : ({ s with turns := [] } : State) = s := by rw [← plain.turns]
    rw [alone, busAccess_write_plain plain, busAccess_write_plain (plain.write _), same, same]
  rw [memRead16, first, readWord_waiting plain, between, readCycle_plain (plain.write _)]
  exact ⟨by rw [Memory.read_write_same (Memory.wf_write wf _ _)], plain.turns⟩

/-- The stores wait: both halves are the old ones. -/
theorem memRead16_whole {s : State} (h : s.Ordinary) {a : Phys} {hold : Bool} (waits : ¬s.LetsBetween a hold) (a2 : Phys) (x y : Byte) :
    (memRead16 a a2 (s.withTearing a a2 hold x y)).1 = Word.mk (s.mem.read a2.toNat) (s.mem.read a.toNat)
      ∧ (memRead16 a a2 (s.withTearing a a2 hold x y)).2.turns ≠ [] := by
  have first : ∃ t rest, t.hold = hold ∧ (s.withTearing a a2 hold x y).yieldBus false = { s with turns := t :: rest } := by
    rw [yieldBus_cons rfl]
    split
    · exact ⟨_, _, rfl, rfl⟩
    · exact ⟨_, _, rfl, rfl⟩
  obtain ⟨t, rest, rfl, first⟩ := first
  have between : State.yieldHalf (a.getLsbD 0) { s with turns := t :: rest } = { s with turns := t :: rest } :=
    yieldHalf_cons_waits rfl a waits
  rw [memRead16, first, readWord_waiting h.1, between, readCycle_waiting h.1]
  exact ⟨rfl, nofun⟩

/-! ## A step of a channel of the 8089, R463 -/

theorem checking_iff (c : IopChan) : c.checking = true ↔ c.activity = .transfer ∧ ∃ h, c.hold = some h ∧ h.stage = .check := by
  simp only [IopChan.checking, Bool.and_eq_true, beq_iff_eq, Option.any_eq_true]

theorem iopStep_waits {ch : Bool} {s : State} (h : iopRuns ch s = false) : iopStep ch s = s := by
  rw [iopStep, h, if_neg nofun]

/-- The channel that runs is the last of two from then on, unless its tests of a store are still to come. -/
theorem iopStep_runs {ch : Bool} {s v : State} (h : iopRuns ch s = true) (checks : (s.chan ch).checking = true → v = s)
    (turns : (s.chan ch).checking = false → v = { s with iop := { s.iop with lastTwo := ch } }) :
    iopStep ch s = if (s.chan ch).attends then iopAttention ch v
      else if (s.chan ch).activity = .transfer then iopTransfer ch v
      else if (s.chan ch).activity = .idle then v else iopInstruction ch v := by
  have start : (if (s.chan ch).checking then s else { s with iop := { s.iop with lastTwo := ch } }) = v := by
    split
    · next k => exact (checks k).symm
    · next k => exact (turns (Bool.eq_false_iff.2 k)).symm
  have chan : v.chan ch = s.chan ch := by
    rw [← start]
    split <;> cases ch <;> rfl
  unfold iopStep
  dsimp only
  rw [if_pos h, start, chan]
  split
  · rfl
  · cases (s.chan ch).activity <;> rfl

end Sys2Proof.Machine

namespace Sys2Proof.Machine

/-! ## The moves one by one, R307 -/

/-- No move of the platform or of another agent, RESET apart, changes the CPU but for the NMI latch. -/
theorem applyMove_cpu {m : Move} {s t : State} (hc : m ≠ .cpu) (hr : m ≠ .reset) (hd : ∀ a, m ≠ .resetDuring a)
    (h : applyMove m s = .next t) :
    t.regs = s.regs ∧ t.segs = s.segs ∧ t.ip = s.ip ∧ t.flags = s.flags
      ∧ { t.ctl with nmiPending := s.ctl.nmiPending } = s.ctl ∧ (m ≠ .nmi → t.ctl = s.ctl) := by
  by_cases hn : m = .nmi
  · subst hn
    cases h
    exact ⟨rfl, rfl, rfl, rfl, rfl, fun k => absurd rfl k⟩
  · have k := applyMove_keeps hc hr hd hn h
    exact ⟨k.regs, k.segs, k.ip, k.flags, by rw [k.ctl], fun _ => k.ctl⟩

/-- RESET in the middle of the step of an agent, the step being that of `own`. -/
theorem step_resetDuring {s : State} {a : BusAgent} {rest : List Move} (h : s.moves = .resetDuring a :: rest) {own : State}
    (e : own = { s with moves := a.move :: rest }) :
    (¬Runs own → step s = step own) ∧ ∀ t, step own = .next t → step s = .next (resetMachine (abandon { s with moves := rest } t))
      ∧ (s.mem.wf = true → ∀ b, (abandon { s with moves := rest } t).mem.read b = s.mem.read b
          ∨ (abandon { s with moves := rest } t).mem.read b = t.mem.read b) := by
  have reset : step s = settle (resetDuring a { s with moves := rest }) := step_of_move h
  have alone : step own = settle (agentStep a { s with moves := rest }) := by
    rw [e, step_of_move rfl, applyMove_agent]
  rw [reset, alone]
  refine ⟨fun fails => settle_resetDuring_fails fun t k => fails ⟨t, alone.trans k⟩, fun t runs => ?_⟩
  exact ⟨settle_resetDuring_runs runs, fun wf b => Memory.partly_read _ wf _ b⟩

/-- A DMA channel moves when it has the bus, wins it and is not halted. -/
theorem dma_move (ch : Bool) (s : State) :
    (if s.busFree then dmaStep ch s else s) = if s.busFree && s.pcb.dmaWins ch && !s.dmaHalted then dmaTransfer ch s else s := by
  cases s.busFree with
  | false => rfl
  | true => rfl

/-- Settles O41: each clause is the arm of `applyMove` for its move. -/
theorem movesAndTheCpu : Obligations.MovesAndTheCpu := by
  refine ⟨fun s t h => ?_, fun s t m rest e hc hr hd h => ?_, fun s rest => ?_, fun s ch => ?_⟩
  · obtain ⟨k, stop⟩ := step_keeps h
    exact ⟨k.cfg, k.moves, stop⟩
  · rw [step_of_move e] at h
    exact applyMove_cpu (s := { s with moves := rest }) hc hr hd (settle_next h).1
  · intro u free does asks
    refine ⟨iopHolds_iff s, step_of_no_moves, step_of_move, cpuStep_held, step_does rfl, fun a e => ?_, step_does rfl,
      fun _ _ => step_does rfl, fun _ => ⟨step_does rfl, step_does rfl⟩, fun _ => step_does rfl, fun _ => step_does rfl,
      fun p v => ⟨busAccess_portWrite p v s, busAccess_portRead⟩, fun a v ordinary => ?_, fun _ => step_does rfl,
      fun a a2 hold x y ordinary => ⟨fun lets => memRead16_torn ordinary lets a2 x y, fun waits => memRead16_whole ordinary waits a2 x y⟩,
      fun p v => ⟨step_does rfl, step_asks rfl, fun cells q => presented_present cells p v q⟩,
      fun _ => ⟨step_asks rfl, step_asks rfl⟩, fun _ _ => step_asks rfl, step_asks rfl, fun _ _ => step_asks rfl,
      fun ch => step_asks (congrArg (agent s.is186) (dma_move ch u)), fun ch => step_asks (by cases ch <;> rfl), fun _ => step_asks rfl,
      fun _ _ => ⟨step_asks rfl, step_asks rfl⟩, step_asks rfl⟩
    · exact step_resetDuring e (by cases a <;> rfl)
    · exact ⟨busAccess_read_plain ordinary.1 a, busAccess_write_plain ordinary.1 a v ▸ stored_byte ordinary.2 _ v⟩
  · intro c checks
    refine ⟨iopStep_waits, fun runs v held turns => ?_⟩
    exact iopStep_runs runs (fun k => held ((checking_iff c).1 k)) fun k => turns fun now => Bool.eq_false_iff.1 k ((checking_iff c).2 now)

end Sys2Proof.Machine

/-! SUPPORT. The decoder and the encoder invert each other (30_encoding.md R50 to R73). -/

namespace Sys2Proof

/-! ## Fields, R54, R55 -/

/-- A property of the three-bit fields, value by value. -/
theorem octal_cases {p : BitVec 3 → Prop} (h0 : p 0) (h1 : p 1) (h2 : p 2) (h3 : p 3) (h4 : p 4) (h5 : p 5) (h6 : p 6) (h7 : p 7) :
    ∀ n, p n
  | ⟨0, _⟩ => h0
  | ⟨1, _⟩ => h1
  | ⟨2, _⟩ => h2
  | ⟨3, _⟩ => h3
  | ⟨4, _⟩ => h4
  | ⟨5, _⟩ => h5
  | ⟨6, _⟩ => h6
  | ⟨7, _⟩ => h7

theorem Base.bits_ofBits : ∀ n : BitVec 3, (Base.ofBits n).bits = n := by decide

theorem Base.ofBits_ne_bp : ∀ {n : BitVec 3}, n ≠ 6 → Base.ofBits n ≠ .bp := by decide

theorem encWord_mk (hi lo : Byte) : encWord (Word.mk hi lo) = [lo, hi] := by
  rw [encWord, Word.lo_mk, Word.hi_mk]

theorem three_of_ne : ∀ n : BitVec 2, n.toNat ≠ 0 → n.toNat ≠ 1 → n.toNat ≠ 2 → n.toNat = 3 := by decide

/-- A mod byte with its `mod` field is its three fields. -/
theorem modrm_append {m : Byte} {mod : BitVec 2} (h : (m.extractLsb' 6 2).toNat = mod.toNat) :
    mod ++ m.extractLsb' 3 3 ++ m.extractLsb' 0 3 = m := by
  have parts : ∀ m : Byte, m.extractLsb' 6 2 ++ m.extractLsb' 3 3 ++ m.extractLsb' 0 3 = m := by decide
  exact BitVec.eq_of_toNat_eq h ▸ parts m

/-- The mod byte and displacement that are read are those the encoder writes for the operand. -/
theorem decodeModRm_reads {bs rest : List Byte} {reg : BitVec 3} {rm : Rm} {k : Nat} (h : decodeModRm bs = some (reg, rm, rest, k)) :
    rm.wellFormed = true ∧ bs = encodeModRm reg rm ++ rest ∧ k = (encodeModRm reg rm).length := by
  cases bs with
  | nil => cases h
  | cons m bs =>
    unfold decodeModRm at h
    dsimp only at h
    split at h
    next mod =>
      split at h
      next six =>
        split at h
        · cases h
          refine ⟨rfl, ?_, rfl⟩
          rw [encodeModRm, encWord_mk, ← six, modrm_append (mod := 0) mod]
          rfl
        · cases h
      next six =>
        cases h
        refine ⟨bne_iff_ne.2 (Base.ofBits_ne_bp six), ?_, rfl⟩
        rw [encodeModRm, Base.bits_ofBits, modrm_append (mod := 0) mod]
        rfl
    next mod =>
      split at h
      · cases h
        refine ⟨rfl, ?_, rfl⟩
        rw [encodeModRm, Base.bits_ofBits, modrm_append (mod := 1) mod]
        rfl
      · cases h
    next mod =>
      split at h
      · cases h
        refine ⟨rfl, ?_, rfl⟩
        rw [encodeModRm, encWord_mk, Base.bits_ofBits, modrm_append (mod := 2) mod]
        rfl
      · cases h
    next n0 n1 n2 =>
      cases h
      have mod : (m.extractLsb' 6 2).toNat = 3 := three_of_ne _ n0 n1 n2
      refine ⟨rfl, ?_, rfl⟩
      rw [encodeModRm, Reg.bits_ofBits, modrm_append (mod := 3) mod]
      rfl

theorem length_encodeModRm (reg : BitVec 3) (rm : Rm) : (encodeModRm reg rm).length ≤ 3 := by
  cases rm <;> simp [encodeModRm, encWord]

theorem Rm.wellFormedMem_of {rm : Rm} (h : rm.wellFormed = true) (m : rm.isMem = true) : rm.wellFormedMem = true := by
  cases rm with
  | reg r => cases m
  | ind | disp8 | disp16 | direct => exact h

/-! ## The encodings a form stands for -/

/-- The instruction is the one that the bytes encode. -/
structure Instr.EncodedBy (i : Instr) (bytes : List Byte) : Prop where
  wellFormed : i.wellFormed = true
  canonical  : canonical i = i
  bytes      : encode i = bytes

/-- Whatever follows the bytes `pre`, the instruction that a tail makes of it is encoded by both. Only behind an opcode byte alone are
there more than two bytes to follow (R50). -/
def Tail.Inverts (pre : List Byte) : Tail → Prop
  | .ok i => i.EncodedBy pre
  | .bad _ => True
  | .b f => ∀ x, (f x).EncodedBy (pre ++ [x])
  | .bCheck f => ∀ x i, f x = .ok i → i.EncodedBy (pre ++ [x])
  | .w f => ∀ v, (f v).EncodedBy (pre ++ encWord v)
  | .ww f => pre.length = 1 ∧ ∀ u v, (f u v).EncodedBy (pre ++ (encWord u ++ encWord v))
  | .wb f => pre.length = 1 ∧ ∀ v x, (f v x).EncodedBy (pre ++ (encWord v ++ [x]))

/-- The same for the form of an opcode byte; the reg field is named by the register it stands for. -/
def Form.Inverts (opcode : Byte) : Form → Prop
  | .plain t => t.Inverts [opcode]
  | .modrm f => ∀ (r : Reg) (rm : Rm), rm.wellFormed = true → (f r.bits rm).Inverts (opcode :: encodeModRm r.bits rm)

/-- What a tail reads is an encoding at the head of the bytes. -/
theorem Tail.Inverts.reads {t : Tail} {pre bs : List Byte} {i : Instr} {n : Nat} (ht : t.Inverts pre) (short : pre.length ≤ 4)
    (h : t.run pre.length bs = .ok (i, n)) :
    ∃ e rest, i.EncodedBy e ∧ pre ++ bs = e ++ rest ∧ n = e.length ∧ pre.length ≤ n ∧ n ≤ 6 := by
  cases t with
  | ok j =>
    cases h
    exact ⟨pre, bs, ht, rfl, rfl, le_rfl, by omega⟩
  | bad e => cases h
  | b f =>
    cases bs with
    | nil => cases h
    | cons x rest =>
      cases h
      exact ⟨_, rest, ht x, by simp, by simp, by omega, by omega⟩
  | bCheck f =>
    cases bs with
    | nil => cases h
    | cons x rest =>
      simp only [Tail.run] at h
      split at h
      next e =>
        cases h
        exact ⟨_, rest, ht x _ e, by simp, by simp, by omega, by omega⟩
      · cases h
  | w f =>
    simp only [Tail.run] at h
    split at h
    next lo hi rest =>
      cases h
      exact ⟨_, rest, ht _, by simp [encWord_mk], by simp, by omega, by omega⟩
    · cases h
  | ww f =>
    obtain ⟨one, both⟩ := ht
    simp only [Tail.run] at h
    split at h
    next b0 b1 b2 b3 rest =>
      cases h
      exact ⟨_, rest, both _ _, by simp [encWord_mk], by simp, by omega, by omega⟩
    · cases h
  | wb f =>
    obtain ⟨one, both⟩ := ht
    simp only [Tail.run] at h
    split at h
    next b0 b1 b2 rest =>
      cases h
      exact ⟨_, rest, both _ _, by simp [encWord_mk], by simp, by omega, by omega⟩
    · cases h

theorem Tail.memOnly_inverts {pre : List Byte} {rm : Rm} {t : Tail} (h : rm.wellFormed = true)
    (ht : rm.wellFormedMem = true → t.Inverts pre) : (t.memOnly rm).Inverts pre := by
  unfold Tail.memOnly
  split
  next m => exact ht (Rm.wellFormedMem_of h m)
  · trivial

/-! ## The opcode map, R62 and R63 -/

/-- The fields of an opcode byte. -/
theorem opcode_fields : ∀ (a : BitVec 2) (op low : BitVec 3),
    (a ++ op ++ low).extractLsb' 0 3 = low ∧ (a ++ op ++ low).extractLsb' 3 5 = a ++ op := by
  decide

/-- A form whose reg field is a register operand. -/
theorem modrm_field_inverts {b : Byte} {t : Reg → Rm → Tail}
    (h : ∀ r rm, rm.wellFormed = true → (t r rm).Inverts (b :: encodeModRm r.bits rm)) :
    (Form.modrm fun n rm => t (Reg.ofBits n) rm).Inverts b := by
  intro r rm wf
  dsimp only
  rw [Reg.ofBits_bits]
  exact h r rm wf

/-- And nothing follows. -/
theorem modrm_reg_inverts {b : Byte} {f : Rm → Reg → Instr}
    (h : ∀ r rm, rm.wellFormed = true → (f rm r).EncodedBy (b :: encodeModRm r.bits rm)) :
    (Form.modrm fun n rm => .ok (f rm (Reg.ofBits n))).Inverts b :=
  modrm_field_inverts (t := fun r rm => .ok (f rm r)) h

/-- And the other operand must be memory. -/
theorem modrm_mem_inverts {b : Byte} {f : Reg → Rm → Instr}
    (h : ∀ r rm, rm.wellFormedMem = true → (f r rm).EncodedBy (b :: encodeModRm r.bits rm)) :
    (Form.modrm fun n rm => .memOnly rm (.ok (f (Reg.ofBits n) rm))).Inverts b :=
  modrm_field_inverts (t := fun r rm => .memOnly rm (.ok (f r rm))) fun r rm wf => Tail.memOnly_inverts wf (h r rm)

/-! ### Groups, R63 -/

theorem groupImm_inverts (w : Width) : (Form.modrm (groupImm w)).Inverts (opW 0x40 w) := by
  intro r rm wf
  cases w <;> cases r <;> exact fun _ => .mk wf rfl rfl

theorem groupImmS_inverts {k : Byte → ImmS} {b : Byte}
    (h : ∀ (n : BitVec 3) (rm : Rm) (x : Byte), encRS n rm (k x) = b :: (encodeModRm n rm ++ [x])) :
    (Form.modrm (groupImmS k)).Inverts b := by
  intro r rm wf
  cases r with
  | cx | sp | si => trivial
  | ax | dx | bx | bp | di => exact fun _ => .mk wf rfl (h _ _ _)

theorem groupShift_inverts (c : ShiftCount) (w : Width) :
    (Form.modrm (groupShift c w)).Inverts ((0x34 : BitVec 6) ++ c.bit ++ w.bit) := by
  intro r rm wf
  cases r with
  | si => trivial
  | ax | cx | dx | bx | sp | bp | di => exact .mk wf rfl rfl

theorem groupShiftImm_inverts (w : Width) : (Form.modrm (groupShiftImm w)).Inverts (opW 0x60 w) := by
  intro r rm wf
  cases r with
  | si => trivial
  | ax | cx | dx | bx | sp | bp | di => exact fun _ => .mk wf rfl rfl

theorem groupUnary_inverts (w : Width) : (Form.modrm (groupUnary w)).Inverts (opW 0x7B w) := by
  intro r rm wf
  cases r with
  | ax => cases w <;> exact fun _ => .mk wf rfl rfl
  | cx => trivial
  | dx | bx | sp | bp | si | di => exact .mk wf rfl rfl

theorem groupFE_inverts : (Form.modrm groupFE).Inverts 0xFE := by
  intro r rm wf
  cases r with
  | ax | cx | di => exact .mk wf rfl rfl
  | dx | bx | sp | bp | si => trivial

theorem groupFF_inverts : (Form.modrm groupFF).Inverts 0xFF := by
  intro r rm wf
  cases r with
  | bx | bp => exact Tail.memOnly_inverts wf fun mem => .mk mem rfl rfl
  | ax | cx | dx | sp | si | di => exact .mk wf rfl rfl

/-- MOV between a segment register and r/m: the reg field is below 4 (R54, U2). -/
theorem movRmSreg_inverts : (row88 4).Inverts 0x8C := by
  intro r rm wf
  cases r with
  | ax | cx | dx | bx => exact .mk wf rfl rfl
  | sp | bp | si | di => trivial

/-- And not CS as destination. -/
theorem movSregRm_inverts : (row88 6).Inverts 0x8E := by
  intro r rm wf
  cases r with
  | ax | dx | bx => exact .mk wf rfl rfl
  | cx | sp | bp | si | di => trivial

/-- A form whose reg field must be 0. -/
theorem reg0_inverts {b : Byte} {t : Rm → Tail} (h : ∀ rm, rm.wellFormed = true → (t rm).Inverts (b :: encodeModRm 0 rm)) :
    (Form.modrm fun n rm => if n = 0 then t rm else .bad .groupSlot).Inverts b := by
  intro r rm wf
  cases r with
  | ax => exact h rm wf
  | cx | dx | bx | sp | bp | si | di => trivial

theorem movRmImm_inverts (w : Width) :
    (Form.modrm fun n rm => if n = 0 then immTail w (.movRmImm rm) else .bad .groupSlot).Inverts (opW 0x63 w) :=
  reg0_inverts fun _ wf => by cases w <;> exact fun _ => .mk wf rfl rfl

/-- AAM and AAD: the second byte is 0AH (U14). -/
theorem adjust_inverts {b : Byte} {i : Instr} (h : i.EncodedBy [b, 10]) :
    (Form.plain (.bCheck fun x => if x = 10 then .ok i else .error .adjustByte)).Inverts b := by
  intro x j e
  dsimp only at e
  split at e
  next ten =>
    cases e
    exact ten ▸ h
  · cases e

/-! ### ESC, R71 and 48_npx_8087_instructions.md R424 -/

/-- An 8087 instruction with a memory operand that the table names. -/
theorem escMem_named {lo reg : BitVec 3} {rm : Rm} (mem : rm.wellFormedMem = true) (named : escNamedMem lo.toNat reg.toNat = true) :
    (escMem lo reg rm).EncodedBy (((0x1B : BitVec 5) ++ lo) :: encodeModRm reg rm) := by
  cases lo using octal_cases <;> cases reg using octal_cases <;> cases named <;> exact .mk mem rfl rfl

/-- An 8087 instruction of the register forms that the table names. -/
theorem escReg_named : ∀ lo reg i : BitVec 3, escNamedReg lo.toNat reg.toNat i.toNat = true →
    (escReg lo reg i).wellFormed = true ∧ canonical (escReg lo reg i) = escReg lo reg i
      ∧ encode (escReg lo reg i) = encEscSti lo reg i := by
  decide

theorem esc_parts : ∀ lo reg : BitVec 3, (lo ++ reg).toNat / 8 = lo.toNat ∧ (lo ++ reg).toNat % 8 = reg.toNat
    ∧ (lo ++ reg).extractLsb' 3 3 = lo ∧ (lo ++ reg).extractLsb' 0 3 = reg := by
  decide

/-- An ESC that the table does not name (U37). -/
theorem esc_encodedBy {lo reg : BitVec 3} {rm : Rm} (wf : rm.wellFormed = true) (plain : escPlain (lo ++ reg) rm = true) :
    (Instr.esc (lo ++ reg) rm).EncodedBy (((0x1B : BitVec 5) ++ lo) :: encodeModRm reg rm) := by
  obtain ⟨-, -, hi, low⟩ := esc_parts lo reg
  refine ⟨?_, rfl, ?_⟩
  · rw [Instr.wellFormed, wf, plain]
    rfl
  · rw [encode, hi, low]

theorem Reg.toNat_bits (r : Reg) : r.bits.toNat = r.number := by cases r <;> rfl

theorem escReg_encodedBy (lo reg : BitVec 3) (r : Reg) :
    (escReg lo reg r.bits).EncodedBy (((0x1B : BitVec 5) ++ lo) :: encodeModRm reg (.reg r)) := by
  obtain ⟨hi, low, -⟩ := esc_parts lo reg
  cases named : escNamedReg lo.toNat reg.toNat r.bits.toNat with
  | true =>
    obtain ⟨wf, self, bytes⟩ := escReg_named lo reg r.bits named
    exact ⟨wf, self, bytes⟩
  | false =>
    rw [Laws.RoundTrip.escReg_plain _ _ _ named, Reg.ofBits_bits]
    refine esc_encodedBy rfl ?_
    rw [escPlain, hi, low, ← Reg.toNat_bits, named]
    rfl

theorem escMem_encodedBy (lo reg : BitVec 3) {rm : Rm} (mem : rm.wellFormedMem = true) :
    (escMem lo reg rm).EncodedBy (((0x1B : BitVec 5) ++ lo) :: encodeModRm reg rm) := by
  obtain ⟨hi, low, -⟩ := esc_parts lo reg
  cases named : escNamedMem lo.toNat reg.toNat with
  | true => exact escMem_named mem named
  | false =>
    rw [Laws.RoundTrip.escMem_plain _ _ _ named]
    refine esc_encodedBy (Rm.wellFormedMem_wellFormed mem) ?_
    cases rm with
    | reg r => cases mem
    | ind | disp8 | disp16 | direct =>
      show (!escNamedMem ((lo ++ reg).toNat / 8) ((lo ++ reg).toNat % 8)) = true
      rw [hi, low, named]
      rfl

theorem escForm_inverts (lo : BitVec 3) : (escForm lo).Inverts ((0x1B : BitVec 5) ++ lo) := by
  intro r rm wf
  cases rm with
  | reg i => exact escReg_encodedBy lo r.bits i
  | ind | disp8 | disp16 | direct => exact escMem_encodedBy lo r.bits wf

/-! ### The rows: eight opcodes each, in their order -/

theorem row60_inverts : ∀ low, (row60 low).Inverts ((1 : BitVec 2) ++ (4 : BitVec 3) ++ low) :=
  octal_cases (.mk rfl rfl rfl) (.mk rfl rfl rfl) (modrm_mem_inverts fun _ _ mem => .mk mem rfl rfl) (.mk rfl rfl rfl) (.mk rfl rfl rfl)
    (.mk rfl rfl rfl) (.mk rfl rfl rfl) (.mk rfl rfl rfl)

theorem row68_inverts : ∀ low, (row68 low).Inverts ((1 : BitVec 2) ++ (5 : BitVec 3) ++ low) :=
  octal_cases (fun _ => .mk rfl rfl rfl)
    (modrm_field_inverts (t := fun r rm => .w (.imulImm16 r rm)) fun _ _ wf _ => .mk wf rfl rfl)
    (fun _ => .mk rfl rfl rfl)
    (modrm_field_inverts (t := fun r rm => .b (.imulImm8 r rm)) fun _ _ wf _ => .mk wf rfl rfl)
    (.mk rfl rfl rfl) (.mk rfl rfl rfl) (.mk rfl rfl rfl) (.mk rfl rfl rfl)

theorem jccForm_inverts_low : ∀ low : BitVec 3, (jccForm ((0 : BitVec 1) ++ low)).Inverts ((1 : BitVec 2) ++ (6 : BitVec 3) ++ low) :=
  octal_cases (fun _ => .mk rfl rfl rfl) (fun _ => .mk rfl rfl rfl) (fun _ => .mk rfl rfl rfl) (fun _ => .mk rfl rfl rfl)
    (fun _ => .mk rfl rfl rfl) (fun _ => .mk rfl rfl rfl) (fun _ => .mk rfl rfl rfl) (fun _ => .mk rfl rfl rfl)

theorem jccForm_inverts_high : ∀ low : BitVec 3, (jccForm ((1 : BitVec 1) ++ low)).Inverts ((1 : BitVec 2) ++ (7 : BitVec 3) ++ low) :=
  octal_cases (fun _ => .mk rfl rfl rfl) (fun _ => .mk rfl rfl rfl) (fun _ => .mk rfl rfl rfl) (fun _ => .mk rfl rfl rfl)
    (fun _ => .mk rfl rfl rfl) (fun _ => .mk rfl rfl rfl) (fun _ => .mk rfl rfl rfl) (fun _ => .mk rfl rfl rfl)

theorem row80_inverts : ∀ low, (row80 low).Inverts ((2 : BitVec 2) ++ (0 : BitVec 3) ++ low) :=
  octal_cases (groupImm_inverts .byte) (groupImm_inverts .word) (groupImmS_inverts fun _ _ _ => rfl) (groupImmS_inverts fun _ _ _ => rfl)
    (modrm_reg_inverts fun _ _ wf => .mk wf rfl rfl) (modrm_reg_inverts fun _ _ wf => .mk wf rfl rfl)
    (modrm_reg_inverts fun _ _ wf => .mk wf rfl rfl) (modrm_reg_inverts fun _ _ wf => .mk wf rfl rfl)

theorem row88_inverts : ∀ low, (row88 low).Inverts ((2 : BitVec 2) ++ (1 : BitVec 3) ++ low) :=
  octal_cases (modrm_reg_inverts fun _ _ wf => .mk wf rfl rfl) (modrm_reg_inverts fun _ _ wf => .mk wf rfl rfl)
    (modrm_reg_inverts fun _ _ wf => .mk wf rfl rfl) (modrm_reg_inverts fun _ _ wf => .mk wf rfl rfl) movRmSreg_inverts
    (modrm_mem_inverts fun _ _ mem => .mk mem rfl rfl) movSregRm_inverts (reg0_inverts fun _ wf => .mk wf rfl rfl)

theorem row98_inverts : ∀ low, (row98 low).Inverts ((2 : BitVec 2) ++ (3 : BitVec 3) ++ low) :=
  octal_cases (.mk rfl rfl rfl) (.mk rfl rfl rfl) ⟨rfl, fun _ _ => .mk rfl rfl rfl⟩ (.mk rfl rfl rfl) (.mk rfl rfl rfl)
    (.mk rfl rfl rfl) (.mk rfl rfl rfl) (.mk rfl rfl rfl)

theorem rowA0_inverts : ∀ low, (rowA0 low).Inverts ((2 : BitVec 2) ++ (4 : BitVec 3) ++ low) :=
  octal_cases (fun _ => .mk rfl rfl rfl) (fun _ => .mk rfl rfl rfl) (fun _ => .mk rfl rfl rfl) (fun _ => .mk rfl rfl rfl)
    (.mk rfl rfl rfl) (.mk rfl rfl rfl) (.mk rfl rfl rfl) (.mk rfl rfl rfl)

theorem rowA8_inverts : ∀ low, (rowA8 low).Inverts ((2 : BitVec 2) ++ (5 : BitVec 3) ++ low) :=
  octal_cases (fun _ => .mk rfl rfl rfl) (fun _ => .mk rfl rfl rfl) (.mk rfl rfl rfl) (.mk rfl rfl rfl) (.mk rfl rfl rfl)
    (.mk rfl rfl rfl) (.mk rfl rfl rfl) (.mk rfl rfl rfl)

theorem rowC0_inverts : ∀ low, (rowC0 low).Inverts ((3 : BitVec 2) ++ (0 : BitVec 3) ++ low) :=
  octal_cases (groupShiftImm_inverts .byte) (groupShiftImm_inverts .word) (fun _ => .mk rfl rfl rfl) (.mk rfl rfl rfl)
    (modrm_mem_inverts fun _ _ mem => .mk mem rfl rfl) (modrm_mem_inverts fun _ _ mem => .mk mem rfl rfl)
    (movRmImm_inverts .byte) (movRmImm_inverts .word)

theorem rowC8_inverts : ∀ low, (rowC8 low).Inverts ((3 : BitVec 2) ++ (1 : BitVec 3) ++ low) :=
  octal_cases ⟨rfl, fun _ _ => .mk rfl rfl rfl⟩ (.mk rfl rfl rfl) (fun _ => .mk rfl rfl rfl) (.mk rfl rfl rfl) (.mk rfl rfl rfl)
    (fun _ => .mk rfl rfl rfl) (.mk rfl rfl rfl) (.mk rfl rfl rfl)

theorem rowD0_inverts : ∀ low, (rowD0 low).Inverts ((3 : BitVec 2) ++ (2 : BitVec 3) ++ low) :=
  octal_cases (groupShift_inverts .one .byte) (groupShift_inverts .one .word) (groupShift_inverts .cl .byte)
    (groupShift_inverts .cl .word) (adjust_inverts (.mk rfl rfl rfl)) (adjust_inverts (.mk rfl rfl rfl)) trivial (.mk rfl rfl rfl)

theorem rowE0_inverts : ∀ low, (rowE0 low).Inverts ((3 : BitVec 2) ++ (4 : BitVec 3) ++ low) :=
  octal_cases (fun _ => .mk rfl rfl rfl) (fun _ => .mk rfl rfl rfl) (fun _ => .mk rfl rfl rfl) (fun _ => .mk rfl rfl rfl)
    (fun _ => .mk rfl rfl rfl) (fun _ => .mk rfl rfl rfl) (fun _ => .mk rfl rfl rfl) (fun _ => .mk rfl rfl rfl)

theorem rowE8_inverts : ∀ low, (rowE8 low).Inverts ((3 : BitVec 2) ++ (5 : BitVec 3) ++ low) :=
  octal_cases (fun _ => .mk rfl rfl rfl) (fun _ => .mk rfl rfl rfl) ⟨rfl, fun _ _ => .mk rfl rfl rfl⟩ (fun _ => .mk rfl rfl rfl)
    (.mk rfl rfl rfl) (.mk rfl rfl rfl) (.mk rfl rfl rfl) (.mk rfl rfl rfl)

theorem rowF0_inverts : ∀ low, (rowF0 low).Inverts ((3 : BitVec 2) ++ (6 : BitVec 3) ++ low) :=
  octal_cases (.mk rfl rfl rfl) (.mk rfl rfl rfl) (.mk rfl rfl rfl) (.mk rfl rfl rfl) (.mk rfl rfl rfl) (.mk rfl rfl rfl)
    (groupUnary_inverts .byte) (groupUnary_inverts .word)

theorem rowF8_inverts : ∀ low, (rowF8 low).Inverts ((3 : BitVec 2) ++ (7 : BitVec 3) ++ low) :=
  octal_cases (.mk rfl rfl rfl) (.mk rfl rfl rfl) (.mk rfl rfl rfl) (.mk rfl rfl rfl) (.mk rfl rfl rfl) (.mk rfl rfl rfl) groupFE_inverts
    groupFF_inverts

/-! ### The map -/

/-- The opcodes `00xxx0dw` and `00xxx10w` (R62). -/
theorem alu_opcodes : ∀ op : BitVec 3,
    opDW ((0 : BitVec 2) ++ op ++ (0 : BitVec 1)) .toRm .byte = (0 : BitVec 2) ++ op ++ (0 : BitVec 3)
      ∧ opDW ((0 : BitVec 2) ++ op ++ (0 : BitVec 1)) .toRm .word = (0 : BitVec 2) ++ op ++ (1 : BitVec 3)
      ∧ opDW ((0 : BitVec 2) ++ op ++ (0 : BitVec 1)) .toReg .byte = (0 : BitVec 2) ++ op ++ (2 : BitVec 3)
      ∧ opDW ((0 : BitVec 2) ++ op ++ (0 : BitVec 1)) .toReg .word = (0 : BitVec 2) ++ op ++ (3 : BitVec 3)
      ∧ opW ((0 : BitVec 2) ++ op ++ (2 : BitVec 2)) .byte = (0 : BitVec 2) ++ op ++ (4 : BitVec 3)
      ∧ opW ((0 : BitVec 2) ++ op ++ (2 : BitVec 2)) .word = (0 : BitVec 2) ++ op ++ (5 : BitVec 3) := by
  decide

/-- The six opcodes of a two-operand instruction, and the two others of their row. -/
theorem aluRow_inverts {op : BitVec 3} {rr : Dir → Width → Rm → Reg → Instr} {ai : Imm → Instr} {i6 i7 : Instr} (low : BitVec 3)
    (regs : ∀ d w rm r, rm.wellFormed = true → (rr d w rm r).EncodedBy (encRR ((0 : BitVec 2) ++ op ++ (0 : BitVec 1)) d w rm r))
    (acc : ∀ imm : Imm, (ai imm).EncodedBy (opW ((0 : BitVec 2) ++ op ++ (2 : BitVec 2)) imm.width :: imm.bytes))
    (six : i6.EncodedBy [(0 : BitVec 2) ++ op ++ (6 : BitVec 3)]) (seven : i7.EncodedBy [(0 : BitVec 2) ++ op ++ (7 : BitVec 3)]) :
    (match low.toNat with
      | 6 => Form.plain (.ok i6)
      | 7 => .plain (.ok i7)
      | _ => aluForm rr ai low).Inverts ((0 : BitVec 2) ++ op ++ low) := by
  obtain ⟨e0, e1, e2, e3, e4, e5⟩ := alu_opcodes op
  cases low using octal_cases with
  | h0 => exact modrm_reg_inverts fun r rm wf => e0 ▸ regs .toRm .byte rm r wf
  | h1 => exact modrm_reg_inverts fun r rm wf => e1 ▸ regs .toRm .word rm r wf
  | h2 => exact modrm_reg_inverts fun r rm wf => e2 ▸ regs .toReg .byte rm r wf
  | h3 => exact modrm_reg_inverts fun r rm wf => e3 ▸ regs .toReg .word rm r wf
  | h4 => exact fun x => e4 ▸ acc (.byte x)
  | h5 => exact fun x => e5 ▸ acc (.word x)
  | h6 => exact six
  | h7 => exact seven

/-- The condition of a jump is the low four bits of its opcode. -/
theorem jcc_fields : ∀ low : BitVec 3,
    ((1 : BitVec 2) ++ (6 : BitVec 3) ++ low).setWidth 4 = (0 : BitVec 1) ++ low
      ∧ ((1 : BitVec 2) ++ (7 : BitVec 3) ++ low).setWidth 4 = (1 : BitVec 1) ++ low := by
  decide

/-- The opcodes `1011wreg` (R62). -/
theorem movRegImm_opcodes : ∀ low : BitVec 3,
    (0xB : BitVec 4) ++ Width.byte.bit ++ (Reg.ofBits low).bits = (2 : BitVec 2) ++ (6 : BitVec 3) ++ low
      ∧ (0xB : BitVec 4) ++ Width.word.bit ++ (Reg.ofBits low).bits = (2 : BitVec 2) ++ (7 : BitVec 3) ++ low := by
  decide

/-- The 32 rows of the map: the high two bits of the opcode, then the next three. -/
theorem opcodeForm_inverts_fields (a : BitVec 2) (op low : BitVec 3) : (opcodeForm (a ++ op ++ low)).Inverts (a ++ op ++ low) := by
  have quarter : ∀ q : BitVec 2, q = 0 ∨ q = 1 ∨ q = 2 ∨ q = 3 := by decide
  obtain ⟨l, h⟩ := opcode_fields a op low
  unfold opcodeForm
  dsimp only
  rw [l, h]
  rcases quarter a with rfl | rfl | rfl | rfl
  · cases op using octal_cases <;>
      exact aluRow_inverts low (fun _ _ _ _ wf => .mk wf rfl rfl) (fun _ => .mk rfl rfl rfl) (.mk rfl rfl rfl) (.mk rfl rfl rfl)
  · cases op using octal_cases with
    | h0 | h1 | h2 | h3 => cases low using octal_cases <;> exact .mk rfl rfl rfl
    | h4 => exact row60_inverts low
    | h5 => exact row68_inverts low
    | h6 => exact (jcc_fields low).1 ▸ jccForm_inverts_low low
    | h7 => exact (jcc_fields low).2 ▸ jccForm_inverts_high low
  · cases op using octal_cases with
    | h0 => exact row80_inverts low
    | h1 => exact row88_inverts low
    | h2 => cases low using octal_cases <;> exact .mk rfl rfl rfl
    | h3 => exact row98_inverts low
    | h4 => exact rowA0_inverts low
    | h5 => exact rowA8_inverts low
    | h6 => exact fun x => .mk rfl rfl (congrArg (· :: [x]) (movRegImm_opcodes low).1)
    | h7 => exact fun v => .mk rfl rfl (congrArg (· :: encWord v) (movRegImm_opcodes low).2)
  · cases op using octal_cases with
    | h0 => exact rowC0_inverts low
    | h1 => exact rowC8_inverts low
    | h2 => exact rowD0_inverts low
    | h3 => exact escForm_inverts low
    | h4 => exact rowE0_inverts low
    | h5 => exact rowE8_inverts low
    | h6 => exact rowF0_inverts low
    | h7 => exact rowF8_inverts low

/-- Every opcode byte. -/
theorem opcodeForm_inverts (b : Byte) : (opcodeForm b).Inverts b := by
  have parts : ∀ b : Byte, b.extractLsb' 6 2 ++ b.extractLsb' 3 3 ++ b.extractLsb' 0 3 = b := by decide
  exact parts b ▸ opcodeForm_inverts_fields _ _ _

/-- What decodes stands encoded at the head of the bytes. -/
theorem decode_reads {bytes : List Byte} {i : Instr} {n : Nat} (h : decode bytes = .ok (i, n)) :
    ∃ e rest, i.EncodedBy e ∧ bytes = e ++ rest ∧ n = e.length ∧ 1 ≤ n ∧ n ≤ 6 := by
  cases bytes with
  | nil => cases h
  | cons b bs =>
    have form := opcodeForm_inverts b
    unfold decode at h
    dsimp only at h
    split at h
    next t plain =>
      rw [plain] at form
      exact form.reads (pre := [b]) (Nat.le_add_left 1 3) h
    next f modrm =>
      rw [modrm] at form
      split at h
      · cases h
      next reg rm rest k operand =>
        obtain ⟨wf, rfl, rfl⟩ := decodeModRm_reads operand
        have tail := form (Reg.ofBits reg) rm wf
        rw [Reg.bits_ofBits] at tail
        rw [Nat.add_comm] at h
        obtain ⟨e, rest', encoded, split, len, low, high⟩ := tail.reads (Nat.succ_le_succ (length_encodeModRm reg rm)) h
        exact ⟨e, rest', encoded, split, len, (Nat.succ_le_succ (Nat.zero_le _)).trans low, high⟩

/-- Settles O2: each row of the opcode map makes of the bytes it reads the instruction that they encode. -/
theorem encodeInvertsDecode : Obligations.EncodeInvertsDecode := by
  intro bytes i n h
  obtain ⟨e, rest, encoded, rfl, rfl, low, high⟩ := decode_reads h
  exact ⟨encoded.wellFormed, encoded.canonical, encoded.bytes.trans (List.take_left ..).symm, low, high, by simp⟩

/-! ## The encoder, R50 to R73 -/

open Laws.RoundTrip in
/-- Settles O1: instruction by instruction, in the order of the constructors. -/
theorem decodeInvertsEncode : Obligations.DecodeInvertsEncode :=
  Instr.rec (motive := Statement)
    movRmReg movRmImm movRegImm movAccAddr movAddrAcc movSregRm movRmSreg pushRm pushReg pushSreg pushImm16 pushImm8 popRm popReg popSreg
    xchgRmReg xchgAxReg inAccPort inAccDx outPortAcc outDxAcc lea lds les addRmReg addRmImm addAccImm orRmReg orRmImm orAccImm adcRmReg
    adcRmImm adcAccImm sbbRmReg sbbRmImm sbbAccImm andRmReg andRmImm andAccImm subRmReg subRmImm subAccImm xorRmReg xorRmImm xorAccImm
    cmpRmReg cmpRmImm cmpAccImm incRm incReg decRm decReg negRm mulRm imulRm divRm idivRm imulImm16 imulImm8 notRm testRmReg testRmImm
    testAccImm rolRm rolRmImm rorRm rorRmImm rclRm rclRmImm rcrRm rcrRmImm shlRm shlRmImm shrRm shrRmImm sarRm sarRmImm repPrefix movs
    cmps scas lods stos ins outs callNear callNearRm callFar callFarRm retNearImm retFarImm jmpNear jmpShort jmpNearRm jmpFar jmpFarRm jo
    jno jb jae je jne jbe ja js jns jp jnp jl jge jle jg loop loope loopne jcxz intType enter bound esc segPrefix unusedFE7 unusedFF7
    faddM32 faddM64 faddStSti fmulM32 fmulM64 fmulStSti fcomM32 fcomM64 fcomSti fcompM32 fcompM64 fcompSti fsubM32 fsubM64 fsubStSti
    fsubrM32 fsubrM64 fsubrStSti fdivM32 fdivM64 fdivStSti fdivrM32 fdivrM64 fdivrStSti fiaddI32 fiaddI16 fimulI32 fimulI16 ficomI32
    ficomI16 ficompI32 ficompI16 fisubI32 fisubI16 fisubrI32 fisubrI16 fidivI32 fidivI16 fidivrI32 fidivrI16 faddStiSt fmulStiSt
    fsubrStiSt fsubStiSt fdivrStiSt fdivStiSt faddpStiSt fmulpStiSt fsubrpStiSt fsubpStiSt fdivrpStiSt fdivpStiSt fldM32 fstM32 fstpM32
    fldenv fldcw fstenv fstcw fildI32 fistI32 fistpI32 fldM80 fstpM80 fldM64 fstM64 fstpM64 frstor fsave fstsw fildI16 fistI16 fistpI16
    fbld fildI64 fbstp fistpI64 fldSti fxchSti ffreeSti fstSti fstpSti pusha popa xlat lahf sahf pushf popf aaa daa aas das aam aad cbw
    cwd retNear retFar int3 into iret leave clc cmc stc cld std cli sti hlt wait lockPrefix nop unused63 unused64 unused65 unused66
    unused67 unusedF1 fcompp fnop fchs fabs ftst fxam fld1 fldl2t fldl2e fldpi fldlg2 fldln2 fldz f2xm1 fyl2x fptan fpatan fxtract fdecstp
    fincstp fprem fyl2xp1 fsqrt frndint fscale feni fdisi fclex finit fwait

/-- Settles O3: each word decodes to its instruction by the opcode map. -/
theorem decodedWords : Obligations.DecodedWords := by
  intro p h
  simp only [List.mem_cons, List.not_mem_nil, or_false] at h
  rcases h with rfl | rfl | rfl | rfl | rfl | rfl | rfl | rfl | rfl | rfl | rfl | rfl <;> rfl

end Sys2Proof

/-! SUPPORT. Instructions of one part (93_implementation_defined.md U7, U8), prefixes and their latches (30_encoding.md R56, R57). -/

namespace Sys2Proof.Machine

/-! ## Instructions of one part, 93_implementation_defined.md U7, U8 -/

/-- An instruction that the 8086 and 8088 do not have is guarded by the part. -/
theorem exec_only186 {i : Instr} (h : needs186 i = true) (wf : i.wellFormed = true) (s : State) : ∃ k, exec i s = only186 s k := by
  cases i with
  | pushImm16 | pushImm8 | pusha | popa | imulImm16 | imulImm8 | rolRmImm | rorRmImm | rclRmImm | rcrRmImm | shlRmImm | shrRmImm
  | sarRmImm | ins | outs | enter | leave => exact ⟨_, rfl⟩
  | bound r rm =>
    cases rm with
    | reg q => cases wf
    | ind | disp8 | disp16 | direct => exact ⟨_, rfl⟩
  | _ => cases h

theorem only186_of_true {s : State} (h : s.is186 = true) (k : State → State) : only186 s k = .next (k s) := if_pos h

theorem only186_of_false {s : State} (h : s.is186 = false) (k : State → State) : only186 s k = .refused .opcodeOf80186 :=
  if_neg (Bool.eq_false_iff.1 h)

/-- Settles O29: the instructions of the 80186,188 are guarded by the part, and so are the unused opcodes. -/
theorem instructionsOfOnePart : Obligations.InstructionsOfOnePart := by
  refine ⟨fun i s h wf => ?_, fun s rm i h => ?_⟩
  · obtain ⟨k, e⟩ := exec_only186 h wf s
    rw [e]
    exact ⟨fun not186 => only186_of_false not186 k, fun is186 => ⟨k s, only186_of_true is186 k⟩⟩
  · have e : exec i s = unusedOpcode s := by
      simp only [List.mem_cons, List.not_mem_nil, or_false] at h
      rcases h with rfl | rfl | rfl | rfl | rfl | rfl | rfl | rfl <;> rfl
    rw [e, unusedOpcode]
    exact ⟨fun is186 => if_pos is186, fun not186 => if_neg (Bool.eq_false_iff.1 not186)⟩

/-! ## Prefixes, 30_encoding.md R56, R57 -/

/-- Nothing follows an item whose opcode is still to come. -/
theorem afterItem_prefixed {s : State} (h : s.ctl.phase = .prefixed) (i : Instr) : afterItem i s = s := by
  rw [afterItem, h]

/-- The next item finds the latches as they were left. -/
theorem enter_latches_prefixed {s : State} (h : s.ctl.phase = .prefixed) (n : Nat) : (s.enter n).ctl.latches = s.ctl.latches := by
  obtain ⟨-, -, latches⟩ := begin_later (c := s.ctl) (by rw [h]; decide) (by rw [h]; decide) s.flags.tf s.ip (s.code.headD 0)
  exact latches

/-- Settles O32: the item ends in the phase in which nothing follows it, and its instruction begins with the latches it left. -/
theorem prefixesLatch : Obligations.PrefixesLatch := by
  refine ⟨fun _ => rfl, rfl, rfl, rfl, fun s n => ⟨fun sr => ?_, fun z => ?_, ?_⟩⟩
  · exact ⟨_, rfl, rfl, afterItem_prefixed rfl _, fun _ => rfl, enter_latches_prefixed rfl n⟩
  · exact ⟨_, rfl, rfl, afterItem_prefixed rfl _, enter_latches_prefixed rfl n⟩
  · exact ⟨_, rfl, rfl, afterItem_prefixed rfl _, enter_latches_prefixed rfl n, rfl⟩

/-! ## Latches at the end of an instruction, R56 -/

theorem interrupt_ctl (type : Byte) (savedIp : Word) (s : State) : (interrupt type savedIp s).ctl = s.ctl := by
  obtain ⟨-, -, ctl, -⟩ := interrupt_keeps type savedIp s
  exact ctl

theorem takeNmi_ctl (savedIp : Word) (s : State) : (takeNmi savedIp s).ctl = { s.ctl with nmiPending := false } := by
  unfold takeNmi
  dsimp only
  split <;> exact interrupt_ctl 2 savedIp _

/-- The recognition of an interrupt changes no more of the control state than the latch of NMI. -/
theorem recognize_ctl (delay : Bool) (savedIp : Word) (s : State) :
    ∃ nmi, (recognize delay savedIp s).2.ctl = { s.ctl with nmiPending := nmi } := by
  unfold recognize
  split
  · exact ⟨_, takeNmi_ctl savedIp s⟩
  · split
    · exact ⟨_, (interrupt_ctl _ _ _).trans (intAck_keeps s).ctl⟩
    · exact ⟨_, rfl⟩

/-- The single-step trap, if it is due, keeps the control state. -/
theorem trap_ctl (trap : Bool) (s : State) : (if trap then interrupt 1 s.ip s else s).ctl = s.ctl := by
  split
  · exact interrupt_ctl 1 _ s
  · rfl

/-- The boundary after an instruction clears the latches. -/
theorem boundary_latches (trap : Bool) (s : State) : (boundary trap s).ctl.latches = .none := by
  unfold boundary
  dsimp only
  split
  · rfl
  · obtain ⟨nmi, ctl⟩ := recognize_ctl s.complete.ctl.intrDelay s.complete.ip s.complete
    rw [trap_ctl, State.dropHolds, ctl]
    rfl

/-- A test inside an instruction ends it, and clears the latches, or leaves the phase as it was. -/
theorem midItem_latches_or_phase (savedIp : Word) (trap : Bool) (s : State) :
    (midItem savedIp trap s).1 = true ∧ (midItem savedIp trap s).2.ctl.latches = .none
      ∨ (midItem savedIp trap s).1 = false ∧ (midItem savedIp trap s).2.ctl.phase = s.ctl.phase := by
  unfold midItem
  dsimp only
  split
  next held => exact .inr ⟨rfl, rfl⟩
  next unheld =>
    split
    next taken =>
      left
      rw [trap_ctl]
      exact ⟨rfl, rfl⟩
    next notTaken =>
      obtain ⟨nmi, ctl⟩ := recognize_ctl s.ctl.heldIntr savedIp { s with ctl := { s.ctl with heldAll := false, heldIntr := false } }
      right
      rw [ctl]
      exact ⟨rfl, rfl⟩

theorem noStalePrefix_of_latches {s : State} (h : s.ctl.latches = .none) : s.NoStalePrefix := fun _ => h

/-- While the opcode is still to come, and inside a repeated string instruction or a WAIT, the latches are in use. -/
theorem noStalePrefix_of_phase {s : State} (h : s.ctl.phase ≠ .fresh) (h' : s.ctl.phase ≠ .halted) : s.NoStalePrefix :=
  fun ended => absurd ended (not_or.2 ⟨h, h'⟩)

theorem State.NoStalePrefix.of_ctl {s t : State} (h : s.NoStalePrefix) (e : t.ctl = s.ctl) : t.NoStalePrefix := by
  unfold State.NoStalePrefix
  rw [e]
  exact h

/-- Whatever an item did, what follows it leaves no latch behind. -/
theorem afterItem_noStalePrefix (i : Instr) (s : State) : (afterItem i s).NoStalePrefix := by
  unfold afterItem
  split
  next prefixed => exact noStalePrefix_of_phase (by rw [prefixed]; decide) (by rw [prefixed]; decide)
  next repeating => exact noStalePrefix_of_phase (by rw [repeating]; decide) (by rw [repeating]; decide)
  next waiting =>
    obtain ⟨-, ended⟩ | ⟨-, phase⟩ := midItem_latches_or_phase s.ctl.firstIp false s
    · exact noStalePrefix_of_latches ended
    · rw [waiting] at phase
      exact noStalePrefix_of_phase (by rw [phase]; decide) (by rw [phase]; decide)
  next halted =>
    split
    · exact noStalePrefix_of_latches (boundary_latches true s)
    · exact noStalePrefix_of_latches rfl
  next fresh => exact noStalePrefix_of_latches (boundary_latches _ s)

theorem finishItem_noStalePrefix {i : Instr} {s t : State} (h : finishItem i s = .next t) : t.NoStalePrefix := by
  unfold finishItem at h
  split at h
  case h_1 =>
    cases h
    exact afterItem_noStalePrefix i _
  all_goals cases h

theorem runItem_noStalePrefix {s t : State} (h : runItem s = .next t) : t.NoStalePrefix := by
  unfold runItem at h
  split at h
  · cases h
  next i n decoded =>
    dsimp only at h
    split at h
    · cases h
    · split at h
      · obtain ⟨-, ended⟩ | ⟨goesOn, -⟩ := midItem_latches_or_phase (s.enter n).repeatIp (s.enter n).ctl.tfSampled (s.enter n)
        · split at h
          · cases h
            exact noStalePrefix_of_latches ended
          · exact finishItem_noStalePrefix h
        · rw [goesOn] at h
          exact finishItem_noStalePrefix h
      · exact finishItem_noStalePrefix h

theorem cpuStep_noStalePrefix {s t : State} (clean : s.NoStalePrefix) (h : cpuStep s = .next t) : t.NoStalePrefix := by
  unfold cpuStep at h
  split at h
  · cases h
    exact clean
  · split at h
    · cases h
      exact clean.of_ctl ((AgentKeeps.refl s).then_dmaTransfer _).ctl
    · split at h
      · cases h
        unfold haltedStep
        split
        · exact noStalePrefix_of_latches (boundary_latches false s)
        · exact clean
      · exact runItem_noStalePrefix h

theorem resetMachine_noStalePrefix (s : State) : (resetMachine s).NoStalePrefix := noStalePrefix_of_latches rfl

/-- A move is a step of the CPU, or RESET, or leaves phase and latches alone. -/
theorem applyMove_noStalePrefix {m : Move} {s t : State} (clean : s.NoStalePrefix) (h : applyMove m s = .next t) : t.NoStalePrefix := by
  cases m
  case cpu => exact cpuStep_noStalePrefix clean h
  case reset =>
    cases h
    exact resetMachine_noStalePrefix s
  case resetDuring a =>
    obtain ⟨u, -, rfl⟩ := resetDuring_next h
    exact resetMachine_noStalePrefix _
  case nmi =>
    cases h
    exact clean
  all_goals exact clean.of_ctl (applyMove_keeps (m := _) (by nofun) (by nofun) (by nofun) (by nofun) h).ctl

/-- Settles O38: only the CPU and RESET touch phase and latches, and where either leaves the CPU at an instruction's first byte or halted it
clears the latches. -/
theorem stepLeavesNoStalePrefix : Obligations.StepLeavesNoStalePrefix := by
  intro s t clean h
  unfold step at h
  split at h
  next => exact cpuStep_noStalePrefix clean (settle_next h).1
  next rest _ => exact applyMove_noStalePrefix (s := { s with moves := rest }) clean (settle_next h).1

end Sys2Proof.Machine

/-! SUPPORT. Data transfer through operands, pointers and the whole register set (40_data_transfer.md R80 to R86, R94 to R98, R101 to R103). -/

namespace Sys2Proof.Machine

/-! ## Reads and writes of operands in ordinary memory -/

/-- A read of a segmented operand in ordinary memory gives its bytes and changes nothing. -/
theorem readMem_ordinary {s : State} (h : s.Ordinary) (w : Width) (seg off : Word) :
    readMem w seg off s = (BitVec.ofNat w.bits (s.mem.number (operandBytes s.is186 w seg off)), s) := by
  refine Prod.ext (BitVec.eq_of_toNat_eq ?_) (readMem_plain h.1 w seg off)
  rw [← readMem_number h.1, BitVec.toNat_ofNat, Nat.mod_eq_of_lt (BitVec.isLt _)]

/-- A write of an r/m operand in ordinary memory writes it alone. -/
theorem writeRm_written {s : State} (h : s.Ordinary) (w : Width) (rm : Rm) (v : BitVec w.bits) :
    RmWritten w rm v.toNat s (writeRm w rm v s) := by
  obtain ⟨-, -, written⟩ := operandsInMemory s w rm h
  exact written v

/-- A pointer in ordinary memory: its offset word, and its segment word two bytes on (R39). -/
theorem readRmPointer_ordinary {s : State} (h : s.Ordinary) (rm : Rm) :
    readRmPointer rm s =
      ((BitVec.ofNat 16 (s.mem.number (operandBytes s.is186 .word (eaSeg s rm) (eaOff s rm))),
        BitVec.ofNat 16 (s.mem.number (operandBytes s.is186 .word (eaSeg s rm) (eaOff s rm + 2)))), s) := by
  simp only [readRmPointer, readPointer, readMem_ordinary h]

/-! ## MOV, R80 to R86 -/

theorem Imm.data_bytes (imm : Imm) : (Imm.data imm).2 = imm.bytes := by
  cases imm <;> rfl

/-- Settles O9: each form is one read or one write of an operand. -/
theorem movMovesTheValue : Obligations.MovMovesTheValue := by
  refine ⟨fun _ _ _ _ => rfl, fun rm imm => ?_, fun r imm => ?_, fun _ _ => ⟨rfl, rfl⟩, fun _ _ => ⟨rfl, rfl⟩, fun s h => ?_⟩
  · rw [Imm.data_bytes]
    rfl
  · rw [Imm.data_bytes]
    rfl
  refine ⟨fun w rm r => ⟨_, rfl, writeRm_written h w rm _⟩, fun w rm r => ?_, fun rm imm => ⟨_, rfl, writeRm_written h _ rm _⟩,
    fun _ _ => rfl, fun w a => ?_, fun w a => ⟨_, rfl, writeMem_stored h w _ a _⟩, fun sr rm _ => ?_,
    fun rm sr => ⟨_, rfl, writeRm_written h .word rm _⟩⟩
  · have step : exec (.movRmReg .toReg w rm r) s = .next ((readRm w rm s).2.setReg w r (readRm w rm s).1) := rfl
    rw [step, readRm_ordinary h]
  · have step : exec (.movAccAddr w a) s = .next ((readMem w (s.segFor .ds) a s).2.setAcc w (readMem w (s.segFor .ds) a s).1) := rfl
    rw [step, readMem_ordinary h]
  · have step : exec (.movSregRm sr rm) s = .next ((readRm .word rm s).2.setSeg sr (readRm .word rm s).1).inhibit := rfl
    rw [step, readRm_ordinary h]
    rfl

/-! ## XCHG, XLAT, LEA, LDS, LES, R96 to R98, R101 to R103 -/

/-- What XCHG with an operand in memory does: the register's value is stored, then the register loaded. -/
theorem exec_xchgRm {s : State} (h : s.Ordinary) (w : Width) {rm : Rm} (r : Reg) (mem : rm.wellFormedMem = true) :
    exec (.xchgRmReg w rm r) s =
      .next ((writeMem w (eaSeg s rm) (eaOff s rm) (s.getReg w r) s).setReg w r (BitVec.ofNat w.bits (s.rmValue w rm))) := by
  have step : exec (.xchgRmReg w rm r) s =
      .next ((writeRm w rm (s.getReg w r) (readRm w rm s).2).setReg w r (readRm w rm s).1) := by
    cases rm <;> rfl
  rw [step, readRm_ordinary h, writeRm_mem _ _ _ _ mem]

theorem exec_lea {rm : Rm} (r : Reg) (mem : rm.wellFormedMem = true) (s : State) : exec (.lea r rm) s = .next (s.set r (eaOff s rm)) := by
  cases rm with
  | reg => cases mem
  | ind | disp8 | disp16 | direct => rfl

/-- LDS and LES load the register and a segment register from one pointer. -/
theorem exec_loadPointer {rm : Rm} (r : Reg) (mem : rm.wellFormedMem = true) (s : State) :
    exec (.lds r rm) s = .next (((readRmPointer rm s).2.set r (readRmPointer rm s).1.1).setSeg .ds (readRmPointer rm s).1.2)
      ∧ exec (.les r rm) s = .next (((readRmPointer rm s).2.set r (readRmPointer rm s).1.1).setSeg .es (readRmPointer rm s).1.2) := by
  cases rm with
  | reg => cases mem
  | ind | disp8 | disp16 | direct => exact ⟨rfl, rfl⟩

/-- The table offset of XLAT is a sum modulo 2^16. -/
theorem toNat_add_byte (w : Word) (b : Byte) : (w + b.setWidth 16).toNat = (w.toNat + b.toNat) % 2 ^ 16 := by
  have hb := b.isLt
  rw [BitVec.toNat_add, BitVec.toNat_setWidth]
  omega

theorem exec_xlat {s : State} (h : s.Ordinary) :
    exec .xlat s =
      .next (s.set8 .al (s.mem.read ((16 * (s.segFor .ds).toNat + ((s.get .bx).toNat + (s.get8 .al).toNat) % 2 ^ 16) % 2 ^ 20))) := by
  let off : Word := s.get .bx + (s.get8 .al).setWidth 16
  have step : exec .xlat s = .next ((memRead8 (phys (s.segFor .ds) off) s).2.set8 .al (memRead8 (phys (s.segFor .ds) off) s).1) := rfl
  rw [step, memRead8_plain h.1, toNat_phys, toNat_add_byte]

theorem setReg_regs_eq {s t : State} (w : Width) (r : Reg) (v : BitVec w.bits) (h : t.regs = s.regs) :
    (t.setReg w r v).regs = (s.setReg w r v).regs := by
  cases w
  · exact congrArg (Regs.set8 · r.half v) h
  · exact congrArg (Regs.set · r v) h

theorem setReg_restored {s t : State} (w : Width) (r : Reg) (v : BitVec w.bits) (h : t.regs = s.regs) :
    { t.setReg w r v with regs := s.regs } = t := by
  cases w <;> exact h ▸ rfl

/-- Settles O13: each form is one read of an operand or a pointer, or none. -/
theorem exchangeTranslateAndAddress : Obligations.ExchangeTranslateAndAddress := by
  refine ⟨fun _ _ _ => rfl, fun _ => rfl, rfl, fun _ _ => ⟨rfl, rfl, rfl⟩, fun s h => ?_⟩
  refine ⟨fun _ _ _ => rfl, fun w rm r mem => ⟨_, exec_xchgRm h w r mem, ?_⟩, fun _ => rfl, exec_xlat h, fun r rm mem => ?_⟩
  · have stored := writeMem_stored h w (eaSeg s rm) (eaOff s rm) (s.getReg w r)
    have ⟨frame, _, _⟩ := stored
    have regs := congrArg State.regs frame
    refine ⟨setReg_regs_eq w r _ regs, ?_⟩
    rw [setReg_restored w r _ regs]
    exact stored
  · have pointer := exec_loadPointer r mem s
    rw [readRmPointer_ordinary h] at pointer
    exact ⟨exec_lea r mem s, pointer⟩

end Sys2Proof.Machine

namespace Sys2Proof.Machine

/-! ## PUSHA, R94 -/

theorem Memory.number_congr {m m' : Memory} {addrs : List Nat} (h : ∀ a ∈ addrs, m.read a = m'.read a) : m.number addrs = m'.number addrs := by
  induction addrs with
  | nil => rfl
  | cons a rest ih =>
    obtain ⟨first, others⟩ := List.forall_mem_cons.1 h
    rw [Memory.number, Memory.number, first, ih others]

/-- Words an even distance apart in a segment, less than 64K, share no byte, on either part. -/
theorem operandBytes_disjoint (is186 : Bool) (seg off : Word) {j a : Nat} (pos : 0 < j) (lt : j < 2 ^ 15)
    (ha : a ∈ operandBytes is186 .word seg off) : a ∉ operandBytes is186 .word seg (off - BitVec.ofNat 16 (2 * j)) := by
  have hoff := off.isLt
  have lower : (off - BitVec.ofNat 16 (2 * j)).toNat = (2 ^ 16 - 2 * j + off.toNat) % 2 ^ 16 := by
    rw [BitVec.toNat_sub, BitVec.toNat_ofNat]
    omega
  simp only [operandBytes, List.mem_cons, List.not_mem_nil, or_false, toNat_phys, toNat_nextByte, lower] at ha ⊢
  cases is186 <;> simp only [Bool.false_eq_true, if_false, if_true] at ha ⊢ <;> omega

/-- The place of the `k`-th word of a series of pushes, from 0. -/
def State.pushSlot (s : State) (k : Nat) : List Nat := s.stackBytes (s.get .sp - BitVec.ofNat 16 (2 * k + 2))

/-- Push some words in turn. -/
def pushWords (vs : List Word) (s : State) : State := vs.foldl (fun t v => push16 v t) s

/-- The words were pushed in turn: each is in its place, SP is lower by 2 for each, and nothing else changed. -/
structure PushedWords (vs : List Word) (s t : State) : Prop where
  frame : t = { s with regs := s.regs.set .sp (s.get .sp - BitVec.ofNat 16 (2 * vs.length)), mem := t.mem }
  canonical : t.mem.wf = true
  words : ∀ k (hk : k < vs.length), t.mem.number (s.pushSlot k) = vs[k].toNat
  kept : ∀ a, (∀ k < vs.length, a ∉ s.pushSlot k) → t.mem.read a = s.mem.read a

theorem push16_ordinary {s : State} (h : s.Ordinary) (v : Word) : (push16 v s).Ordinary := by
  obtain ⟨plain, canonical⟩ := h
  rw [push16_plain plain]
  exact ⟨plain, Memory.wf_write (Memory.wf_write canonical _ _) _ _⟩

/-- SP after a push, below which the next ones go. -/
theorem sub_two_sub (w : Word) (n : Nat) : w - 2 - BitVec.ofNat 16 n = w - BitVec.ofNat 16 (n + 2) := by
  rw [BitVec.ofNat_add, sub_sub, add_comm]
  rfl

/-- Below the top the places are those of the pushes after the first. -/
theorem pushSlot_push16 {s : State} (h : s.Ordinary) (v : Word) (k : Nat) : (push16 v s).pushSlot k = s.pushSlot (k + 1) := by
  rw [push16_plain h.1]
  exact congrArg s.stackBytes (sub_two_sub (s.get .sp) (2 * k + 2))

theorem pushSlot_disjoint (s : State) {j a : Nat} (pos : 0 < j) (lt : j < 2 ^ 15) (ha : a ∈ s.pushSlot 0) : a ∉ s.pushSlot j := by
  have apart := operandBytes_disjoint s.is186 s.segs.ss (s.get .sp - 2) pos lt ha
  rw [sub_two_sub] at apart
  exact apart

/-- One push before some others, which store below it. -/
theorem PushedWords.cons {s t : State} {v : Word} {vs : List Word} (h : s.Ordinary) (short : vs.length < 2 ^ 15)
    (rest : PushedWords vs (push16 v s) t) : PushedWords (v :: vs) s t := by
  obtain ⟨-, word, kept⟩ := push16_pushed h v s.fresh
  obtain ⟨frame, canonical, words, restKept⟩ := rest
  simp only [pushSlot_push16 h] at words restKept
  refine ⟨?_, canonical, fun k hk => ?_, fun a outside => ?_⟩
  · have regs : (s.regs.set .sp (s.get .sp - 2)).set .sp (s.get .sp - 2 - BitVec.ofNat 16 (2 * vs.length))
        = s.regs.set .sp (s.get .sp - BitVec.ofNat 16 (2 * (v :: vs).length)) := congrArg (s.regs.set .sp) (sub_two_sub ..)
    rw [push16_plain h.1] at frame
    exact regs ▸ frame
  · cases k with
    | zero =>
      have same : ∀ a ∈ s.pushSlot 0, t.mem.read a = (push16 v s).mem.read a := fun a ha =>
        restKept a fun k hk => pushSlot_disjoint s k.succ_pos (Nat.lt_of_le_of_lt hk short) ha
      exact (Memory.number_congr same).trans word
    | succ k => exact words k (Nat.lt_of_succ_lt_succ hk)
  · rw [restKept a fun k hk => outside (k + 1) (Nat.succ_lt_succ hk)]
    exact kept a (outside 0 (Nat.succ_pos _)) (State.othersStore_nil h.1.turns a)

theorem pushWords_pushed (vs : List Word) {s : State} (h : s.Ordinary) (short : vs.length ≤ 2 ^ 15) : PushedWords vs s (pushWords vs s) := by
  induction vs generalizing s with
  | nil =>
    have sp : s.get .sp - BitVec.ofNat 16 (2 * 0) = s.get .sp := BitVec.sub_zero _
    refine ⟨?_, h.2, nofun, fun _ _ => rfl⟩
    rw [List.length_nil, sp]
    rfl
  | cons v vs ih => exact .cons h short (ih (push16_ordinary h v) (Nat.le_of_succ_le short))

theorem push16_get (v : Word) {r : Reg} (other : r ≠ .sp) (s : State) : (push16 v s).get r = s.get r := by
  obtain ⟨regs, -⟩ := push16_keeps v s
  rw [State.get, regs, Regs.get_set, if_neg other, State.get]

/-- The words of PUSHA in order, SP as it is before (R94). -/
def State.pushaWords (s : State) : List Word := [.ax, .cx, .dx, .bx, .sp, .bp, .si, .di].map s.get

theorem pushAll_eq (s : State) : pushAll s = pushWords s.pushaWords s := by
  simp only [pushAll, ne_eq, reduceCtorEq, not_false_eq_true, push16_get]
  rfl

theorem pushAll_pushed {s : State} (h : s.Ordinary) : PushedWords s.pushaWords s (pushAll s) := by
  rw [pushAll_eq]
  exact pushWords_pushed s.pushaWords h (by decide : 8 ≤ 2 ^ 15)

/-! ## POPA, R95 -/

/-- The word of the stack at SS:sp. -/
def State.stackWord (s : State) (sp : Word) : Word := BitVec.ofNat 16 (s.mem.number (s.stackBytes sp))

/-- A pop changes registers alone, so that a series of them reads one stack. -/
theorem pop16_regs {s : State} (h : s.Ordinary) (g : Regs) :
    pop16 { s with regs := g } = (s.stackWord g.sp, { s with regs := g.set .sp (g.sp + 2) }) :=
  pop16_ordinary (s := { s with regs := g }) h

theorem popInto_regs {s : State} (h : s.Ordinary) (r : Reg) (g : Regs) :
    popInto r { s with regs := g } = { s with regs := (g.set .sp (g.sp + 2)).set r (s.stackWord g.sp) } := by
  rw [popInto, pop16_regs h]
  rfl

/-- POPA loads seven registers and discards the word for SP (R95). -/
theorem popAll_eq {s : State} (h : s.Ordinary) :
    popAll s =
      let w (k : Nat) : Word := s.stackWord (s.get .sp + BitVec.ofNat 16 k)
      { s with regs := { ax := w 14, cx := w 12, dx := w 10, bx := w 8, sp := s.get .sp + 16, bp := w 4, si := w 2, di := w 0 } } := by
  have start : popAll s = popAll { s with regs := s.regs } := rfl
  have zero : s.regs.sp + BitVec.ofNat 16 0 = s.regs.sp := BitVec.add_zero _
  rw [start]
  simp only [popAll, popInto_regs h, pop16_regs h, Regs.set, BitVec.add_assoc, State.get, Regs.get, zero]
  rfl

/-! ## POPA after PUSHA -/

theorem PushedWords.ordinary {s t : State} {vs : List Word} (p : PushedWords vs s t) (h : s.Ordinary) : t.Ordinary := by
  obtain ⟨frame, canonical, -, -⟩ := p
  refine ⟨?_, canonical⟩
  rw [frame]
  exact h.1

/-- The words are read back from the new top upward, the last one first. -/
theorem PushedWords.stackWord {s t : State} {vs : List Word} (p : PushedWords vs s t) {k : Nat} (hk : k < vs.length) :
    t.stackWord (t.get .sp + BitVec.ofNat 16 (2 * (vs.length - 1 - k))) = vs[k] := by
  have sp : t.get .sp = s.get .sp - BitVec.ofNat 16 (2 * vs.length) := congrArg (State.get · .sp) p.frame
  have bytes (a : Word) : t.stackBytes a = s.stackBytes a := by
    rw [p.frame]
    rfl
  have place : t.get .sp + BitVec.ofNat 16 (2 * (vs.length - 1 - k)) = s.get .sp - BitVec.ofNat 16 (2 * k + 2) := by
    apply BitVec.eq_of_toNat_eq
    rw [sp]
    simp only [BitVec.toNat_add, BitVec.toNat_sub, BitVec.toNat_ofNat]
    omega
  have word := p.words k hk
  rw [State.pushSlot] at word
  rw [State.stackWord, place, bytes, word, BitVec.ofNat_toNat, BitVec.setWidth_eq]

/-- POPA after PUSHA restores every register. -/
theorem popAll_pushAll {s : State} (h : s.Ordinary) : (popAll (pushAll s)).regs = s.regs := by
  have pushed := pushAll_pushed h
  have word {k : Nat} (hk : k < 8) := pushed.stackWord hk
  have sp : (pushAll s).get .sp + 16 = s.get .sp := by
    have lowered : (pushAll s).get .sp = s.get .sp - 16 := congrArg (State.get · .sp) pushed.frame
    rw [lowered, sub_add_cancel]
  rw [popAll_eq (pushed.ordinary h)]
  exact (Regs.mk.injEq ..).mpr ⟨word (by decide : 0 < 8), word (by decide : 1 < 8), word (by decide : 2 < 8), word (by decide : 3 < 8), sp,
    word (by decide : 5 < 8), word (by decide : 6 < 8), word (by decide : 7 < 8)⟩

/-- Settles O12: PUSHA is eight pushes in turn, and POPA reads them back. -/
theorem pushaAndPopa : Obligations.PushaAndPopa := by
  refine ⟨rfl, rfl, fun s h h6 => ⟨⟨pushAll s, only186_of_true h6 _, ?_⟩, ?_⟩⟩
  · obtain ⟨frame, canonical, words, kept⟩ := pushAll_pushed h
    have word : ∀ k (hk : k < 8), _ := words
    refine ⟨frame, ?_, fun a outside _ => kept a fun k hk inside => outside (List.mem_flatMap.2 ⟨2 * k + 2, ?_, inside⟩),
      popAll (pushAll s), ?_, popAll_pushAll h⟩
    · simp only [List.forall_mem_cons, List.not_mem_nil, IsEmpty.forall_iff, implies_true, and_true]
      exact ⟨word 0 (by decide), word 1 (by decide), word 2 (by decide), word 3 (by decide), word 4 (by decide), word 5 (by decide),
        word 6 (by decide), word 7 (by decide)⟩
    · have places : ∀ k < 8, 2 * k + 2 ∈ [2, 4, 6, 8, 10, 12, 14, 16] := by decide
      exact places k hk
    · refine only186_of_true ?_ _
      rw [frame]
      exact h6
  · have popa : exec .popa s = .next (popAll s) := only186_of_true h6 _
    rw [popa, popAll_eq h]
    rfl

end Sys2Proof.Machine

/-! SUPPORT. The flag images of LAHF and SAHF (40_data_transfer.md R104, R105), and the test cycle of WAIT (46_processor_control.md R238). -/

namespace Sys2Proof.Machine

/-! ## LAHF and SAHF, R104, R105 -/

theorem Word.getLsbD_lo (w : Word) {k : Nat} (h : k < 8) : w.lo.getLsbD k = w.getLsbD k := by
  rw [Word.lo, BitVec.getLsbD_setWidth, decide_eq_true h, Bool.true_and]

theorem Word.getLsbD_hi (w : Word) {k : Nat} (h : k < 8) : w.hi.getLsbD k = w.getLsbD (8 + k) := by
  rw [Word.hi, BitVec.getLsbD_setWidth, BitVec.getLsbD_ushiftRight, decide_eq_true h, Bool.true_and]

/-- The five flags of LAHF are bits of the low byte of every flag image, whatever its free bits (R104). -/
theorem image_lo_bits (f : Flags) (fill : Word) :
    (f.image fill).lo.getLsbD 7 = f.sf ∧ (f.image fill).lo.getLsbD 6 = f.zf ∧ (f.image fill).lo.getLsbD 4 = f.af
      ∧ (f.image fill).lo.getLsbD 2 = f.pf ∧ (f.image fill).lo.getLsbD 0 = f.cf := by
  have image := ofImage_image f fill
  have low {k : Nat} (hk : k < 8) := Word.getLsbD_lo (f.image fill) hk
  exact ⟨(low (by decide)).trans (congrArg Flags.sf image), (low (by decide)).trans (congrArg Flags.zf image),
    (low (by decide)).trans (congrArg Flags.af image), (low (by decide)).trans (congrArg Flags.pf image),
    (low (by decide)).trans (congrArg Flags.cf image)⟩

theorem loadLow_hi (f : Flags) (w : Word) :
    f.loadLow w.hi = { f with
      sf := w.getLsbD 15, zf := w.getLsbD 14, af := w.getLsbD 12, pf := w.getLsbD 10, cf := w.getLsbD 8 } := by
  have high {k : Nat} (hk : k < 8) := Word.getLsbD_hi w hk
  rw [Flags.loadLow, high (by decide : 0 < 8), high (by decide : 2 < 8), high (by decide : 4 < 8), high (by decide : 6 < 8),
    high (by decide : 7 < 8)]

/-! ## WAIT, 46_processor_control.md R238 -/

/-- Between two test cycles of a WAIT the 8087 goes on unless it has nothing to do or LOCK keeps it off the bus (R313; logs 35, 60). -/
theorem npxProceed_unlocked (s : State) :
    npxProceed (!s.ctl.latches.lock) s =
      if s.npx.running = none ∨ (s.ctl.latches.lock = true ∧ s.npx.needsBus = true) then s else npxComplete s := by
  obtain ⟨locked, needs, same⟩ | ⟨free, completes⟩ := npxProceed_cases (!s.ctl.latches.lock) s
  · rw [same, if_pos (.inr ⟨by simpa using locked, needs⟩)]
  · rw [completes]
    by_cases idle : s.npx.running = none
    · rw [if_pos (.inl idle), npxComplete, idle]
    · refine (if_neg ?_).symm
      rintro (e | ⟨lock, needs⟩)
      · exact idle e
      · simp only [lock, needs, Bool.not_true, Bool.false_eq_true, Bool.true_eq_false, or_self] at free

theorem waitTest_active {s : State} (h : s.testActive = true) : waitTest s = s := if_pos h

theorem waitTest_inactive {s : State} (h : s.testActive = false) :
    waitTest s =
      let u := if s.npx.running = none ∨ (s.ctl.latches.lock = true ∧ s.npx.needsBus = true) then s else npxComplete s
      { u with ip := s.ctl.opIp, ctl := { s.ctl with phase := .waiting } } := by
  have step : waitTest s =
      ({ npxProceed (!s.ctl.latches.lock) s with ip := (npxProceed (!s.ctl.latches.lock) s).ctl.opIp } : State).setPhase .waiting :=
    if_neg (by rw [h]; decide)
  have ctl := ((AgentKeeps.refl s).then_npxProceed (!s.ctl.latches.lock)).ctl
  rw [step, State.setPhase, ctl, npxProceed_unlocked]

/-- Settles O34: LAHF by the bits of a flag image, WAIT by its test cycle. -/
theorem processorControl : Obligations.ProcessorControl := by
  refine ⟨fun p hp rest => ?_, fun s => ⟨?_, ?_, rfl, rfl, rfl, rfl, rfl, rfl, rfl, rfl, rfl, fun i hi => ?_⟩⟩
  · simp only [List.mem_cons, List.not_mem_nil, or_false] at hp
    obtain rfl | rfl | rfl | rfl | rfl | rfl | rfl | rfl | rfl | rfl | rfl | rfl := hp <;> rfl
  · obtain ⟨sf, zf, af, pf, cf⟩ := image_lo_bits s.flags (Config.freeFill s.fresh)
    exact ⟨_, sf, zf, af, pf, cf, rfl⟩
  · exact congrArg (fun f => Host.Outcome.next (s.setFlags f)) (loadLow_hi s.flags (s.get .ax))
  · have wait : exec i s = .next (waitTest s) := by
      simp only [List.mem_cons, List.not_mem_nil, or_false] at hi
      obtain rfl | rfl := hi <;> rfl
    rw [wait]
    exact ⟨fun active => congrArg _ (waitTest_active active), fun inactive => congrArg _ (waitTest_inactive inactive)⟩

end Sys2Proof.Machine

/-! SUPPORT. The shared two-operand and one-operand forms (41_arithmetic.md R111, R114; 30_encoding.md R61), and what a read operand leaves
the rest of an instruction to work on. -/

namespace Sys2Proof.Machine

/-! ## After an operand is read -/

theorem getReg_of_regs {s t : State} (h : t.regs = s.regs) (w : Width) (r : Reg) : t.getReg w r = s.getReg w r := by
  cases w
  · exact congrArg (Regs.get8 · r.half) h
  · exact congrArg (Regs.get · r) h

@[simp] theorem readRm_regs (w : Width) (rm : Rm) (s : State) : (readRm w rm s).2.regs = s.regs := (readRm_keeps w rm s).1.regs
@[simp] theorem readRm_flags (w : Width) (rm : Rm) (s : State) : (readRm w rm s).2.flags = s.flags := (readRm_keeps w rm s).1.flags
@[simp] theorem readRm_cfg (w : Width) (rm : Rm) (s : State) : (readRm w rm s).2.cfg = s.cfg := (readRm_keeps w rm s).1.others.1
@[simp] theorem readRm_getReg (w v : Width) (rm : Rm) (r : Reg) (s : State) : (readRm w rm s).2.getReg v r = s.getReg v r :=
  getReg_of_regs (readRm_regs w rm s) v r

/-! ## The two-operand forms, R111 -/

/-- The flags of an operation when those of `undef` take the free values of draw `k` (log 25). -/
def Flags.withUndefined (undef : Option FlagSet) (f : Flags) (k : Nat) : Flags :=
  undef.elim f fun m => f.scrambled m (Config.freeFlags k)

/-- The flags set and then left undefined: flags and draw count change, nothing else. -/
theorem setFlags_scrambleSome (undef : Option FlagSet) (f : Flags) (s : State) :
    ∃ k, (undef.map (scramble · (s.setFlags f))).getD (s.setFlags f) =
      { s with flags := f.withUndefined undef s.fresh, fresh := k } := by
  cases undef with
  | none => exact ⟨s.fresh, rfl⟩
  | some m => exact ⟨s.fresh + 1, rfl⟩

/-- The three forms of one operation: their instructions run `op`. -/
structure RunsBinOp {Imm' : Type} (width : Imm' → Width) (value : (i : Imm') → BitVec (width i).bits)
    (op : BinOp) (undef : Option FlagSet) (store : Bool) (rr : Dir → Width → Rm → Reg → Instr) (ri : Rm → Imm' → Instr)
    (ai : Imm → Instr) : Prop where
  rmReg : ∀ dir w rm r s, exec (rr dir w rm r) s = .next (binRmReg op undef store dir w rm r s)
  rmImm : ∀ rm i s, exec (ri rm i) s = .next (binRmVal op undef store (width i) rm (value i) s)
  accImm : ∀ i s, exec (ai i) s = .next (binAccVal op undef store i.width (Imm.value i) s)

/-- The forms answer what `spec` allows if the operation on two numbers does, at both widths. -/
theorem RunsBinOp.twoOperandForms {Imm' : Type} {width : Imm' → Width} {value : (i : Imm') → BitVec (width i).bits} {op : BinOp}
    {undef : Option FlagSet} {store : Bool} {rr : Dir → Width → Rm → Reg → Instr} {ri : Rm → Imm' → Instr} {ai : Imm → Instr}
    {spec : {n : Nat} → BitVec n → BitVec n → Flags → BitVec n → Flags → Prop} (runs : RunsBinOp width value op undef store rr ri ai)
    (agrees : ∀ (w : Width) (a b : BitVec w.bits) (f : Flags) (k : Nat),
      spec a b f (op w.bits a b f).1 ((op w.bits a b f).2.withUndefined undef k)) :
    TwoOperandForms width value spec store rr ri ai := by
  intro s
  refine ⟨fun w rm r => ?_, fun w rm r => ?_, fun rm i => ?_, fun i => ?_⟩
  · obtain ⟨k, flagged⟩ := setFlags_scrambleSome undef (op w.bits (readRm w rm s).1 (s.getReg w r) s.flags).2 (readRm w rm s).2
    refine ⟨_, _, k, agrees w _ _ _ (readRm w rm s).2.fresh, ?_⟩
    simp only [runs.rmReg, binRmReg, readRm_getReg, readRm_flags, flagged]
  · obtain ⟨k, flagged⟩ := setFlags_scrambleSome undef (op w.bits (s.getReg w r) (readRm w rm s).1 s.flags).2 (readRm w rm s).2
    refine ⟨_, _, k, agrees w _ _ _ (readRm w rm s).2.fresh, ?_⟩
    simp only [runs.rmReg, binRmReg, readRm_getReg, readRm_flags, flagged]
  · obtain ⟨k, flagged⟩ := setFlags_scrambleSome undef (op (width i).bits (readRm (width i) rm s).1 (value i) s.flags).2
      (readRm (width i) rm s).2
    refine ⟨_, _, k, agrees _ _ _ _ (readRm (width i) rm s).2.fresh, ?_⟩
    simp only [runs.rmImm, binRmVal, readRm_flags, flagged]
  · obtain ⟨k, flagged⟩ := setFlags_scrambleSome undef (op i.width.bits (s.acc i.width) (Imm.value i) s.flags).2 s
    refine ⟨_, _, k, agrees _ _ _ _ s.fresh, ?_⟩
    simp only [runs.accImm, binAccVal, flagged]

/-- The same for one operand. -/
theorem oneOperandForms_of_unaryRm {op : (n : Nat) → BitVec n → Flags → BitVec n × Flags} {form : Width → Rm → Instr}
    {spec : {n : Nat} → BitVec n → Flags → BitVec n → Flags → Prop} (runs : ∀ w rm s, exec (form w rm) s = .next (unaryRm op w rm s))
    (agrees : ∀ (w : Width) (a : BitVec w.bits) (f : Flags), spec a f (op w.bits a f).1 (op w.bits a f).2) : OneOperandForms spec form := by
  intro w rm s
  refine ⟨_, _, agrees w _ _, ?_⟩
  simp only [runs, unaryRm, readRm_flags]

/-! ### Encodings, R111 -/

theorem ImmS.encode_data (n : BitVec 3) (rm : Rm) (imm : ImmS) :
    encRS n rm imm = (ImmS.data imm).1 :: (encodeModRm n rm ++ (ImmS.data imm).2) := by
  cases imm <;> rfl

/-- The instructions of one operation have the opcodes of operation number `ooo`. -/
theorem twoOperandEncodings_of_encRS (ooo : BitVec 3) {rr : Dir → Width → Rm → Reg → Instr} {ri : Rm → ImmS → Instr} {ai : Imm → Instr}
    (rmReg : ∀ d w rm r, encode (rr d w rm r) = encRR ((0 : BitVec 2) ++ ooo ++ (0 : BitVec 1)) d w rm r)
    (rmImm : ∀ rm i, encode (ri rm i) = encRS ooo rm i)
    (accImm : ∀ i, encode (ai i) = opW ((0 : BitVec 2) ++ ooo ++ (2 : BitVec 2)) i.width :: i.bytes) :
    TwoOperandEncodings ooo ImmS.data rr ri ai := by
  refine ⟨rmReg, fun rm i => ?_, fun i => ?_⟩
  · rw [rmImm, ImmS.encode_data]
  · rw [accImm, Imm.data_bytes]
    rfl

end Sys2Proof.Machine

/-! SUPPORT. The status flags of sums and differences (10_state.md R20). -/

namespace Sys2Proof.Machine

variable {n : Nat}

/-! ## SF, ZF and PF -/

theorem evenParity_iff : ∀ b : Byte, evenParity b = true ↔ (List.range 8).countP (fun k => b.getLsbD k) % 2 = 0 := by decide

/-- Only the bits below 8 count for PF, and no flag but SF, ZF and PF matters. -/
theorem reportsResult_of_setSZP {f : Flags} {r : BitVec n} (sf : f.sf = r.msb) (zf : f.zf = (r == 0))
    (pf : f.pf = evenParity (r.setWidth 8)) : ReportsResult f r := by
  have lowByte : (List.range 8).countP (fun k => (r.setWidth 8).getLsbD k) = (List.range 8).countP (fun k => r.getLsbD k) := by
    refine List.countP_congr fun k hk => ?_
    rw [BitVec.getLsbD_setWidth, decide_eq_true (List.mem_range.1 hk), Bool.true_and]
  refine ⟨sf, ?_, ?_⟩
  · rw [zf, beq_iff_eq, BitVec.toNat_eq]
    rfl
  · rw [pf, ← lowByte]
    exact evenParity_iff _

/-! ## Signed numbers -/

/-- A number at most one 2^n out of signed range wraps once. -/
theorem toInt_ofInt_wrapped (pos : 0 < n) {z : Int} (low : -2 ^ n ≤ z) (high : z < 2 ^ n) :
    (BitVec.ofInt n z).toInt = if z < -2 ^ (n - 1) then z + 2 ^ n else if 2 ^ (n - 1) ≤ z then z - 2 ^ n else z := by
  have double : (2 : Int) ^ n = 2 * 2 ^ (n - 1) := by rw [mul_comm, ← pow_succ, Nat.sub_add_cancel pos]
  have period (y : Int) : (BitVec.ofInt n (y + 2 ^ n)).toInt = (BitVec.ofInt n y).toInt := by
    have shift := Int.add_bmod_right y (2 ^ n)
    rw [Nat.cast_pow, Nat.cast_ofNat] at shift
    rw [BitVec.toInt_ofInt, BitVec.toInt_ofInt, shift]
  split
  · rw [← period]
    exact BitVec.toInt_ofInt_eq_self pos (by omega) (by omega)
  · split
    · rw [← sub_add_cancel z (2 ^ n), period, add_sub_cancel_right]
      exact BitVec.toInt_ofInt_eq_self pos (by omega) (by omega)
    · exact BitVec.toInt_ofInt_eq_self pos (by omega) (by omega)

theorem sameSign_iff (a b : BitVec n) : (a.msb == b.msb) = true ↔ (a.toInt < 0 ↔ b.toInt < 0) := by
  rw [beq_iff_eq, BitVec.msb_eq_toInt, BitVec.msb_eq_toInt, decide_eq_decide]

theorem otherSign_iff (a b : BitVec n) : (a.msb != b.msb) = true ↔ ¬(a.toInt < 0 ↔ b.toInt < 0) := by
  rw [← sameSign_iff, bne, Bool.not_eq_true', Bool.not_eq_true]

/-! ## Sums and differences -/

/-- A sum of bit vectors is the sum of any integers they stand for. -/
theorem sum_eq_ofInt {a b : BitVec n} {x y : Int} (c : Bool) (ha : BitVec.ofInt n x = a) (hb : BitVec.ofInt n y = b) :
    sum a b c = BitVec.ofInt n (x + y + c.toNat) := by
  rw [sum, ← ha, ← hb, BitVec.ofInt_add, BitVec.ofInt_add, BitVec.ofInt_natCast]

theorem diff_eq_ofInt {a b : BitVec n} {x y : Int} (c : Bool) (ha : BitVec.ofInt n x = a) (hb : BitVec.ofInt n y = b) :
    diff a b c = BitVec.ofInt n (x - y - c.toNat) := by
  rw [diff, ← ha, ← hb, Int.sub_eq_add_neg, Int.sub_eq_add_neg, BitVec.ofInt_add, BitVec.ofInt_add, BitVec.ofInt_neg, BitVec.ofInt_neg,
    BitVec.ofInt_natCast, BitVec.sub_eq_add_neg, BitVec.sub_eq_add_neg]

theorem ofInt_toNat (a : BitVec n) : BitVec.ofInt n a.toNat = a := by rw [BitVec.ofInt_natCast, BitVec.ofNat_toNat, BitVec.setWidth_eq]

theorem sum_eq_ofNat (a b : BitVec n) (c : Bool) : sum a b c = BitVec.ofNat n (a.toNat + b.toNat + c.toNat) := by
  rw [sum_eq_ofInt c (ofInt_toNat a) (ofInt_toNat b), ← BitVec.ofInt_natCast, Nat.cast_add, Nat.cast_add]

theorem toNat_sum (a b : BitVec n) (c : Bool) : (sum a b c).toNat = (a.toNat + b.toNat + c.toNat) % 2 ^ n := by
  rw [sum_eq_ofNat, BitVec.toNat_ofNat]

theorem toNat_ofInt_emod (z : Int) : ((BitVec.ofInt n z).toNat : Int) = z % 2 ^ n := by
  have pos : (0 : Int) < 2 ^ n := Int.pow_pos (by decide)
  rw [BitVec.toNat_ofInt, Nat.cast_pow, Nat.cast_ofNat, Int.toNat_of_nonneg (Int.emod_nonneg z pos.ne')]

theorem toNat_diff (a b : BitVec n) (c : Bool) : ((diff a b c).toNat : Int) = ((a.toNat : Int) - b.toNat - c.toNat) % 2 ^ n := by
  rw [diff_eq_ofInt c (ofInt_toNat a) (ofInt_toNat b), toNat_ofInt_emod]

/-! ## OF -/

/-- The bounds of a signed number, the width doubled out. -/
theorem toInt_bounds (pos : 0 < n) (a : BitVec n) : (2 : Int) ^ n = 2 * 2 ^ (n - 1) ∧ -2 ^ (n - 1) ≤ a.toInt ∧ a.toInt < 2 ^ (n - 1) :=
  ⟨by rw [mul_comm, ← pow_succ, Nat.sub_add_cancel pos], BitVec.le_toInt a, BitVec.toInt_lt⟩

/-- Operands of one sign and a result of the other: the sum is out of signed range. -/
theorem sum_overflows (pos : 0 < n) (a b : BitVec n) (c : Bool) :
    (a.msb == b.msb && (sum a b c).msb != a.msb) = true
      ↔ a.toInt + b.toInt + c.toNat < -2 ^ (n - 1) ∨ 2 ^ (n - 1) ≤ a.toInt + b.toInt + c.toNat := by
  obtain ⟨double, aLow, aHigh⟩ := toInt_bounds pos a
  obtain ⟨-, bLow, bHigh⟩ := toInt_bounds pos b
  have carry := Bool.toNat_le c
  have wrapped := toInt_ofInt_wrapped (z := a.toInt + b.toInt + c.toNat) pos (by omega) (by omega)
  rw [← sum_eq_ofInt c BitVec.ofInt_toInt BitVec.ofInt_toInt] at wrapped
  rw [Bool.and_eq_true, sameSign_iff, otherSign_iff, wrapped]
  omega

/-- Operands of two signs and a result not of the first one's: the difference is out of signed range. -/
theorem diff_overflows (pos : 0 < n) (a b : BitVec n) (c : Bool) :
    (a.msb != b.msb && (diff a b c).msb != a.msb) = true
      ↔ a.toInt - b.toInt - c.toNat < -2 ^ (n - 1) ∨ 2 ^ (n - 1) ≤ a.toInt - b.toInt - c.toNat := by
  obtain ⟨double, aLow, aHigh⟩ := toInt_bounds pos a
  obtain ⟨-, bLow, bHigh⟩ := toInt_bounds pos b
  have borrow := Bool.toNat_le c
  have wrapped := toInt_ofInt_wrapped (z := a.toInt - b.toInt - c.toNat) pos (by omega) (by omega)
  rw [← diff_eq_ofInt c BitVec.ofInt_toInt BitVec.ofInt_toInt] at wrapped
  rw [Bool.and_eq_true, otherSign_iff, otherSign_iff, wrapped]
  omega

/-! ## All six flags -/

theorem addition_reportsSum (pos : 0 < n) (f : Flags) (a b : BitVec n) (c : Bool) : ReportsSum (f.addition a b c) a b c := by
  refine ⟨?_, decide_eq_true_iff, decide_eq_true_iff, sum_overflows pos a b c⟩
  rw [← sum_eq_ofNat]
  exact reportsResult_of_setSZP rfl rfl rfl

theorem subtraction_reportsDifference (pos : 0 < n) (f : Flags) (a b : BitVec n) (c : Bool) :
    ReportsDifference (f.subtraction a b c) a b c := by
  refine ⟨?_, decide_eq_true_iff, decide_eq_true_iff, diff_overflows pos a b c⟩
  rw [← diff_eq_ofInt c (ofInt_toNat a) (ofInt_toNat b)]
  exact reportsResult_of_setSZP rfl rfl rfl

/-! ## Adding or subtracting 1, and subtracting from 0 -/

theorem toNat_eq_of_toInt (pos : 0 < n) (a : BitVec n) : (a.toNat : Int) = if a.toInt < 0 then a.toInt + 2 ^ n else a.toInt := by
  obtain ⟨double, low, high⟩ := toInt_bounds pos a
  have residue : (a.toNat : Int) = a.toInt % 2 ^ n := by rw [← toNat_ofInt_emod, BitVec.ofInt_toInt]
  rw [residue]
  split
  · rw [← Int.add_emod_right, Int.emod_eq_of_lt (by omega) (by omega)]
  · exact Int.emod_eq_of_lt (by omega) (by omega)

theorem toNat_eq_max_iff (pos : 0 < n) (a : BitVec n) : a.toNat = 2 ^ (n - 1) - 1 ↔ a.toInt + 1 = 2 ^ (n - 1) := by
  obtain ⟨double, low, high⟩ := toInt_bounds pos a
  have value := toNat_eq_of_toInt pos a
  have nat : a.toNat = 2 ^ (n - 1) - 1 ↔ (a.toNat : Int) + 1 = 2 ^ (n - 1) := by
    rw [eq_tsub_iff_add_eq_of_le Nat.one_le_two_pow]
    exact_mod_cast Iff.rfl
  omega

theorem toNat_eq_min_iff (pos : 0 < n) (a : BitVec n) : a.toNat = 2 ^ (n - 1) ↔ a.toInt = -2 ^ (n - 1) := by
  obtain ⟨double, low, high⟩ := toInt_bounds pos a
  have value := toNat_eq_of_toInt pos a
  have nat : a.toNat = 2 ^ (n - 1) ↔ (a.toNat : Int) = 2 ^ (n - 1) := by exact_mod_cast Iff.rfl
  omega

theorem toNat_one (wide : 1 < n) : (1 : BitVec n).toNat = 1 := BitVec.toNat_one (Nat.zero_lt_of_lt wide)

theorem toInt_one (wide : 1 < n) : (1 : BitVec n).toInt = 1 := by
  have one := toNat_eq_of_toInt (Nat.zero_lt_of_lt wide) (1 : BitVec n)
  rw [toNat_one wide] at one
  have low := BitVec.le_toInt (1 : BitVec n)
  have half : (2 : Int) ^ n = 2 * 2 ^ (n - 1) := (toInt_bounds (Nat.zero_lt_of_lt wide) (1 : BitVec n)).1
  have large : (2 : Int) ^ 1 ≤ 2 ^ (n - 1) := by gcongr <;> omega
  omega

/-- INC is the addition of 1 but for CF (41_arithmetic.md R114). -/
theorem incOp_eq (wide : 1 < n) (a : BitVec n) (f : Flags) : incOp n a f = (sum a 1 false, { f.addition a 1 false with cf := f.cf }) := by
  have pos := Nat.zero_lt_of_lt wide
  have result : a + 1 = sum a 1 false := (BitVec.add_zero _).symm
  have af : (a.toNat % 16 == 15) = decide (16 ≤ a.toNat % 16 + (1 : BitVec n).toNat % 16 + false.toNat) := by
    rw [toNat_one wide, Bool.beq_eq_decide_eq, decide_eq_decide, Bool.toNat_false]
    omega
  have of : (a.toNat == 2 ^ (n - 1) - 1) = (a.msb == (1 : BitVec n).msb && (sum a 1 false).msb != a.msb) := by
    have low := BitVec.le_toInt a
    have high := BitVec.toInt_lt (x := a)
    rw [Bool.eq_iff_iff, sum_overflows pos, beq_iff_eq, toNat_eq_max_iff pos, toInt_one wide, Bool.toNat_false]
    omega
  rw [incOp, Flags.addition, result, af, of]
  rfl

/-- DEC is the subtraction of 1 but for CF (R119). -/
theorem decOp_eq (wide : 1 < n) (a : BitVec n) (f : Flags) : decOp n a f = (diff a 1 false, { f.subtraction a 1 false with cf := f.cf }) := by
  have pos := Nat.zero_lt_of_lt wide
  have result : a - 1 = diff a 1 false := (BitVec.sub_zero _).symm
  have af : (a.toNat % 16 == 0) = decide (a.toNat % 16 < (1 : BitVec n).toNat % 16 + false.toNat) := by
    rw [toNat_one wide, Bool.beq_eq_decide_eq, decide_eq_decide, Bool.toNat_false]
    omega
  have of : (a.toNat == 2 ^ (n - 1)) = (a.msb != (1 : BitVec n).msb && (diff a 1 false).msb != a.msb) := by
    have low := BitVec.le_toInt a
    have high := BitVec.toInt_lt (x := a)
    rw [Bool.eq_iff_iff, diff_overflows pos, beq_iff_eq, toNat_eq_min_iff pos, toInt_one wide, Bool.toNat_false]
    omega
  rw [decOp, Flags.subtraction, result, af, of]
  rfl

/-- NEG is the subtraction from 0 (R120). -/
theorem negOp_eq (pos : 0 < n) (a : BitVec n) (f : Flags) : negOp n a f = (diff 0 a false, f.subtraction 0 a false) := by
  have result : -a = diff 0 a false := ((BitVec.sub_zero _).trans (BitVec.zero_sub a)).symm
  have zero : (0 : BitVec n).toNat = 0 := BitVec.toNat_zero
  have cf : (a != 0) = decide ((0 : BitVec n).toNat < a.toNat + false.toNat) := by
    rw [Bool.eq_iff_iff, bne_iff_ne, decide_eq_true_iff, Ne, BitVec.toNat_eq, zero, Bool.toNat_false]
    omega
  have af : (a.toNat % 16 != 0) = decide ((0 : BitVec n).toNat % 16 < a.toNat % 16 + false.toNat) := by
    rw [Bool.eq_iff_iff, bne_iff_ne, decide_eq_true_iff, zero, Bool.toNat_false]
    omega
  have of : (a.toNat == 2 ^ (n - 1)) = ((0 : BitVec n).msb != a.msb && (diff 0 a false).msb != (0 : BitVec n).msb) := by
    have zeroInt : (0 : BitVec n).toInt = 0 := BitVec.toInt_zero
    have low := BitVec.le_toInt a
    have high := BitVec.toInt_lt (x := a)
    rw [Bool.eq_iff_iff, diff_overflows pos, beq_iff_eq, toNat_eq_min_iff pos, zeroInt, Bool.toNat_false]
    omega
  rw [negOp, Flags.subtraction, result, cf, af, of]

end Sys2Proof.Machine

/-! SUPPORT. Addition and subtraction (41_arithmetic.md R112 to R114, R117 to R121; 42_bit_manipulation.md R141). -/

namespace Sys2Proof.Machine

theorem one_lt_bits (w : Width) : 1 < w.bits := by cases w <;> decide
theorem bits_pos (w : Width) : 0 < w.bits := Nat.zero_lt_of_lt (one_lt_bits w)

/-! ## ADD, ADC, SUB, SBB, CMP -/

/-- Settles O15: each form runs `addOp` or `adcOp`, whose sum `toNat_sum` gives and whose flags `addition_reportsSum`. -/
theorem additionResults : Obligations.AdditionResults := by
  have reports {w : Width} (a b : BitVec w.bits) (f : Flags) (c : Bool) := addition_reportsSum (bits_pos w) f a b c
  refine ⟨?_, ?_, ?_, ?_⟩
  · refine RunsBinOp.twoOperandForms (op := addOp) (undef := none) ⟨fun _ _ _ _ _ => rfl, fun _ _ _ => rfl, fun _ _ => rfl⟩ ?_
    exact fun w a b f k => ⟨toNat_sum a b false, reports a b f false, rfl, rfl, rfl⟩
  · refine RunsBinOp.twoOperandForms (op := adcOp) (undef := none) ⟨fun _ _ _ _ _ => rfl, fun _ _ _ => rfl, fun _ _ => rfl⟩ ?_
    exact fun w a b f k => ⟨toNat_sum a b f.cf, reports a b f f.cf, rfl, rfl, rfl⟩
  · exact twoOperandEncodings_of_encRS 0 (fun _ _ _ _ => rfl) (fun _ _ => rfl) fun _ => rfl
  · exact twoOperandEncodings_of_encRS 2 (fun _ _ _ _ => rfl) (fun _ _ => rfl) fun _ => rfl

/-- Settles O16: each form runs `subOp` or `sbbOp`, whose difference `toNat_diff` gives and whose flags `subtraction_reportsDifference`. -/
theorem subtractionResults : Obligations.SubtractionResults := by
  have reports {w : Width} (a b : BitVec w.bits) (f : Flags) (c : Bool) := subtraction_reportsDifference (bits_pos w) f a b c
  refine ⟨?_, ?_, ?_, ?_, ?_, ?_⟩
  · refine RunsBinOp.twoOperandForms (op := subOp) (undef := none) ⟨fun _ _ _ _ _ => rfl, fun _ _ _ => rfl, fun _ _ => rfl⟩ ?_
    exact fun w a b f k => ⟨toNat_diff a b false, reports a b f false, rfl, rfl, rfl⟩
  · refine RunsBinOp.twoOperandForms (op := sbbOp) (undef := none) ⟨fun _ _ _ _ _ => rfl, fun _ _ _ => rfl, fun _ _ => rfl⟩ ?_
    exact fun w a b f k => ⟨toNat_diff a b f.cf, reports a b f f.cf, rfl, rfl, rfl⟩
  · refine RunsBinOp.twoOperandForms (op := subOp) (undef := none) ⟨fun _ _ _ _ _ => rfl, fun _ _ _ => rfl, fun _ _ => rfl⟩ ?_
    exact fun w a b f k => ⟨toNat_diff a b false, reports a b f false, rfl, rfl, rfl⟩
  · exact twoOperandEncodings_of_encRS 5 (fun _ _ _ _ => rfl) (fun _ _ => rfl) fun _ => rfl
  · exact twoOperandEncodings_of_encRS 3 (fun _ _ _ _ => rfl) (fun _ _ => rfl) fun _ => rfl
  · exact twoOperandEncodings_of_encRS 7 (fun _ _ _ _ => rfl) (fun _ _ => rfl) fun _ => rfl

/-! ## INC, DEC, NEG, NOT -/

/-- Settles O17: INC and DEC add and subtract 1 but for CF, NEG subtracts from 0. -/
theorem oneOperandResults : Obligations.OneOperandResults := by
  refine ⟨oneOperandForms_of_unaryRm (op := incOp) (fun _ _ _ => rfl) fun w a f => ?_, fun _ _ => rfl,
    oneOperandForms_of_unaryRm (op := decOp) (fun _ _ _ => rfl) fun w a f => ?_, fun _ _ => rfl,
    oneOperandForms_of_unaryRm (op := negOp) (fun _ _ _ => rfl) fun w a f => ?_,
    oneOperandForms_of_unaryRm (op := notOp) (fun _ _ _ => rfl) fun w a f => ?_,
    fun _ _ => rfl, fun _ _ => rfl, fun _ _ => rfl, fun _ _ => rfl, fun _ => ⟨rfl, rfl⟩⟩
  · have wide := one_lt_bits w
    rw [incOp_eq wide]
    refine ⟨?_, rfl, ⟨rfl, rfl, rfl⟩, _, addition_reportsSum (bits_pos w) f a 1 false⟩
    rw [toNat_sum, toNat_one wide]
    rfl
  · have wide := one_lt_bits w
    rw [decOp_eq wide]
    refine ⟨?_, rfl, ⟨rfl, rfl, rfl⟩, _, subtraction_reportsDifference (bits_pos w) f a 1 false⟩
    rw [toNat_diff, toNat_one wide, Bool.toNat_false, Nat.cast_zero, sub_zero, Nat.cast_one]
  · have pos := bits_pos w
    rw [negOp_eq pos]
    refine ⟨?_, subtraction_reportsDifference pos f 0 a false, rfl, rfl, rfl⟩
    have zero : (0 : BitVec w.bits).toNat = 0 := BitVec.toNat_zero
    rw [toNat_diff, zero, Bool.toNat_false, Nat.cast_zero, sub_zero, zero_sub]
  · refine ⟨fun k hk => ?_, rfl⟩
    rw [notOp, BitVec.getLsbD_not, decide_eq_true hk, Bool.true_and]

end Sys2Proof.Machine

/-! SUPPORT. Multiplication and division (41_arithmetic.md R124 to R126, R128, R129): products and quotients in the registers, and the
divide error (60_exceptions.md R263). -/

namespace Sys2Proof.Machine

/-! ## Numbers cut to a register -/

theorem setWidth_ofInt (z : Int) : (BitVec.ofInt 32 z).setWidth 16 = BitVec.ofInt 16 z := by
  apply BitVec.eq_of_toNat_eq
  rw [BitVec.toNat_setWidth, BitVec.toNat_ofInt, BitVec.toNat_ofInt]
  omega

theorem extractLsb'_ofInt (z : Int) : (BitVec.ofInt 32 z).extractLsb' 16 16 = BitVec.ofInt 16 (z / 65536) := by
  apply BitVec.eq_of_toNat_eq
  rw [BitVec.extractLsb'_toNat, Nat.shiftRight_eq_div_pow, BitVec.toNat_ofInt, BitVec.toNat_ofInt]
  omega

theorem Word.lo_ofNat (k : Nat) : Word.lo (BitVec.ofNat 16 k) = BitVec.ofNat 8 k := BitVec.setWidth_ofNat_of_le (by decide) k

theorem Word.lo_ofInt (z : Int) : Word.lo (BitVec.ofInt 16 z) = BitVec.ofInt 8 z := by
  apply BitVec.eq_of_toNat_eq
  rw [Word.lo, BitVec.toNat_setWidth, BitVec.toNat_ofInt, BitVec.toNat_ofInt]
  omega

/-- An integer survives the cut to `n` bits just when it is in signed range. -/
theorem ofInt_loses_iff {n : Nat} (pos : 0 < n) (z : Int) : (z != (BitVec.ofInt n z).toInt) = true ↔ z < -2 ^ (n - 1) ∨ 2 ^ (n - 1) ≤ z := by
  have low := BitVec.le_toInt (BitVec.ofInt n z)
  have high := BitVec.toInt_lt (x := BitVec.ofInt n z)
  have kept := BitVec.toInt_ofInt_eq_self pos (n := z)
  rw [bne_iff_ne]
  constructor
  · intro lost
    by_contra inside
    exact lost (kept (by omega) (by omega)).symm
  · intro outside eq
    omega

/-! ## MUL and IMUL, R124 to R126 -/

/-- A double-width product in its registers: AX, or DX:AX. -/
def productRegs (w : Width) (z : Int) (g : Regs) : Regs :=
  match w with
  | .byte => g.set .ax (BitVec.ofInt 16 z)
  | .word => (g.set .dx (BitVec.ofInt 16 (z / 65536))).set .ax (BitVec.ofInt 16 z)

theorem setProduct_ofInt (w : Width) (z : Int) (s : State) :
    setProduct w (BitVec.ofInt 32 z) s = { s with regs := productRegs w z s.regs } := by
  cases w with
  | byte =>
    rw [setProduct, setWidth_ofInt]
    rfl
  | word =>
    rw [setProduct, setWidth_ofInt, extractLsb'_ofInt]
    rfl

/-- An unsigned product in its registers. -/
theorem productRegs_natCast (p : Nat) (g : Regs) :
    productRegs .byte p g = g.set .ax (BitVec.ofNat 16 p)
      ∧ productRegs .word p g = (g.set .dx (BitVec.ofNat 16 (p / 65536))).set .ax (BitVec.ofNat 16 p) := by
  have high : (p : Int) / 65536 = ((p / 65536 : Nat) : Int) := (Int.natCast_ediv p 65536).symm
  rw [productRegs, productRegs, high, BitVec.ofInt_natCast, BitVec.ofInt_natCast]
  exact ⟨rfl, rfl⟩

/-- A multiplication that changes registers to `regs`: CF and OF both say `big`, the other status flags are free (log 25). -/
def Multiplied (i : Instr) (s u : State) (regs : Regs) (big : Prop) : Prop :=
  ∃ f k, exec i s = .next { u with regs := regs, flags := f, fresh := k } ∧ (f.cf = true ↔ big) ∧ f.of = f.cf ∧ s.flags.controlKept f

theorem multiplied_of_mulFlags {i : Instr} {s u : State} {regs : Regs} {big : Prop} {c : Bool} (flags : u.flags = s.flags)
    (step : exec i s = .next (mulFlags c { u with regs := regs })) (iff : c = true ↔ big) : Multiplied i s u regs big := by
  refine ⟨_, _, step, iff, rfl, ?_⟩
  rw [← flags]
  exact ⟨rfl, rfl, rfl⟩

theorem readRm_acc (w v : Width) (rm : Rm) (s : State) : (readRm w rm s).2.acc v = s.acc v := readRm_getReg w v rm .ax s

theorem mulRm_multiplied (w : Width) (rm : Rm) (s : State) :
    Multiplied (.mulRm w rm) s (readRm w rm s).2 (productRegs w ((s.acc w).toNat * (readRm w rm s).1.toNat : Nat) s.regs)
      (2 ^ w.bits ≤ (s.acc w).toNat * (readRm w rm s).1.toNat) := by
  refine multiplied_of_mulFlags (readRm_flags w rm s) ?_ decide_eq_true_iff
  rw [← readRm_regs w rm s, ← setProduct_ofInt, BitVec.ofInt_natCast, ← readRm_acc w w rm s]
  rfl

theorem imulRm_multiplied (w : Width) (rm : Rm) (s : State) :
    let q := (s.acc w).toInt * (readRm w rm s).1.toInt
    Multiplied (.imulRm w rm) s (readRm w rm s).2 (productRegs w q s.regs) (q < -2 ^ (w.bits - 1) ∨ 2 ^ (w.bits - 1) ≤ q) := by
  refine multiplied_of_mulFlags (readRm_flags w rm s) ?_ (ofInt_loses_iff (bits_pos w) _)
  rw [← readRm_regs w rm s, ← setProduct_ofInt, ← readRm_acc w w rm s]
  rfl

/-- The immediate form, by the word that its immediate is extended to. -/
theorem imulImm_multiplied {s : State} {i : Instr} {r : Reg} {rm : Rm} {imm : Word} (step : exec i s = .next (imulImm r rm imm s)) :
    let q := (readRm .word rm s).1.toInt * imm.toInt
    Multiplied i s (readRm .word rm s).2 (s.regs.set r (BitVec.ofInt 16 q)) (q < -32768 ∨ 32767 < q) := by
  refine multiplied_of_mulFlags (readRm_flags .word rm s) ?_ (ofInt_loses_iff (by decide : 0 < 16) _)
  rw [← readRm_regs .word rm s]
  exact step

/-- Settles O18: one product a form, whose upper part CF and OF tell by `ofInt_loses_iff` when it is signed. -/
theorem multiplicationResults : Obligations.MultiplicationResults := by
  refine ⟨fun _ _ => rfl, fun _ _ => rfl, fun _ _ => ⟨fun _ => rfl, fun _ => rfl⟩, fun s rm => ?_⟩
  obtain ⟨byteRegs, -⟩ := productRegs_natCast ((s.acc .byte).toNat * (readRm .byte rm s).1.toNat) s.regs
  obtain ⟨-, wordRegs⟩ := productRegs_natCast ((s.acc .word).toNat * (readRm .word rm s).1.toNat) s.regs
  have byte := mulRm_multiplied .byte rm s
  have word := mulRm_multiplied .word rm s
  rw [byteRegs] at byte
  rw [wordRegs] at word
  refine ⟨⟨byte, imulRm_multiplied .byte rm s⟩, word, imulRm_multiplied .word rm s, fun h r imm => ?_, fun h r imm => ?_⟩
  · exact imulImm_multiplied (only186_of_true h _)
  · have multiplied := imulImm_multiplied (i := .imulImm8 r rm imm) (only186_of_true h _)
    rw [BitVec.toInt_signExtend_of_le (by decide : 8 ≤ 16)] at multiplied
    exact multiplied

/-! ## Quotient and remainder -/

/-- Quotient and remainder in their registers: AL and AH, or AX and DX. -/
def quotientRegs (w : Width) (q r : Word) (g : Regs) : Regs :=
  match w with
  | .byte => (g.set8 .al q.lo).set8 .ah r.lo
  | .word => (g.set .ax q).set .dx r

theorem setQuotient_eq (w : Width) (q r : Word) (s : State) : setQuotient w q r s = { s with regs := quotientRegs w q r s.regs } := by
  cases w <;> rfl

theorem quotientRegs_byte_ofNat (q r : Nat) (g : Regs) (fits : q < 256) :
    quotientRegs .byte (BitVec.ofNat 16 q) (BitVec.ofNat 16 r) g = g.set .ax (BitVec.ofNat 16 (q + 256 * r)) := by
  have ax : Word.mk (BitVec.ofNat 8 r) (BitVec.ofNat 8 q) = BitVec.ofNat 16 (q + 256 * r) := by
    apply BitVec.eq_of_toNat_eq
    rw [Word.toNat_mk, BitVec.toNat_ofNat, BitVec.toNat_ofNat, BitVec.toNat_ofNat]
    omega
  rw [quotientRegs, Word.lo_ofNat, Word.lo_ofNat, ← ax]
  simp only [Regs.set8, Regs.set, Word.lo_mk]

theorem quotientRegs_byte_ofInt (q r : Int) (g : Regs) :
    quotientRegs .byte (BitVec.ofInt 16 q) (BitVec.ofInt 16 r) g = (g.set8 .al (BitVec.ofInt 8 q)).set8 .ah (BitVec.ofInt 8 r) := by
  rw [quotientRegs, Word.lo_ofInt, Word.lo_ofInt]

/-- A division that changes registers to `regs`: the status flags are free (log 25). -/
def Divided (i : Instr) (s u : State) (regs : Regs) : Prop :=
  ∃ f k, exec i s = .next { u with regs := regs, flags := f, fresh := k } ∧ s.flags.controlKept f

/-- A division that takes interrupt 0: quotient, remainder and status flags are free (log 26). -/
def DivideTraps (w : Width) (i : Instr) (s u : State) : Prop :=
  ∃ q r f k, exec i s = .next (interrupt 0 s.ip { u with regs := quotientRegs w q r s.regs, flags := f, fresh := k }) ∧ s.flags.controlKept f

theorem divided_of_step {w : Width} {i : Instr} {s u : State} {q r : Word} (kept : AccessKeeps s u)
    (step : exec i s = .next (divided w q r u)) : Divided i s u (quotientRegs w q r s.regs) := by
  rw [divided, setQuotient_eq] at step
  rw [← kept.regs, Divided, ← kept.flags]
  exact ⟨_, _, step, rfl, rfl, rfl⟩

theorem divideTraps_of_step {w : Width} {i : Instr} {s u : State} (kept : AccessKeeps s u)
    (step : exec i s = .next (divideError w u)) : DivideTraps w i s u := by
  simp only [divideError, setQuotient_eq] at step
  rw [DivideTraps, ← kept.regs, ← kept.flags, ← kept.ip]
  exact ⟨_, _, _, _, step, rfl, rfl, rfl⟩

/-! ## DIV and IDIV, R128, R129 -/

theorem toNat_append_word (high low : Word) : (high ++ low).toNat = 65536 * high.toNat + low.toNat := by
  rw [BitVec.toNat_append, Nat.shiftLeft_eq, mul_comm, ← Nat.two_pow_add_eq_or_of_lt low.isLt]

/-- The dividends as the numbers of R128 and R129. -/
theorem dividend_byte (s : State) : (dividend .byte s).toNat = (s.get .ax).toNat := BitVec.toNat_setWidth_of_le (by decide)

theorem dividend_word (s : State) : (dividend .word s).toNat = 65536 * (s.get .dx).toNat + (s.get .ax).toNat := toNat_append_word _ _

theorem signedDividend_word (s : State) : signedDividend .word s = 65536 * (s.get .dx).toInt + (s.get .ax).toNat := BitVec.toInt_append

theorem dividend_of_regs {s t : State} (h : t.regs = s.regs) (w : Width) :
    dividend w t = dividend w s ∧ signedDividend w t = signedDividend w s := by
  cases w <;> simp only [dividend, signedDividend, State.get, h, and_self]

theorem exec_divRm (w : Width) (rm : Rm) (s : State) :
    exec (.divRm w rm) s =
      let d := (readRm w rm s).1
      let n := (dividend w s).toNat
      if d.toNat = 0 ∨ 2 ^ w.bits ≤ n / d.toNat then .next (divideError w (readRm w rm s).2)
      else .next (divided w (BitVec.ofNat 16 (n / d.toNat)) (BitVec.ofNat 16 (n % d.toNat)) (readRm w rm s).2) := by
  rw [← (dividend_of_regs (readRm_regs w rm s) w).1]
  rfl

theorem exec_idivRm (w : Width) (rm : Rm) (s : State) :
    exec (.idivRm w rm) s =
      let d := (readRm w rm s).1
      let q := (signedDividend w s).tdiv d.toInt
      if d.toInt = 0 ∨ (2 ^ (w.bits - 1) : Int) ≤ q ∨ q < minQuotient w s.is186 then .next (divideError w (readRm w rm s).2)
      else .next (divided w (BitVec.ofInt 16 q) (BitVec.ofInt 16 ((signedDividend w s).tmod d.toInt)) (readRm w rm s).2) := by
  have is186 : (readRm w rm s).2.is186 = s.is186 := congrArg Config.is186 (readRm_cfg w rm s)
  rw [← (dividend_of_regs (readRm_regs w rm s) w).2, ← is186]
  rfl

section
variable {w : Width} {rm : Rm} {s : State}

theorem divRm_divided (nonzero : (readRm w rm s).1 ≠ 0) (fits : (dividend w s).toNat / (readRm w rm s).1.toNat < 2 ^ w.bits) :
    Divided (.divRm w rm) s (readRm w rm s).2
      (quotientRegs w (BitVec.ofNat 16 ((dividend w s).toNat / (readRm w rm s).1.toNat))
        (BitVec.ofNat 16 ((dividend w s).toNat % (readRm w rm s).1.toNat)) s.regs) := by
  refine divided_of_step (readRm_keeps w rm s).1 ((exec_divRm w rm s).trans (if_neg ?_))
  rintro (zero | big)
  · exact nonzero (BitVec.eq_of_toNat_eq zero)
  · omega

theorem divRm_traps (h : (readRm w rm s).1 = 0 ∨ 2 ^ w.bits ≤ (dividend w s).toNat / (readRm w rm s).1.toNat) :
    DivideTraps w (.divRm w rm) s (readRm w rm s).2 :=
  divideTraps_of_step (readRm_keeps w rm s).1 ((exec_divRm w rm s).trans (if_pos (h.imp_left (congrArg BitVec.toNat))))

theorem idivRm_divided (nonzero : (readRm w rm s).1 ≠ 0)
    (low : minQuotient w s.is186 ≤ (signedDividend w s).tdiv (readRm w rm s).1.toInt)
    (high : (signedDividend w s).tdiv (readRm w rm s).1.toInt < 2 ^ (w.bits - 1)) :
    Divided (.idivRm w rm) s (readRm w rm s).2
      (quotientRegs w (BitVec.ofInt 16 ((signedDividend w s).tdiv (readRm w rm s).1.toInt))
        (BitVec.ofInt 16 ((signedDividend w s).tmod (readRm w rm s).1.toInt)) s.regs) := by
  refine divided_of_step (readRm_keeps w rm s).1 ((exec_idivRm w rm s).trans (if_neg ?_))
  rintro (zero | above | below)
  · exact nonzero (BitVec.eq_of_toInt_eq (zero.trans BitVec.toInt_zero.symm))
  · omega
  · omega

theorem idivRm_traps
    (h : (readRm w rm s).1 = 0 ∨ (signedDividend w s).tdiv (readRm w rm s).1.toInt < minQuotient w s.is186
      ∨ 2 ^ (w.bits - 1) ≤ (signedDividend w s).tdiv (readRm w rm s).1.toInt) :
    DivideTraps w (.idivRm w rm) s (readRm w rm s).2 := by
  refine divideTraps_of_step (readRm_keeps w rm s).1 ((exec_idivRm w rm s).trans (if_pos ?_))
  exact h.imp (fun zero => (congrArg BitVec.toInt zero).trans BitVec.toInt_zero) Or.symm

end

theorem minQuotient_byte (b : Bool) : minQuotient .byte b = if b then -128 else -127 := by cases b <;> rfl
theorem minQuotient_word (b : Bool) : minQuotient .word b = if b then -32768 else -32767 := by cases b <;> rfl

/-- Settles O19: the two outcomes of each division, with the registers of each width. -/
theorem divisionResults : Obligations.DivisionResults := by
  refine ⟨fun _ _ => rfl, fun _ _ => rfl, fun s rm => ⟨?_, ?_⟩⟩
  · have div := @divRm_divided .byte rm s
    have divTraps := @divRm_traps .byte rm s
    have idiv := @idivRm_divided .byte rm s
    have idivTraps := @idivRm_traps .byte rm s
    rw [dividend_byte] at div divTraps
    rw [minQuotient_byte] at idiv idivTraps
    rw [quotientRegs_byte_ofInt] at idiv
    refine ⟨fun nonzero fits => ?_, fun nonzero low high => idiv nonzero low (Int.lt_add_one_of_le high), divTraps, idivTraps⟩
    rw [← quotientRegs_byte_ofNat _ _ _ fits]
    exact div nonzero fits
  · have div := @divRm_divided .word rm s
    have divTraps := @divRm_traps .word rm s
    have idiv := @idivRm_divided .word rm s
    have idivTraps := @idivRm_traps .word rm s
    rw [dividend_word] at div divTraps
    rw [minQuotient_word, signedDividend_word] at idiv idivTraps
    exact ⟨div, fun nonzero low high => idiv nonzero low (Int.lt_add_one_of_le high), divTraps, idivTraps⟩

end Sys2Proof.Machine

/-! SUPPORT. The adjustments of decimal digits and the conversions (41_arithmetic.md R115, R116, R122, R123, R127, R130 to R132). -/

namespace Sys2Proof.Machine

/-! ## AL and AH as a number -/

/-- Writing both halves of AX is writing AX (10_state.md R14). -/
theorem set8_ah_al (g : Regs) (h l : Byte) : (g.set8 .ah h).set8 .al l = g.set .ax (BitVec.ofNat 16 (256 * h.toNat + l.toNat)) := by
  rw [Nat.add_comm, ← mk_eq_ofNat]
  simp only [Regs.set8, Regs.set, Word.hi_mk]

theorem set8_al (g : Regs) (l : Byte) : g.set8 .al l = g.set .ax (BitVec.ofNat 16 (256 * (g.get8 .ah).toNat + l.toNat)) := by
  rw [Nat.add_comm, ← mk_eq_ofNat]
  rfl

theorem toNat_lowDigit (b : Byte) : (b &&& 0x0F).toNat = b.toNat % 16 := Nat.and_two_pow_sub_one_eq_mod b.toNat 4

/-- A number added to a byte when a condition holds. -/
theorem toNat_adjusted (hit : Bool) (b d : Byte) : (if hit then b + d else b).toNat = if hit then (b.toNat + d.toNat) % 256 else b.toNat := by
  cases hit
  · rfl
  · exact BitVec.toNat_add b d

/-- An adjustment: AH and AL as given, flags of which `defined` says the defined ones, one draw for the undefined ones. -/
def Adjusts (i : Instr) (s : State) (newAh newAl : Nat) (defined : Flags → Prop) : Prop :=
  ∃ f, exec i s = .next { s with regs := s.regs.set .ax (BitVec.ofNat 16 (256 * newAh + newAl)), flags := f, fresh := s.fresh + 1 }
    ∧ defined f ∧ s.flags.controlKept f

/-! ## AAA, AAS, DAA, DAS, R115, R116, R122, R123 -/

theorem adjusts_of_asciiAdjust {i : Instr} {s : State} {dl dh : Byte} (step : exec i s = .next (asciiAdjust dl dh s)) :
    Adjusts i s (if adjustLow s then ((s.get8 .ah).toNat + dh.toNat) % 256 else (s.get8 .ah).toNat)
      (if adjustLow s then ((s.get8 .al).toNat + dl.toNat % 16) % 16 else (s.get8 .al).toNat % 16)
      (fun f => f.af = adjustLow s ∧ f.cf = adjustLow s) := by
  have digit : (if adjustLow s then ((s.get8 .al).toNat + dl.toNat % 16) % 16 else (s.get8 .al).toNat % 16)
      = ((if adjustLow s then s.get8 .al + dl else s.get8 .al) &&& 0x0F).toNat := by
    rw [toNat_lowDigit, toNat_adjusted]
    split <;> omega
  rw [digit, ← toNat_adjusted, Adjusts, ← set8_ah_al]
  exact ⟨_, step, ⟨rfl, rfl⟩, rfl, rfl, rfl⟩

theorem adjusts_of_decimalAdjust {i : Instr} {s : State} {dl dh : Byte} (step : exec i s = .next (decimalAdjust dl dh s)) :
    let low := if adjustLow s then ((s.get8 .al).toNat + dl.toNat) % 256 else (s.get8 .al).toNat
    let hit2 : Bool := 0x9F < low || s.flags.cf
    let r := if hit2 then (low + dh.toNat) % 256 else low
    Adjusts i s (s.get8 .ah).toNat r (fun f => f.af = adjustLow s ∧ f.cf = hit2 ∧ ReportsResult f (BitVec.ofNat 8 r)) := by
  dsimp only
  rw [← toNat_adjusted, ← toNat_adjusted, Adjusts, State.get8, ← set8_al, BitVec.ofNat_toNat, BitVec.setWidth_eq]
  exact ⟨_, step, ⟨rfl, rfl, reportsResult_of_setSZP rfl rfl rfl⟩, rfl, rfl, rfl⟩

/-! ## AAM, AAD, R127, R130 -/

theorem aam_adjusts (s : State) :
    Adjusts .aam s ((s.get8 .al).toNat / 10) ((s.get8 .al).toNat % 10) (fun f => ReportsResult f (BitVec.ofNat 8 ((s.get8 .al).toNat % 10))) := by
  have small := (s.get8 .al).isLt
  have quotient : (BitVec.ofNat 8 ((s.get8 .al).toNat / 10)).toNat = (s.get8 .al).toNat / 10 := Nat.mod_eq_of_lt (by omega)
  have digit : (BitVec.ofNat 8 ((s.get8 .al).toNat % 10)).toNat = (s.get8 .al).toNat % 10 := Nat.mod_eq_of_lt (by omega)
  have halves := set8_ah_al s.regs (BitVec.ofNat 8 ((s.get8 .al).toNat / 10)) (BitVec.ofNat 8 ((s.get8 .al).toNat % 10))
  rw [quotient, digit] at halves
  rw [Adjusts, ← halves]
  exact ⟨_, rfl, reportsResult_of_setSZP rfl rfl rfl, rfl, rfl, rfl⟩

theorem aad_adjusts (s : State) :
    Adjusts .aad s 0 ((10 * (s.get8 .ah).toNat + (s.get8 .al).toNat) % 256)
      (fun f => ReportsResult f (BitVec.ofNat 8 (10 * (s.get8 .ah).toNat + (s.get8 .al).toNat))) := by
  have number : s.get8 .ah * 10 + s.get8 .al = BitVec.ofNat 8 (10 * (s.get8 .ah).toNat + (s.get8 .al).toNat) := by
    apply BitVec.eq_of_toNat_eq
    have ten : (10 : Byte).toNat = 10 := rfl
    rw [BitVec.toNat_add, BitVec.toNat_mul, BitVec.toNat_ofNat, ten]
    omega
  have halves := set8_ah_al s.regs 0 (s.get8 .ah * 10 + s.get8 .al)
  have zero : (0 : Byte).toNat = 0 := rfl
  have sum : (s.get8 .ah * 10 + s.get8 .al).toNat = (10 * (s.get8 .ah).toNat + (s.get8 .al).toNat) % 256 := by
    rw [number]
    rfl
  rw [zero, sum] at halves
  rw [Adjusts, ← halves, ← number]
  exact ⟨_, rfl, reportsResult_of_setSZP rfl rfl rfl, rfl, rfl, rfl⟩

/-- Settles O20: each adjustment runs `asciiAdjust` or `decimalAdjust` with its two numbers, or divides or multiplies by ten. -/
theorem adjustmentResults : Obligations.AdjustmentResults := by
  refine ⟨fun p hp => ?_, fun s => ⟨?_, ?_, ?_, ?_, aam_adjusts s, aad_adjusts s, rfl, ?_⟩⟩
  · simp only [List.mem_cons, List.not_mem_nil, or_false] at hp
    obtain rfl | rfl | rfl | rfl | rfl | rfl | rfl | rfl := hp <;> rfl
  · exact adjusts_of_asciiAdjust (i := .aaa) (dl := 6) (dh := 1) rfl
  · exact adjusts_of_asciiAdjust (i := .aas) (dl := -6) (dh := -1) rfl
  · exact adjusts_of_decimalAdjust (i := .daa) (dl := 6) (dh := 0x60) rfl
  · exact adjusts_of_decimalAdjust (i := .das) (dl := -6) (dh := -0x60) rfl
  · have negative : (s.get .ax).msb = true ↔ (s.get .ax).toInt < 0 := by rw [BitVec.msb_eq_toInt, decide_eq_true_iff]
    exact congrArg (fun v => Host.Outcome.next (s.set .dx v)) (if_congr negative rfl rfl)

end Sys2Proof.Machine

/-! SUPPORT. The forms and flags of the shifts and rotates (42_bit_manipulation.md R146, R147). -/

namespace Sys2Proof.Machine

/-! ## The forms of a shift or rotate, R146 -/

/-- The flags that `op` sets from the result `p.1` and the last bit moved `p.2` (R147). -/
def ShiftOp.flagsSet {n : Nat} (op : ShiftOp) (f : Flags) (p : BitVec n × Bool) : Flags :=
  let g := { f with cf := p.2, of := op.overflow p.1 p.2 }
  if op.isShift then g.setSZP p.1 else g

/-- The flags after `op` by `count`: the undefined ones take the free values of draw `k` (R147, log 25). -/
def ShiftOp.flagsAfter {n : Nat} (op : ShiftOp) (count : Nat) (f : Flags) (p : BitVec n × Bool) (k : Nat) : Flags :=
  (op.flagsSet f p).scrambled (op.undefinedFlags count) (Config.freeFlags k)

/-- A shift or rotate reads its operand, writes the result and replaces the flags. -/
theorem shiftRm_eq (op : ShiftOp) (w : Width) (rm : Rm) (c : Byte) (s : State) :
    shiftRm op w rm c s =
      let u := (readRm w rm s).2
      let p := op.repeated (effectiveCount s c) (readRm w rm s).1 s.flags.cf
      writeRm w rm p.1 { u with flags := op.flagsAfter (effectiveCount s c) s.flags p u.fresh, fresh := u.fresh + 1 } := by
  rw [← readRm_flags w rm s]
  rfl

/-- The two forms of one operation: their instructions run `op`. -/
structure RunsShift (op : ShiftOp) (form : ShiftCount → Width → Rm → Instr) (imm : Width → Rm → Byte → Instr) : Prop where
  byCount : ∀ c w rm s, exec (form c w rm) s = .next (shiftRm op w rm (shiftCount s c) s)
  byImm : ∀ w rm c s, exec (imm w rm c) s = only186 s (shiftRm op w rm c)

theorem effectiveCount_one (s : State) : effectiveCount s 1 = 1 := ite_self 1

/-- The forms answer what `spec` allows if the operation on a number and a count does, at both widths. -/
theorem RunsShift.shiftForms {op : ShiftOp} {form : ShiftCount → Width → Rm → Instr} {imm : Width → Rm → Byte → Instr}
    {spec : {n : Nat} → (count : Nat) → BitVec n → Flags → BitVec n → Flags → Prop} (runs : RunsShift op form imm)
    (agrees : ∀ (w : Width) (count : Nat) (a : BitVec w.bits) (f : Flags) (k : Nat),
      spec count a f (op.repeated count a f.cf).1 (op.flagsAfter count f (op.repeated count a f.cf) k)) :
    ShiftForms spec form imm := by
  intro w rm s
  have answers {i : Instr} {c : Byte} (step : exec i s = .next (shiftRm op w rm c s)) := And.intro
    (agrees w (effectiveCount s c) (readRm w rm s).1 s.flags (readRm w rm s).2.fresh)
    (step.trans (congrArg Host.Outcome.next (shiftRm_eq op w rm c s)))
  have one := answers (runs.byCount .one w rm s)
  rw [shiftCount, effectiveCount_one] at one
  refine ⟨⟨_, _, one⟩, ⟨_, _, answers (runs.byCount .cl w rm s)⟩, fun c is186 => ?_⟩
  have masked : effectiveCount s c = c.toNat % 32 := if_pos is186
  rw [← masked]
  exact ⟨_, _, answers ((runs.byImm w rm c s).trans (only186_of_true is186 _))⟩

/-! ## Flags, R147 -/

theorem Flags.scrambled_cf {m : FlagSet} (defined : m.cf = false) (f : Flags) (v : BitVec 6) : (f.scrambled m v).cf = f.cf :=
  if_neg (Bool.eq_false_iff.1 defined)

theorem Flags.scrambled_of {m : FlagSet} (defined : m.of = false) (f : Flags) (v : BitVec 6) : (f.scrambled m v).of = f.of :=
  if_neg (Bool.eq_false_iff.1 defined)

/-- CF is defined after every count. -/
theorem ShiftOp.undefinedFlags_cf (op : ShiftOp) (count : Nat) : (op.undefinedFlags count).cf = false := by
  rw [ShiftOp.undefinedFlags]
  split
  · split <;> rfl
  · rfl

/-- OF is defined after a count of 1, and SAR defines it after every count from 1. -/
theorem ShiftOp.undefinedFlags_of {op : ShiftOp} {count : Nat} (h : count = 1 ∨ op = .sar ∧ count ≠ 0) :
    (op.undefinedFlags count).of = false := by
  obtain rfl | ⟨rfl, nonzero⟩ := h
  · cases op <;> rfl
  · rw [ShiftOp.undefinedFlags, if_pos (by rfl), if_neg nonzero]
    exact Bool.and_false _

section
variable {n count : Nat} {op : ShiftOp} (f : Flags) (p : BitVec n × Bool) (k : Nat)

theorem ShiftOp.flagsSet_cf : (op.flagsSet f p).cf = p.2 := by cases op <;> rfl
theorem ShiftOp.flagsSet_of : (op.flagsSet f p).of = op.overflow p.1 p.2 := by cases op <;> rfl
theorem ShiftOp.flagsSet_control : f.controlKept (op.flagsSet f p) := by cases op <;> exact ⟨rfl, rfl, rfl⟩

theorem ShiftOp.flagsAfter_control : f.controlKept (op.flagsAfter count f p k) := ShiftOp.flagsSet_control f p

theorem ShiftOp.flagsAfter_cf : (op.flagsAfter count f p k).cf = p.2 :=
  (Flags.scrambled_cf (op.undefinedFlags_cf count) _ _).trans (ShiftOp.flagsSet_cf f p)

theorem ShiftOp.flagsAfter_of (h : count = 1 ∨ op = .sar ∧ count ≠ 0) : (op.flagsAfter count f p k).of = op.overflow p.1 p.2 :=
  (Flags.scrambled_of (ShiftOp.undefinedFlags_of h) _ _).trans (ShiftOp.flagsSet_of f p)

/-- After a shift by at least 1, SF, ZF and PF report the result. -/
theorem ShiftOp.flagsAfter_reportsResult (shift : op.isShift = true) (nonzero : count ≠ 0) :
    ReportsResult (op.flagsAfter count f p k) p.1 := by
  rw [ShiftOp.flagsAfter, ShiftOp.flagsSet, ShiftOp.undefinedFlags, if_pos shift, if_pos shift, if_neg nonzero]
  exact reportsResult_of_setSZP rfl rfl rfl

/-- A rotate changes CF and OF alone, and defines OF after a count of 1. -/
theorem ShiftOp.flagsAfter_rotate (rotate : op.isShift = false) :
    let g := op.flagsAfter count f p k
    (f.controlKept g ∧ g.sf = f.sf ∧ g.zf = f.zf ∧ g.pf = f.pf ∧ g.af = f.af) ∧ (count = 1 → g.of = op.overflow p.1 g.cf) := by
  refine ⟨⟨ShiftOp.flagsAfter_control f p k, ?_⟩, fun one => ?_⟩
  · rw [ShiftOp.flagsAfter, ShiftOp.flagsSet, ShiftOp.undefinedFlags, if_neg (Bool.eq_false_iff.1 rotate),
      if_neg (Bool.eq_false_iff.1 rotate)]
    exact ⟨rfl, rfl, rfl, rfl⟩
  · rw [ShiftOp.flagsAfter_cf]
    exact ShiftOp.flagsAfter_of f p k (.inl one)

end

end Sys2Proof.Machine

/-! SUPPORT. Shifting or rotating step by step is shifting or rotating by the whole count (42_bit_manipulation.md R148 to R154). -/

namespace Sys2Proof.Machine

variable {n : Nat}

/-! ## One step -/

theorem getMsbD_shiftLeftIn (x : BitVec n) (b : Bool) {i : Nat} (inside : i < n) :
    (shiftLeftIn x b).getMsbD i = if i + 1 = n then b else x.getMsbD (i + 1) := by
  have low : (BitVec.ofNat n b.toNat).getMsbD i = (decide (i + 1 = n) && b) := by
    have last : n - 1 - i = 0 ↔ i + 1 = n := by omega
    rw [BitVec.getMsbD_eq_getLsbD, BitVec.getLsbD_ofNat, Nat.testBit_bool_toNat, decide_eq_decide.2 last, decide_eq_true inside,
      decide_eq_true (by omega : n - 1 - i < n), Bool.true_and, Bool.true_and]
  rw [shiftLeftIn, BitVec.getMsbD_or, BitVec.getMsbD_shiftLeft, low]
  split
  next last => simp [last]
  next notLast => simp [notLast]

theorem getLsbD_shiftRightIn (x : BitVec n) (b : Bool) {i : Nat} (inside : i < n) :
    (shiftRightIn x b).getLsbD i = if i + 1 = n then b else x.getLsbD (i + 1) := by
  have high : (if b then BitVec.ofNat n (2 ^ (n - 1)) else 0).getLsbD i = (decide (i + 1 = n) && b) := by
    have last : n - 1 = i ↔ i + 1 = n := by omega
    cases b
    · simp
    · rw [if_pos rfl, BitVec.getLsbD_ofNat, Nat.testBit_two_pow, decide_eq_decide.2 last, decide_eq_true inside, Bool.true_and,
        Bool.and_true]
  rw [shiftRightIn, BitVec.getLsbD_or, BitVec.getLsbD_ushiftRight, high, Nat.add_comm]
  split
  next last => simp [last]
  next notLast => simp [notLast]

/-- The bit that a step to the left moves in. -/
theorem getLsbD_zero_shiftLeftIn (pos : 0 < n) (x : BitVec n) (b : Bool) : (shiftLeftIn x b).getLsbD 0 = b := by
  rw [BitVec.getLsbD_eq_getMsbD, decide_eq_true pos, getMsbD_shiftLeftIn x b (by omega), if_pos (by omega), Bool.true_and]

/-- The bit that a step to the right moves in. -/
theorem msb_shiftRightIn (pos : 0 < n) (x : BitVec n) (b : Bool) : (shiftRightIn x b).msb = b := by
  rw [BitVec.msb_eq_getLsbD_last, getLsbD_shiftRightIn x b (by omega), if_pos (by omega)]

theorem shiftLeftIn_false (x : BitVec n) : shiftLeftIn x false = x <<< 1 := BitVec.or_zero
theorem shiftRightIn_false (x : BitVec n) : shiftRightIn x false = x >>> 1 := BitVec.or_zero

theorem shiftRightIn_eq_sshiftRight (x : BitVec n) : shiftRightIn x x.msb = x.sshiftRight 1 := by
  refine BitVec.eq_of_getLsbD_eq fun i inside => ?_
  rw [getLsbD_shiftRightIn x _ inside, BitVec.getLsbD_sshiftRight]
  split
  next last => simp [inside, show ¬1 + i < n by omega]
  next notLast => simp [inside, show 1 + i < n by omega, Nat.add_comm i 1]

/-! ## Rotations -/

theorem getLsbD_rotateRight_mod (x : BitVec n) (r : Nat) {i : Nat} (inside : i < n) :
    (x.rotateRight r).getLsbD i = x.getLsbD ((r + i) % n) := by
  have small : r % n < n := Nat.mod_lt r (Nat.zero_lt_of_lt inside)
  rw [BitVec.getLsbD_rotateRight, ← Nat.mod_add_mod r, decide_eq_true inside, Bool.true_and]
  generalize r % n = k at small
  by_cases below : i < n - k
  · rw [decide_eq_true below, Nat.mod_eq_of_lt (by omega)]
    rfl
  · rw [decide_eq_false below, Nat.mod_eq_sub_mod (by omega), Nat.mod_eq_of_lt (by omega)]
    exact congrArg x.getLsbD (by omega)

theorem rotateLeft_zero (x : BitVec n) : x.rotateLeft 0 = x := by
  refine BitVec.eq_of_getMsbD_eq fun i inside => ?_
  rw [BitVec.getMsbD_rotateLeft, decide_eq_true inside, Bool.true_and, Nat.zero_add, Nat.mod_eq_of_lt inside]

theorem rotateRight_zero (x : BitVec n) : x.rotateRight 0 = x := by
  refine BitVec.eq_of_getLsbD_eq fun i inside => ?_
  rw [getLsbD_rotateRight_mod x 0 inside, Nat.zero_add, Nat.mod_eq_of_lt inside]

theorem rotateLeft_rotateLeft (x : BitVec n) (j k : Nat) : (x.rotateLeft j).rotateLeft k = x.rotateLeft (j + k) := by
  refine BitVec.eq_of_getMsbD_eq fun i inside => ?_
  simp only [BitVec.getMsbD_rotateLeft, inside, Nat.mod_lt _ (Nat.zero_lt_of_lt inside), decide_true, Bool.true_and, Nat.add_mod_mod,
    Nat.add_assoc]

theorem rotateRight_rotateRight (x : BitVec n) (j k : Nat) : (x.rotateRight j).rotateRight k = x.rotateRight (j + k) := by
  refine BitVec.eq_of_getLsbD_eq fun i inside => ?_
  rw [getLsbD_rotateRight_mod _ _ inside, getLsbD_rotateRight_mod _ _ (Nat.mod_lt _ (Nat.zero_lt_of_lt inside)),
    getLsbD_rotateRight_mod _ _ inside, Nat.add_mod_mod, Nat.add_assoc]

theorem shiftLeftIn_rotates (x : BitVec n) : shiftLeftIn x x.msb = x.rotateLeft 1 := by
  refine BitVec.eq_of_getMsbD_eq fun i inside => ?_
  rw [getMsbD_shiftLeftIn x _ inside, BitVec.getMsbD_rotateLeft, decide_eq_true inside, Bool.true_and, Nat.add_comm 1]
  split
  next last => rw [last, Nat.mod_self, BitVec.msb_eq_getMsbD_zero]
  next => rw [Nat.mod_eq_of_lt (by omega)]

theorem shiftRightIn_rotates (x : BitVec n) : shiftRightIn x (x.getLsbD 0) = x.rotateRight 1 := by
  refine BitVec.eq_of_getLsbD_eq fun i inside => ?_
  rw [getLsbD_shiftRightIn x _ inside, getLsbD_rotateRight_mod x _ inside, Nat.add_comm 1]
  split
  next last => rw [last, Nat.mod_self]
  next => rw [Nat.mod_eq_of_lt (by omega)]

/-- A step to the left through a bit above the number. -/
theorem cons_shiftLeftIn (pos : 0 < n) (x : BitVec n) (b : Bool) :
    BitVec.cons x.msb (shiftLeftIn x b) = (BitVec.cons b x).rotateLeft 1 := by
  refine BitVec.eq_of_getMsbD_eq fun i inside => ?_
  rw [BitVec.getMsbD_rotateLeft, decide_eq_true inside, Bool.true_and, Nat.add_comm 1]
  cases i with
  | zero => rw [BitVec.getMsbD_cons_zero, Nat.mod_eq_of_lt (by omega), BitVec.getMsbD_cons_succ, BitVec.msb_eq_getMsbD_zero]
  | succ i =>
    rw [BitVec.getMsbD_cons_succ, getMsbD_shiftLeftIn x b (by omega)]
    split
    next last => rw [last, Nat.mod_self, BitVec.getMsbD_cons_zero]
    next => rw [Nat.mod_eq_of_lt (by omega), BitVec.getMsbD_cons_succ]

/-- A step to the right through a bit above the number. -/
theorem cons_shiftRightIn (pos : 0 < n) (x : BitVec n) (b : Bool) :
    BitVec.cons (x.getLsbD 0) (shiftRightIn x b) = (BitVec.cons b x).rotateRight 1 := by
  refine BitVec.eq_of_getLsbD_eq fun i inside => ?_
  rw [getLsbD_rotateRight_mod _ _ inside, Nat.add_comm 1, BitVec.getLsbD_cons]
  split
  next top => rw [top, Nat.mod_self, BitVec.getLsbD_cons, if_neg (by omega)]
  next => rw [getLsbD_shiftRightIn x b (by omega), Nat.mod_eq_of_lt (by omega), BitVec.getLsbD_cons]

/-! ## Any count -/

theorem ShiftOp.repeated_induct {op : ShiftOp} {P : Nat → BitVec n → Bool → Prop} {x : BitVec n} {c : Bool} (zero : P 0 x c)
    (succ : ∀ k y d, P k y d → P (k + 1) (op.once y d).1 (op.once y d).2) (count : Nat) :
    P count (op.repeated count x c).1 (op.repeated count x c).2 := by
  induction count generalizing P x c with
  | zero => exact zero
  | succ count ih => exact ih (P := fun k => P (k + 1)) (succ 0 x c zero) fun k => succ (k + 1)

/-- Result and carry in closed form: what holds after no step, and each step keeps. -/
theorem ShiftOp.repeated_eq {op : ShiftOp} {x : BitVec n} {c : Bool} {closed : Nat → BitVec n × Bool} (zero : (x, c) = closed 0)
    (succ : ∀ k, op.once (closed k).1 (closed k).2 = closed (k + 1)) (count : Nat) : op.repeated count x c = closed count := by
  refine ShiftOp.repeated_induct (P := fun k y d => (y, d) = closed k) zero (fun k y d eq => ?_) count
  rw [← succ, ← eq]

section
variable (count : Nat) (x : BitVec n) (c : Bool)

theorem repeated_shl :
    ShiftOp.shl.repeated count x c = (x <<< count, if count = 0 then c else decide (count ≤ n) && x.getLsbD (n - count)) := by
  refine ShiftOp.repeated_eq (op := .shl) (closed := fun k => (x <<< k, if k = 0 then c else decide (k ≤ n) && x.getLsbD (n - k)))
    (Prod.ext (BitVec.shiftLeft_zero x).symm rfl)
    (fun k => Prod.ext ((shiftLeftIn_false _).trans (BitVec.shiftLeft_add x k 1).symm) ?_) count
  change (x <<< k).msb = (decide (k < n) && x.getLsbD (n - (k + 1)))
  rw [BitVec.msb_shiftLeft, BitVec.getMsbD_eq_getLsbD, Nat.sub_sub, Nat.add_comm]

theorem repeated_shr : ShiftOp.shr.repeated count x c = (x >>> count, if count = 0 then c else x.getLsbD (count - 1)) :=
  ShiftOp.repeated_eq (op := .shr) (closed := fun k => (x >>> k, if k = 0 then c else x.getLsbD (k - 1)))
    (Prod.ext (BitVec.ushiftRight_zero x).symm rfl)
    (fun k => Prod.ext ((shiftRightIn_false _).trans (BitVec.shiftRight_add x k 1).symm) (BitVec.getLsbD_ushiftRight x k 0)) count

theorem repeated_sar :
    ShiftOp.sar.repeated count x c = (x.sshiftRight count, if count = 0 then c else (x.sshiftRight (count - 1)).getLsbD 0) :=
  ShiftOp.repeated_eq (op := .sar) (closed := fun k => (x.sshiftRight k, if k = 0 then c else (x.sshiftRight (k - 1)).getLsbD 0))
    (Prod.ext BitVec.sshiftRight_zero.symm rfl)
    (fun _ => Prod.ext ((shiftRightIn_eq_sshiftRight _).trans BitVec.sshiftRight_add.symm) rfl) count

theorem repeated_rol (pos : 0 < n) :
    ShiftOp.rol.repeated count x c = (x.rotateLeft count, if count = 0 then c else (x.rotateLeft count).getLsbD 0) := by
  refine ShiftOp.repeated_eq (op := .rol) (closed := fun k => (x.rotateLeft k, if k = 0 then c else (x.rotateLeft k).getLsbD 0))
    (Prod.ext (rotateLeft_zero x).symm rfl) (fun k => ?_) count
  have step := (shiftLeftIn_rotates _).trans (rotateLeft_rotateLeft x k 1)
  exact Prod.ext step ((getLsbD_zero_shiftLeftIn pos _ _).symm.trans (congrArg (BitVec.getLsbD · 0) step))

theorem repeated_ror (pos : 0 < n) :
    ShiftOp.ror.repeated count x c = (x.rotateRight count, if count = 0 then c else (x.rotateRight count).msb) := by
  refine ShiftOp.repeated_eq (op := .ror) (closed := fun k => (x.rotateRight k, if k = 0 then c else (x.rotateRight k).msb))
    (Prod.ext (rotateRight_zero x).symm rfl) (fun k => ?_) count
  have step := (shiftRightIn_rotates _).trans (rotateRight_rotateRight x k 1)
  exact Prod.ext step ((msb_shiftRightIn pos _ _).symm.trans (congrArg BitVec.msb step))

/-- RCL and RCR rotate the number with CF above it. -/
theorem repeated_rcl (pos : 0 < n) :
    let p := ShiftOp.rcl.repeated count x c
    BitVec.cons p.2 p.1 = (BitVec.cons c x).rotateLeft count := by
  refine ShiftOp.repeated_induct (P := fun k y d => BitVec.cons d y = (BitVec.cons c x).rotateLeft k) ?_ (fun k y d rotated => ?_) count
  · exact (rotateLeft_zero _).symm
  · rw [← rotateLeft_rotateLeft, ← rotated]
    exact cons_shiftLeftIn pos y d

theorem repeated_rcr (pos : 0 < n) :
    let p := ShiftOp.rcr.repeated count x c
    BitVec.cons p.2 p.1 = (BitVec.cons c x).rotateRight count := by
  refine ShiftOp.repeated_induct (P := fun k y d => BitVec.cons d y = (BitVec.cons c x).rotateRight k) ?_ (fun k y d rotated => ?_) count
  · exact (rotateRight_zero _).symm
  · rw [← rotateRight_rotateRight, ← rotated]
    exact cons_shiftRightIn pos y d

end

end Sys2Proof.Machine

/-! SUPPORT. The logical instructions, the shifts and the rotates (42_bit_manipulation.md R140, R142 to R155). -/

namespace Sys2Proof.Machine

/-! ## AND, OR, XOR, TEST -/

/-- A result that has the bits `bit` makes of two operands: CF and OF are cleared, SF, ZF and PF report it, AF is free (R140). -/
def LogicalResult (bit : Bool → Bool → Bool) {n : Nat} (a b : BitVec n) (old : Flags) (v : BitVec n) (f : Flags) : Prop :=
  (∀ k < n, v.getLsbD k = bit (a.getLsbD k) (b.getLsbD k)) ∧ ReportsResult f v ∧ f.cf = false ∧ f.of = false ∧ old.controlKept f

/-- The forms of a logical operation, by its bits. -/
theorem RunsBinOp.logicalForms {op : BinOp} {store : Bool} {rr : Dir → Width → Rm → Reg → Instr} {ri : Rm → Imm → Instr} {ai : Imm → Instr}
    {bit : Bool → Bool → Bool} (runs : RunsBinOp Imm.width Imm.value op (some logicUndefined) store rr ri ai)
    (bits : ∀ {n : Nat} (a b : BitVec n) (f : Flags) (k : Nat), (op n a b f).1.getLsbD k = bit (a.getLsbD k) (b.getLsbD k))
    (flags : ∀ {n : Nat} (a b : BitVec n) (f : Flags), (op n a b f).2 = f.logic (op n a b f).1) :
    TwoOperandForms Imm.width Imm.value (LogicalResult bit) store rr ri ai := by
  refine runs.twoOperandForms fun w a b f k => ⟨fun i _ => bits a b f i, ?_⟩
  rw [flags]
  exact ⟨reportsResult_of_setSZP rfl rfl rfl, rfl, rfl, rfl, rfl, rfl⟩

/-- TEST stores nothing, so the order of its operands does not matter. -/
theorem binRmReg_andOp_comm (undef : Option FlagSet) (w : Width) (rm : Rm) (r : Reg) (s : State) :
    binRmReg andOp undef false .toReg w rm r s = binRmReg andOp undef false .toRm w rm r s := by
  have comm (a b : BitVec w.bits) (f : Flags) : andOp w.bits a b f = andOp w.bits b a f := by rw [andOp, andOp, BitVec.and_comm]
  rw [binRmReg, binRmReg]
  dsimp only
  rw [comm]
  rfl

theorem Imm.data_opcode (imm : Imm) : (Imm.data imm).1 = opW 0x40 imm.width := by
  cases imm with
  | byte => exact (by decide : (0x80 : Byte) = opW 0x40 .byte)
  | word => exact (by decide : (0x81 : Byte) = opW 0x40 .word)

/-- The instructions of one logical operation have the opcodes of operation number `ooo`. -/
theorem twoOperandEncodings_of_encRI (ooo : BitVec 3) {rr : Dir → Width → Rm → Reg → Instr} {ri : Rm → Imm → Instr} {ai : Imm → Instr}
    (rmReg : ∀ d w rm r, encode (rr d w rm r) = encRR ((0 : BitVec 2) ++ ooo ++ (0 : BitVec 1)) d w rm r)
    (rmImm : ∀ rm i, encode (ri rm i) = encRI ooo rm i)
    (accImm : ∀ i, encode (ai i) = opW ((0 : BitVec 2) ++ ooo ++ (2 : BitVec 2)) i.width :: i.bytes) :
    TwoOperandEncodings ooo Imm.data rr ri ai := by
  refine ⟨rmReg, fun rm i => ?_, fun i => ?_⟩
  · rw [rmImm, Imm.data_opcode, Imm.data_bytes]
    rfl
  · rw [accImm, Imm.data_bytes]
    rfl

/-- Settles O21: each form runs `andOp`, `orOp` or `xorOp`, and `RunsBinOp.logicalForms` says its flags. -/
theorem logicalResults : Obligations.LogicalResults := by
  refine ⟨?_, ?_, ?_, ?_, ?_, ?_, ?_, fun _ _ _ => rfl, fun rm i => ?_, fun i => ?_⟩
  · exact RunsBinOp.logicalForms (op := andOp) ⟨fun _ _ _ _ _ => rfl, fun _ _ _ => rfl, fun _ _ => rfl⟩
      (fun _ _ _ _ => BitVec.getLsbD_and) fun _ _ _ => rfl
  · exact RunsBinOp.logicalForms (op := orOp) ⟨fun _ _ _ _ _ => rfl, fun _ _ _ => rfl, fun _ _ => rfl⟩
      (fun _ _ _ _ => BitVec.getLsbD_or) fun _ _ _ => rfl
  · exact RunsBinOp.logicalForms (op := xorOp) ⟨fun _ _ _ _ _ => rfl, fun _ _ _ => rfl, fun _ _ => rfl⟩
      (fun _ _ _ _ => BitVec.getLsbD_xor) fun _ _ _ => rfl
  · refine RunsBinOp.logicalForms (op := andOp) ⟨fun dir w rm r s => ?_, fun _ _ _ => rfl, fun _ _ => rfl⟩
      (fun _ _ _ _ => BitVec.getLsbD_and) fun _ _ _ => rfl
    cases dir with
    | toRm => exact congrArg Host.Outcome.next (binRmReg_andOp_comm _ w rm r s)
    | toReg => rfl
  · exact twoOperandEncodings_of_encRI 4 (fun _ _ _ _ => rfl) (fun _ _ => rfl) fun _ => rfl
  · exact twoOperandEncodings_of_encRI 1 (fun _ _ _ _ => rfl) (fun _ _ => rfl) fun _ => rfl
  · exact twoOperandEncodings_of_encRI 6 (fun _ _ _ _ => rfl) (fun _ _ => rfl) fun _ => rfl
  · rw [Imm.data_bytes]
    rfl
  · rw [Imm.data_bytes]
    rfl

/-! ## SHL, SHR, SAR -/

/-- What every shift says of its result `v`, of CF after the last bit `out` is shifted out, and of SF, ZF and PF (R147). -/
theorem flagsAfter_shift {n count : Nat} {op : ShiftOp} (shift : op.isShift = true) {old : Flags} (v : BitVec n) (out : Bool) (k : Nat) :
    let f := op.flagsAfter count old (v, if count = 0 then old.cf else out) k
    old.controlKept f ∧ (count = 0 → f.cf = old.cf) ∧ (count ≠ 0 → f.cf = out ∧ ReportsResult f v) := by
  refine ⟨ShiftOp.flagsAfter_control _ _ k, fun zero => ?_, fun nonzero => ⟨?_, ShiftOp.flagsAfter_reportsResult _ _ k shift nonzero⟩⟩
  · exact (ShiftOp.flagsAfter_cf _ _ k).trans (if_pos zero)
  · exact (ShiftOp.flagsAfter_cf _ _ k).trans (if_neg nonzero)

/-- The sign of a number is what a shift to the left by 1 shifts out, and the bit below the sign after a shift to the right by 1. -/
theorem msb_of_shift_one {n : Nat} (wide : 1 < n) (a : BitVec n) :
    (decide (1 ≤ n) && a.getLsbD (n - 1)) = a.msb ∧ (a >>> 1).getLsbD (n - 2) = a.msb := by
  rw [BitVec.getLsbD_ushiftRight, (by omega : 1 + (n - 2) = n - 1), BitVec.msb_eq_getLsbD_last, decide_eq_true (by omega : 1 ≤ n)]
  exact ⟨rfl, rfl⟩

/-- Settles O22: the closed forms `repeated_shl`, `repeated_shr` and `repeated_sar`, and the flags by `flagsAfter_shift`. -/
theorem shiftResults : Obligations.ShiftResults := by
  refine ⟨?_, ?_, ?_, ⟨fun _ _ _ => rfl, fun _ _ _ => rfl⟩, ⟨fun _ _ _ => rfl, fun _ _ _ => rfl⟩, ⟨fun _ _ _ => rfl, fun _ _ _ => rfl⟩⟩
  · refine RunsShift.shiftForms (op := .shl) ⟨fun _ _ _ _ => rfl, fun _ _ _ _ => rfl⟩ fun w count a f k => ?_
    rw [repeated_shl]
    obtain ⟨control, zero, counted⟩ := flagsAfter_shift (op := .shl) rfl (a <<< count) _ k
    refine ⟨rfl, control, zero, counted, ?_⟩
    rintro rfl
    exact (ShiftOp.flagsAfter_of _ _ k (.inl rfl)).trans (congrArg ((a <<< 1).msb != ·) (msb_of_shift_one (one_lt_bits w) a).1)
  · refine RunsShift.shiftForms (op := .shr) ⟨fun _ _ _ _ => rfl, fun _ _ _ _ => rfl⟩ fun w count a f k => ?_
    rw [repeated_shr]
    obtain ⟨control, zero, counted⟩ := flagsAfter_shift (op := .shr) rfl (a >>> count) _ k
    refine ⟨rfl, control, zero, counted, ?_⟩
    rintro rfl
    exact (ShiftOp.flagsAfter_of _ _ k (.inl rfl)).trans (congrArg ((a >>> 1).msb != ·) (msb_of_shift_one (one_lt_bits w) a).2)
  · refine RunsShift.shiftForms (op := .sar) ⟨fun _ _ _ _ => rfl, fun _ _ _ _ => rfl⟩ fun w count a f k => ?_
    rw [repeated_sar]
    obtain ⟨control, zero, counted⟩ := flagsAfter_shift (op := .sar) rfl (a.sshiftRight count) _ k
    exact ⟨rfl, control, zero, counted, fun nonzero => ShiftOp.flagsAfter_of _ _ k (.inr ⟨rfl, nonzero⟩)⟩

/-! ## ROL, ROR, RCL, RCR -/

/-- Settles O23: the closed forms `repeated_rol`, `repeated_ror`, `repeated_rcl` and `repeated_rcr`; the other flags by
`ShiftOp.flagsAfter_rotate`. -/
theorem rotateResults : Obligations.RotateResults := by
  refine ⟨?_, ?_, ?_, ?_, ⟨fun _ _ _ => rfl, fun _ _ _ => rfl⟩, ⟨fun _ _ _ => rfl, fun _ _ _ => rfl⟩,
    ⟨fun _ _ _ => rfl, fun _ _ _ => rfl⟩, ⟨fun _ _ _ => rfl, fun _ _ _ => rfl⟩⟩
  · refine RunsShift.shiftForms (op := .rol) ⟨fun _ _ _ _ => rfl, fun _ _ _ _ => rfl⟩ fun w count a f k => ?_
    rw [repeated_rol count a f.cf (bits_pos w)]
    obtain ⟨kept, overflow⟩ := ShiftOp.flagsAfter_rotate (op := .rol) f _ k rfl
    exact ⟨rfl, kept, overflow, ShiftOp.flagsAfter_cf f _ k⟩
  · refine RunsShift.shiftForms (op := .ror) ⟨fun _ _ _ _ => rfl, fun _ _ _ _ => rfl⟩ fun w count a f k => ?_
    rw [repeated_ror count a f.cf (bits_pos w)]
    obtain ⟨kept, overflow⟩ := ShiftOp.flagsAfter_rotate (op := .ror) f _ k rfl
    exact ⟨rfl, kept, overflow, ShiftOp.flagsAfter_cf f _ k⟩
  · refine RunsShift.shiftForms (op := .rcl) ⟨fun _ _ _ _ => rfl, fun _ _ _ _ => rfl⟩ fun w count a f k => ?_
    refine ⟨?_, ShiftOp.flagsAfter_rotate f _ k rfl⟩
    rw [ShiftOp.flagsAfter_cf]
    exact repeated_rcl count a f.cf (bits_pos w)
  · refine RunsShift.shiftForms (op := .rcr) ⟨fun _ _ _ _ => rfl, fun _ _ _ _ => rfl⟩ fun w count a f k => ?_
    refine ⟨?_, ShiftOp.flagsAfter_rotate f _ k rfl⟩
    rw [ShiftOp.flagsAfter_cf]
    exact repeated_rcr count a f.cf (bits_pos w)

end Sys2Proof.Machine

/-! SUPPORT. No bus access of the CPU looks at the repeat latch (20_memory.md R31, R47; 43_string.md R162): it does the same to a machine
with another value there. -/

namespace Sys2Proof.Machine

/-- The machine with another value in the repeat latch. -/
def State.withRep (r : Option Bool) (s : State) : State :=
  { s with ctl := { s.ctl with latches := { s.ctl.latches with rep := r } } }

theorem withRep_withRep (q r : Option Bool) (s : State) : (s.withRep q).withRep r = s.withRep r := rfl

theorem withRep_self {s : State} {r : Option Bool} (h : s.ctl.latches.rep = r) : s.withRep r = s := by
  subst h
  rfl

section
variable (r : Option Bool) (s : State)

@[simp] theorem withRep_cfg : (s.withRep r).cfg = s.cfg := rfl
@[simp] theorem withRep_regs : (s.withRep r).regs = s.regs := rfl
@[simp] theorem withRep_segs : (s.withRep r).segs = s.segs := rfl
@[simp] theorem withRep_flags : (s.withRep r).flags = s.flags := rfl
@[simp] theorem withRep_mem : (s.withRep r).mem = s.mem := rfl
@[simp] theorem withRep_io : (s.withRep r).io = s.io := rfl
@[simp] theorem withRep_pcb : (s.withRep r).pcb = s.pcb := rfl
@[simp] theorem withRep_npx : (s.withRep r).npx = s.npx := rfl
@[simp] theorem withRep_turns : (s.withRep r).turns = s.turns := rfl
@[simp] theorem withRep_is186 : (s.withRep r).is186 = s.is186 := rfl
@[simp] theorem withRep_busFree : (s.withRep r).busFree = s.busFree := rfl
@[simp] theorem withRep_segFor (d : SReg) : (s.withRep r).segFor d = s.segFor d := rfl
@[simp] theorem withRep_get (q : Reg) : (s.withRep r).get q = s.get q := rfl

theorem ite_withRep (c : Prop) [Decidable c] (t u : State) :
    (if c then t else u).withRep r = if c then t.withRep r else u.withRep r := apply_ite _ c t u

/-! ## The control block -/

theorem dmaRead_withRep (c : DmaChan) (k : Nat) : dmaRead c k (s.withRep r) = ((dmaRead c k s).1, (dmaRead c k s).2.withRep r) := by
  unfold dmaRead
  split <;> rfl

theorem pollValue_withRep : pollValue (s.withRep r) = ((pollValue s).1, (pollValue s).2.withRep r) := by
  unfold pollValue
  dsimp only [withRep_pcb]
  split <;> rfl

theorem pollAck_withRep : pollAck (s.withRep r) = (pollAck s).withRep r := by
  unfold pollAck
  dsimp only [withRep_pcb]
  split <;> rfl

theorem icRead_withRep (off : Nat) : icRead off (s.withRep r) = ((icRead off s).1, (icRead off s).2.withRep r) := by
  unfold icRead
  dsimp only [withRep_pcb]
  split
  case h_6 => split <;> first | rfl | exact pollValue_withRep r s
  case h_7 =>
    rw [pollValue_withRep, pollAck_withRep]
    split
    · rfl
    · rw [pollAck_withRep]
  case h_9 =>
    split
    · split <;> rfl
    · rfl
  all_goals first | rfl | split <;> rfl

theorem touchChipSelect_withRep (off : Nat) : touchChipSelect off (s.withRep r) = (touchChipSelect off s).withRep r := by
  unfold touchChipSelect
  dsimp only [withRep_pcb]
  split <;> rfl

theorem pcbRead_withRep (off : Nat) : (s.withRep r).pcbRead off = ((s.pcbRead off).1, (s.pcbRead off).2.withRep r) := by
  unfold State.pcbRead
  dsimp only [withRep_pcb]
  split
  case h_18 =>
    rw [dmaRead_withRep, dmaRead_withRep, icRead_withRep]
    repeat' split
    all_goals rfl
  all_goals rfl

theorem setIc_withRep (ic : Ic) : (s.withRep r).setIc ic = (s.setIc ic).withRep r := rfl

theorem writeTimerRequest_withRep (b : Bool) : writeTimerRequest b (s.withRep r) = (writeTimerRequest b s).withRep r := by
  unfold writeTimerRequest
  simp only [ite_withRep]
  rfl

theorem writeRequest_withRep (w : Word) : writeRequest w (s.withRep r) = (writeRequest w s).withRep r := by
  unfold writeRequest
  dsimp only
  rw [withRep_pcb, setIc_withRep, withRep_pcb, writeTimerRequest_withRep, ite_withRep]
  rfl

theorem icWrite_withRep (off : Nat) (w : Word) : icWrite off w (s.withRep r) = (icWrite off w s).withRep r := by
  unfold icWrite
  dsimp only [withRep_pcb]
  rw [writeRequest_withRep, pollAck_withRep]
  repeat' split
  all_goals rfl

theorem writeReloc_withRep (w : Word) : writeReloc w (s.withRep r) = (writeReloc w s).withRep r := by
  unfold writeReloc
  simp only [ite_withRep]
  rfl

theorem pcbWrite_withRep (off : Nat) (w : Word) : (s.withRep r).pcbWrite off w = (s.pcbWrite off w).withRep r := by
  unfold State.pcbWrite
  dsimp only [withRep_pcb]
  rw [writeReloc_withRep, icWrite_withRep]
  split
  case h_18 =>
    repeat' split
    all_goals rfl
  all_goals rfl

/-! ## Bus cycles -/

theorem touchCa_withRep (m : Bool) (a : Nat) : (s.withRep r).touchCa m a = (s.touchCa m a).withRep r := by
  unfold State.touchCa State.latchCa
  simp only [ite_withRep]
  rfl

theorem npxTouch_withRep (a : Phys) : (s.withRep r).npxTouch a = (s.npxTouch a).withRep r := by
  unfold State.npxTouch
  dsimp only [withRep_npx]
  split <;> rfl

theorem npxStoring_withRep (a : Phys) : (s.withRep r).npxStoring a = s.npxStoring a := rfl

theorem busRead8_withRep (a : Phys) : busRead8 a (s.withRep r) = ((busRead8 a s).1, (busRead8 a s).2.withRep r) := by
  unfold busRead8
  dsimp only [withRep_cfg, withRep_mem]
  rw [npxStoring_withRep]
  repeat' split
  all_goals rfl

theorem busWrite8_withRep (a : Phys) (v : Byte) : busWrite8 a v (s.withRep r) = (busWrite8 a v s).withRep r := by
  unfold busWrite8
  dsimp only [withRep_cfg, withRep_mem]
  rw [npxTouch_withRep]
  split <;> rfl

theorem portRead8_withRep (p : Word) : portRead8 p (s.withRep r) = ((portRead8 p s).1, (portRead8 p s).2.withRep r) := by
  unfold portRead8
  dsimp only [withRep_io]
  split <;> rfl

theorem busAccess_withRep (c : BusAccess) : busAccess c (s.withRep r) = (busAccess c s).withRep r := by
  cases c with
  | read a => exact congrArg Prod.snd (busRead8_withRep r s _)
  | write a v => exact busWrite8_withRep r s _ v
  | portRead p => exact congrArg Prod.snd (portRead8_withRep r s _)
  | portWrite p v => rfl

theorem busAccesses_withRep (l : List BusAccess) :
    l.foldl (fun u c => busAccess c u) (s.withRep r) = (l.foldl (fun u c => busAccess c u) s).withRep r := by
  induction l generalizing s with
  | nil => rfl
  | cons c rest ih => rw [List.foldl_cons, List.foldl_cons, busAccess_withRep, ih]

theorem yieldBus_withRep (joined : Bool) : (s.withRep r).yieldBus joined = (s.yieldBus joined).withRep r := by
  unfold State.yieldBus
  rw [withRep_turns]
  split
  · rfl
  · next t rest _ =>
    rw [withRep_busFree]
    split
    · rfl
    · exact busAccesses_withRep r { s with turns := rest } t.accesses

theorem yieldHalf_withRep (odd : Bool) : (s.withRep r).yieldHalf odd = (s.yieldHalf odd).withRep r := by
  unfold State.yieldHalf
  rw [withRep_cfg, yieldBus_withRep]
  split <;> rfl

theorem pcbMem_withRep (a : Phys) : (s.withRep r).pcbMem a = s.pcbMem a := rfl

theorem readCycle_withRep (a : Phys) : readCycle a (s.withRep r) = ((readCycle a s).1, (readCycle a s).2.withRep r) := by
  unfold readCycle
  rw [pcbMem_withRep, touchCa_withRep, busRead8_withRep]
  split <;> rfl

theorem writeCycle_withRep (a : Phys) (v : Byte) : writeCycle a v (s.withRep r) = (writeCycle a v s).withRep r := by
  unfold writeCycle
  rw [pcbMem_withRep, touchCa_withRep, busWrite8_withRep]
  split <;> rfl

theorem pcbMemWord_withRep (a a2 : Phys) : (s.withRep r).pcbMemWord a a2 = s.pcbMemWord a a2 := rfl

theorem readWord_withRep (a a2 : Phys) : readWord a a2 (s.withRep r) = ((readWord a a2 s).1, (readWord a a2 s).2.withRep r) := by
  unfold readWord
  simp only [pcbMemWord_withRep, pcbRead_withRep, readCycle_withRep, yieldHalf_withRep]
  split <;> rfl

theorem writeWord_withRep (a a2 : Phys) (v : Word) : writeWord a a2 v (s.withRep r) = (writeWord a a2 v s).withRep r := by
  unfold writeWord
  simp only [pcbMemWord_withRep, pcbWrite_withRep, writeCycle_withRep, yieldHalf_withRep]
  split <;> rfl

/-! ## Memory and ports -/

theorem readMem_withRep (w : Width) (seg off : Word) :
    readMem w seg off (s.withRep r) = ((readMem w seg off s).1, (readMem w seg off s).2.withRep r) := by
  cases w with
  | byte => rw [readMem, memRead8, yieldBus_withRep, readCycle_withRep]; rfl
  | word => rw [readMem, memRead16, yieldBus_withRep, readWord_withRep]; rfl

theorem writeMem_withRep (w : Width) (seg off : Word) (v : BitVec w.bits) :
    writeMem w seg off v (s.withRep r) = (writeMem w seg off v s).withRep r := by
  cases w with
  | byte => rw [writeMem, memWrite8, yieldBus_withRep, writeCycle_withRep]; rfl
  | word => rw [writeMem, memWrite16, yieldBus_withRep, writeWord_withRep]; rfl

theorem pcbIo_withRep (p : Word) : (s.withRep r).pcbIo p = s.pcbIo p := rfl

theorem inCycle_withRep (p : Word) : inCycle p (s.withRep r) = ((inCycle p s).1, (inCycle p s).2.withRep r) := by
  unfold inCycle
  rw [pcbIo_withRep, portRead8_withRep]
  split <;> rfl

theorem outCycle_withRep (p : Word) (v : Byte) : outCycle p v (s.withRep r) = (outCycle p v s).withRep r := by
  have cycle : (portWrite8 p v (s.withRep r)).touchCa false p.toNat = ((portWrite8 p v s).touchCa false p.toNat).withRep r :=
    touchCa_withRep r (portWrite8 p v s) false p.toNat
  unfold outCycle
  rw [pcbIo_withRep, cycle]
  split <;> rfl

theorem ioRead_withRep (w : Width) (p : Word) : ioRead w p (s.withRep r) = ((ioRead w p s).1, (ioRead w p s).2.withRep r) := by
  cases w with
  | byte => rw [ioRead, ioRead8, yieldBus_withRep, inCycle_withRep]; rfl
  | word =>
    rw [ioRead, ioRead16, ioRead, ioRead16, yieldBus_withRep]
    unfold inWord
    simp only [pcbIo_withRep, pcbRead_withRep, inCycle_withRep, yieldHalf_withRep]
    split <;> rfl

theorem ioWrite_withRep (w : Width) (p : Word) (v : BitVec w.bits) : ioWrite w p v (s.withRep r) = (ioWrite w p v s).withRep r := by
  cases w with
  | byte => rw [ioWrite, ioWrite8, yieldBus_withRep, outCycle_withRep]; rfl
  | word =>
    rw [ioWrite, ioWrite16, ioWrite, ioWrite16, yieldBus_withRep]
    unfold outWord
    simp only [pcbIo_withRep, pcbWrite_withRep, outCycle_withRep, yieldHalf_withRep]
    split <;> rfl

end

end Sys2Proof.Machine

/-! SUPPORT. The string instructions (43_string.md R160 to R170): each primitive in closed form, and one pass under REP (R162). -/

namespace Sys2Proof.Machine

/-! ## What the accesses of an element keep -/

/-- Registers, flags and hidden control state are kept: all that a string primitive reads after an access. -/
structure CpuKept (s t : State) : Prop where
  regs  : t.regs = s.regs
  segs  : t.segs = s.segs
  flags : t.flags = s.flags
  ctl   : t.ctl = s.ctl

theorem CpuKept.refl (s : State) : CpuKept s s := ⟨rfl, rfl, rfl, rfl⟩

section
variable {s t : State} (h : CpuKept s t) (w : Width)
include h

theorem CpuKept.read (seg off : Word) : CpuKept s (readMem w seg off t).2 :=
  have k := (readMem_keeps w seg off t).1
  ⟨k.regs.trans h.regs, k.segs.trans h.segs, k.flags.trans h.flags, k.ctl.trans h.ctl⟩

theorem CpuKept.write (seg off : Word) (v : BitVec w.bits) : CpuKept s (writeMem w seg off v t) :=
  have k := (writeMem_keeps w seg off v t).1
  ⟨k.regs.trans h.regs, k.segs.trans h.segs, k.flags.trans h.flags, k.ctl.trans h.ctl⟩

theorem CpuKept.input (p : Word) : CpuKept s (ioRead w p t).2 :=
  have k := ioRead_keeps w p t
  ⟨k.regs.trans h.regs, k.segs.trans h.segs, k.flags.trans h.flags, k.ctl.trans h.ctl⟩

theorem CpuKept.output (p : Word) (v : BitVec w.bits) : CpuKept s (ioWrite w p v t) :=
  have k := ioWrite_keeps w p v t
  ⟨k.regs.trans h.regs, k.segs.trans h.segs, k.flags.trans h.flags, k.ctl.trans h.ctl⟩

theorem CpuKept.df : t.flags.df = s.flags.df := congrArg Flags.df h.flags

theorem CpuKept.writeDest_eq (v : BitVec w.bits) : writeDest w v t = writeMem w s.segs.es (s.get .di) v t := by
  rw [writeDest, h.segs, State.get, State.get, h.regs]

theorem CpuKept.readDest_eq : readDest w t = readMem w s.segs.es (s.get .di) t := by
  rw [readDest, h.segs, State.get, State.get, h.regs]

end

/-! ## The pointers, R161 -/

/-- By how much a pointer moves: the element size, down when DF = 1. -/
def pointerStep (w : Width) (df : Bool) : Int := if df then -(w.bytes : Int) else w.bytes

/-- SI, DI or both as they stand after an element, the other registers as in `g`. -/
def movedPointers (w : Width) (s : State) (g : Regs) (si di : Bool) : Regs :=
  { g with si := if si then BitVec.ofInt 16 (s.regs.si.toNat + pointerStep w s.flags.df) else g.si
           di := if di then BitVec.ofInt 16 (s.regs.di.toNat + pointerStep w s.flags.df) else g.di }

theorem advance_eq (w : Width) (s : State) (v : Word) : advance w s v = BitVec.ofInt 16 (v.toNat + pointerStep w s.flags.df) := by
  rw [BitVec.ofInt_add, ofInt_toNat, advance, pointerStep]
  split
  · rw [BitVec.ofInt_neg, BitVec.ofInt_natCast, BitVec.sub_eq_add_neg]
  · rw [BitVec.ofInt_natCast]

section
variable {s t : State} (w : Width)

theorem advanceSi_eq (si : t.regs.si = s.regs.si) (df : t.flags.df = s.flags.df) :
    advanceSi w t = { t with regs := movedPointers w s t.regs true false } := by
  have moved : advance w t t.regs.si = BitVec.ofInt 16 (s.regs.si.toNat + pointerStep w s.flags.df) := by
    rw [advance_eq, df, si]
  exact congrArg (t.set .si) moved

theorem advanceDi_eq (di : t.regs.di = s.regs.di) (df : t.flags.df = s.flags.df) :
    advanceDi w t = { t with regs := movedPointers w s t.regs false true } := by
  have moved : advance w t t.regs.di = BitVec.ofInt 16 (s.regs.di.toNat + pointerStep w s.flags.df) := by
    rw [advance_eq, df, di]
  exact congrArg (t.set .di) moved

theorem advanceSi_of_regs (regs : t.regs = s.regs) (df : t.flags.df = s.flags.df) :
    advanceSi w t = { t with regs := movedPointers w s s.regs true false } := by
  rw [advanceSi_eq w (congrArg Regs.si regs) df, regs]

theorem advanceDi_of_regs (regs : t.regs = s.regs) (df : t.flags.df = s.flags.df) :
    advanceDi w t = { t with regs := movedPointers w s s.regs false true } := by
  rw [advanceDi_eq w (congrArg Regs.di regs) df, regs]

theorem advanceBoth_of_regs (regs : t.regs = s.regs) (df : t.flags.df = s.flags.df) :
    advanceDi w (advanceSi w t) = { t with regs := movedPointers w s s.regs true true } := by
  rw [advanceSi_of_regs w regs df]
  exact advanceDi_eq w rfl df

end

/-! ## The primitives, R164 to R170 -/

section
variable (w : Width) (s : State)

theorem readSource_kept : CpuKept s (readSource w s).2 := (CpuKept.refl s).read w _ _

theorem readDest_kept : CpuKept s (readDest w s).2 := (CpuKept.refl s).read w _ _

theorem movsOnce_eq : movsOnce w s =
    { writeMem w s.segs.es (s.get .di) (readSource w s).1 (readSource w s).2 with regs := movedPointers w s s.regs true true } := by
  have source := readSource_kept w s
  have stored := source.write w s.segs.es (s.get .di) (readSource w s).1
  dsimp only [movsOnce]
  rw [source.writeDest_eq, advanceBoth_of_regs w stored.regs stored.df]

theorem cmpsOnce_eq : cmpsOnce w s =
    let dest := readMem w s.segs.es (s.get .di) (readSource w s).2
    { dest.2 with flags := s.flags.subtraction (readSource w s).1 dest.1 false, regs := movedPointers w s s.regs true true } := by
  have source := readSource_kept w s
  have dest := source.read w s.segs.es (s.get .di)
  dsimp only [cmpsOnce]
  rw [source.readDest_eq, dest.flags]
  exact advanceBoth_of_regs w dest.regs rfl

theorem scasOnce_eq : scasOnce w s =
    { (readDest w s).2 with
      flags := s.flags.subtraction (s.acc w) (readDest w s).1 false, regs := movedPointers w s s.regs false true } := by
  have dest := readDest_kept w s
  have acc : (readDest w s).2.acc w = s.acc w := getReg_of_regs dest.regs w .ax
  dsimp only [scasOnce]
  rw [acc, dest.flags]
  exact advanceDi_of_regs w dest.regs rfl

theorem setAcc_si (v : BitVec w.bits) : (s.setAcc w v).regs.si = s.regs.si := by cases w <;> rfl

theorem setAcc_cx (v : BitVec w.bits) : (s.setAcc w v).regs.cx = s.regs.cx := by cases w <;> rfl

theorem lodsOnce_eq : lodsOnce w s =
    { (readSource w s).2 with regs := movedPointers w s (s.setAcc w (readSource w s).1).regs true false } := by
  have source := readSource_kept w s
  have loaded : ((readSource w s).2.setAcc w (readSource w s).1).regs = (s.setAcc w (readSource w s).1).regs :=
    setReg_regs_eq w .ax _ source.regs
  dsimp only [lodsOnce]
  rw [setAcc_frame, loaded]
  exact advanceSi_eq w (setAcc_si w s _) source.df

theorem stosOnce_eq : stosOnce w s =
    { writeMem w s.segs.es (s.get .di) (s.acc w) s with regs := movedPointers w s s.regs false true } := by
  have stored := (CpuKept.refl s).write w s.segs.es (s.get .di) (s.acc w)
  exact advanceDi_of_regs w stored.regs stored.df

theorem insOnce_eq : insOnce w s =
    let input := ioRead w (s.get .dx) s
    { writeMem w s.segs.es (s.get .di) input.1 input.2 with regs := movedPointers w s s.regs false true } := by
  have input := (CpuKept.refl s).input w (s.get .dx)
  have stored := input.write w s.segs.es (s.get .di) (ioRead w (s.get .dx) s).1
  dsimp only [insOnce]
  rw [input.writeDest_eq, advanceDi_of_regs w stored.regs stored.df]

theorem outsOnce_eq : outsOnce w s =
    { ioWrite w (s.get .dx) (readSource w s).1 (readSource w s).2 with regs := movedPointers w s s.regs true false } := by
  have source := readSource_kept w s
  have sent := source.output w (s.get .dx) (readSource w s).1
  have port : (readSource w s).2.get .dx = s.get .dx := congrArg Regs.dx source.regs
  dsimp only [outsOnce]
  rw [port, advanceSi_of_regs w sent.regs sent.df]

end

/-! ## One element without REP -/

theorem repeated_none {s : State} (rep : s.ctl.latches.rep = none) (compares : Bool) (f : State → State) : repeated compares f s = f s := by
  rw [repeated, rep]

theorem exec_movs (w : Width) (s : State) : exec (.movs w) s = .next (repeated false (movsOnce w) s) := rfl
theorem exec_cmps (w : Width) (s : State) : exec (.cmps w) s = .next (repeated true (cmpsOnce w) s) := rfl
theorem exec_scas (w : Width) (s : State) : exec (.scas w) s = .next (repeated true (scasOnce w) s) := rfl
theorem exec_lods (w : Width) (s : State) : exec (.lods w) s = .next (repeated false (lodsOnce w) s) := rfl
theorem exec_stos (w : Width) (s : State) : exec (.stos w) s = .next (repeated false (stosOnce w) s) := rfl
theorem exec_ins {s : State} (is186 : s.is186 = true) (w : Width) : exec (.ins w) s = .next (repeated false (insOnce w) s) :=
  only186_of_true is186 _
theorem exec_outs {s : State} (is186 : s.is186 = true) (w : Width) : exec (.outs w) s = .next (repeated false (outsOnce w) s) :=
  only186_of_true is186 _

/-- Settles O24: each primitive in its closed form; the flags of CMPS and SCAS are those of a subtraction. -/
theorem stringPrimitives : Obligations.StringPrimitives := by
  unfold Obligations.StringPrimitives
  refine ⟨?_, fun w s rep => ?_⟩
  · simp only [List.forall_mem_cons, List.not_mem_nil, IsEmpty.forall_iff, implies_true, and_true]
    exact ⟨fun _ => rfl, fun _ => rfl, fun _ => rfl, fun _ => rfl, fun _ => rfl, fun _ => rfl, fun _ => rfl⟩
  · have reports (a b : BitVec w.bits) := subtraction_reportsDifference (bits_pos w) s.flags a b false
    refine ⟨?_, ⟨_, reports _ _, ⟨rfl, rfl, rfl⟩, ?_⟩, ⟨_, reports _ _, ⟨rfl, rfl, rfl⟩, ?_⟩, ?_, ?_, fun is186 => ⟨?_, ?_⟩⟩
    · rw [exec_movs, repeated_none rep, movsOnce_eq]
      rfl
    · rw [exec_cmps, repeated_none rep, cmpsOnce_eq]
      rfl
    · rw [exec_scas, repeated_none rep, scasOnce_eq]
      rfl
    · rw [exec_lods, repeated_none rep, lodsOnce_eq]
      rfl
    · rw [exec_stos, repeated_none rep, stosOnce_eq]
      rfl
    · rw [exec_ins is186, repeated_none rep, insOnce_eq]
      rfl
    · rw [exec_outs is186, repeated_none rep, outsOnce_eq]
      rfl

/-! ## One pass under REP, R162 -/

/-- What R162 asks of a primitive: it does not look at the repeat latch, and keeps CX and the hidden control state. -/
structure StringPrimitive (f : State → State) : Prop where
  withRep : ∀ r s, f (s.withRep r) = (f s).withRep r
  cx      : ∀ s, (f s).get .cx = s.get .cx
  ctl     : ∀ s, (f s).ctl = s.ctl

section
variable (w : Width)

theorem readSource_withRep (r : Option Bool) (s : State) :
    readSource w (s.withRep r) = ((readSource w s).1, (readSource w s).2.withRep r) := readMem_withRep r s w _ _

theorem readDest_withRep (r : Option Bool) (s : State) :
    readDest w (s.withRep r) = ((readDest w s).1, (readDest w s).2.withRep r) := readMem_withRep r s w _ _

theorem writeDest_withRep (r : Option Bool) (s : State) (v : BitVec w.bits) :
    writeDest w v (s.withRep r) = (writeDest w v s).withRep r := writeMem_withRep r s w _ _ v

theorem advanceSi_withRep (r : Option Bool) (s : State) : advanceSi w (s.withRep r) = (advanceSi w s).withRep r := rfl

theorem advanceDi_withRep (r : Option Bool) (s : State) : advanceDi w (s.withRep r) = (advanceDi w s).withRep r := rfl

theorem setFlags_withRep (r : Option Bool) (s : State) (f : Flags) : (s.withRep r).setFlags f = (s.setFlags f).withRep r := rfl

theorem acc_withRep (r : Option Bool) (s : State) : (s.withRep r).acc w = s.acc w := by cases w <;> rfl

theorem setAcc_withRep (r : Option Bool) (s : State) (v : BitVec w.bits) :
    (s.withRep r).setAcc w v = (s.setAcc w v).withRep r := by cases w <;> rfl

theorem movsOnce_primitive : StringPrimitive (movsOnce w) where
  withRep r s := by
    simp only [movsOnce, readSource_withRep, writeDest_withRep, advanceSi_withRep, advanceDi_withRep]
  cx s := by
    rw [movsOnce_eq]
    rfl
  ctl s := by
    rw [movsOnce_eq]
    exact ((readSource_kept w s).write w _ _ _).ctl

theorem cmpsOnce_primitive : StringPrimitive (cmpsOnce w) where
  withRep r s := by
    simp only [cmpsOnce, readSource_withRep, readDest_withRep, withRep_flags, setFlags_withRep, advanceSi_withRep, advanceDi_withRep]
  cx s := by
    rw [cmpsOnce_eq]
    rfl
  ctl s := by
    rw [cmpsOnce_eq]
    exact ((readSource_kept w s).read w _ _).ctl

theorem scasOnce_primitive : StringPrimitive (scasOnce w) where
  withRep r s := by
    simp only [scasOnce, readDest_withRep, acc_withRep, withRep_flags, setFlags_withRep, advanceDi_withRep]
  cx s := by
    rw [scasOnce_eq]
    rfl
  ctl s := by
    rw [scasOnce_eq]
    exact (readDest_kept w s).ctl

theorem lodsOnce_primitive : StringPrimitive (lodsOnce w) where
  withRep r s := by
    simp only [lodsOnce, readSource_withRep, setAcc_withRep, advanceSi_withRep]
  cx s := by
    rw [lodsOnce_eq]
    exact setAcc_cx w s _
  ctl s := by
    rw [lodsOnce_eq]
    exact (readSource_kept w s).ctl

theorem stosOnce_primitive : StringPrimitive (stosOnce w) where
  withRep r s := by
    simp only [stosOnce, acc_withRep, writeDest_withRep, advanceDi_withRep]
  cx s := by
    rw [stosOnce_eq]
    rfl
  ctl s := by
    rw [stosOnce_eq]
    exact ((CpuKept.refl s).write w _ _ _).ctl

theorem insOnce_primitive : StringPrimitive (insOnce w) where
  withRep r s := by
    simp only [insOnce, withRep_get, ioRead_withRep, writeDest_withRep, advanceDi_withRep]
  cx s := by
    rw [insOnce_eq]
    rfl
  ctl s := by
    rw [insOnce_eq]
    exact (((CpuKept.refl s).input w _).write w _ _ _).ctl

theorem outsOnce_primitive : StringPrimitive (outsOnce w) where
  withRep r s := by
    simp only [outsOnce, readSource_withRep, withRep_get, ioWrite_withRep, advanceSi_withRep]
  cx s := by
    rw [outsOnce_eq]
    rfl
  ctl s := by
    rw [outsOnce_eq]
    exact ((readSource_kept w s).output w _ _).ctl

end

/-- A string instruction under REP with bit `z`, as R162 has it; `compares`: CMPS and SCAS. -/
def PassUnderRep (i : Instr) (compares : Bool) (s : State) (z : Bool) : Prop :=
  (s.get .cx = 0 → exec i s = .next s)
    ∧ (s.get .cx ≠ 0 → ∃ t, exec i (s.withRep none) = .next t ∧
        let again := s.get .cx ≠ 1 ∧ (compares = true → t.flags.zf = z)
        let u := { t with regs := t.regs.set .cx (s.get .cx - 1), ctl := { t.ctl with latches := s.ctl.latches } }
        (again → exec i s = .next { u with ip := s.ctl.opIp, ctl := { u.ctl with phase := .repeating } })
          ∧ (¬again → exec i s = .next u))

section
variable {s : State} {z : Bool} (rep : s.ctl.latches.rep = some z) (compares : Bool)
include rep

theorem repeated_zero (f : State → State) (zero : s.get .cx = 0) : repeated compares f s = s := by
  simp only [repeated, rep, zero, if_true]

theorem repeated_pass (f : State → State) (nonzero : s.get .cx ≠ 0) : repeated compares f s =
    let u := (f s).set .cx ((f s).get .cx - 1)
    if u.get .cx = 0 ∨ compares = true ∧ u.flags.zf ≠ z then u else repeatAgain u := by
  simp only [repeated, rep, nonzero, if_false]

/-- A primitive does under REP what it does without it. -/
theorem StringPrimitive.unprefixed {f : State → State} (h : StringPrimitive f) : f s = (f (s.withRep none)).withRep (some z) := by
  rw [← h.withRep, withRep_withRep, withRep_self rep]

/-- The state in which a pass ends: what the primitive leaves, CX one less, the latches still set. -/
theorem StringPrimitive.counted {f : State → State} (h : StringPrimitive f) :
    let t := f (s.withRep none)
    (f s).set .cx ((f s).get .cx - 1) =
      { t with regs := t.regs.set .cx (s.get .cx - 1), ctl := { t.ctl with latches := s.ctl.latches } } := by
  have latches : ((f (s.withRep none)).withRep (some z)).ctl.latches = s.ctl.latches := by rw [← h.unprefixed rep, h.ctl]
  rw [h.cx, h.unprefixed rep, ← latches]
  rfl

theorem StringPrimitive.pass {f : State → State} (h : StringPrimitive f) {i : Instr}
    (run : ∀ r, exec i (s.withRep r) = .next (repeated compares f (s.withRep r))) : PassUnderRep i compares s z := by
  have prefixed : exec i s = .next (repeated compares f s) := withRep_self rep ▸ run (some z)
  refine ⟨fun zero => by rw [prefixed, repeated_zero rep _ _ zero], fun nonzero => ⟨f (s.withRep none), ?_, ?_⟩⟩
  · rw [run, repeated_none rfl]
  · intro again u
    have ends : (u.get .cx = 0 ∨ compares = true ∧ u.flags.zf ≠ z) ↔ ¬again := by
      have count : u.get .cx = s.get .cx - 1 := rfl
      have last : s.get .cx - 1 = 0 ↔ s.get .cx = 1 := sub_eq_zero
      rw [count, last, not_and_or, not_not, Classical.not_imp]
    have opIp : u.ctl.opIp = s.ctl.opIp :=
      calc u.ctl.opIp = (f (s.withRep none)).ctl.opIp := rfl
        _ = (s.withRep none).ctl.opIp := by rw [h.ctl]
    rw [prefixed, repeated_pass rep compares f nonzero, h.counted rep]
    refine ⟨fun goes => ?_, fun stops => ?_⟩
    · rw [← opIp]
      exact congrArg _ (if_neg fun e => ends.1 e goes)
    · exact congrArg _ (if_pos (ends.2 stops))

end

/-- Settles O25: what one pass of any primitive is, for each of the seven. -/
theorem repeatedStringPass : Obligations.RepeatedStringPass := by
  intro p hp w s z is186 rep
  simp only [List.mem_cons, List.not_mem_nil, or_false] at hp
  obtain rfl | rfl | rfl | rfl | rfl | rfl | rfl := hp
  · exact (movsOnce_primitive w).pass rep false fun _ => exec_movs w _
  · exact (lodsOnce_primitive w).pass rep false fun _ => exec_lods w _
  · exact (stosOnce_primitive w).pass rep false fun _ => exec_stos w _
  · exact (insOnce_primitive w).pass rep false fun r => exec_ins (s := s.withRep r) (is186 rfl) w
  · exact (outsOnce_primitive w).pass rep false fun r => exec_outs (s := s.withRep r) (is186 rfl) w
  · exact (cmpsOnce_primitive w).pass rep true fun _ => exec_cmps w _
  · exact (scasOnce_primitive w).pass rep true fun _ => exec_scas w _

end Sys2Proof.Machine

/-! SUPPORT. Recognition in the halted state and inside repeated string instructions and WAIT (60_exceptions.md R254, R259). -/

namespace Sys2Proof.Machine

/-- A halted CPU that has its turn only looks for a request. -/
theorem step_halted {s : State} (moves : s.moves = []) (hold : s.iopHolds = false) (dma : s.dmaFirst = none)
    (halted : s.ctl.phase = .halted) : step s = settle (.next (haltedStep s)) := by
  rw [step_of_no_moves moves, cpuStep]
  simp only [hold, dma, halted, Bool.false_eq_true, if_false, ite_self, if_true]

theorem haltedStep_sleeps {s : State} (nmi : s.ctl.nmiPending = false) (intr : s.intrLevel = false ∨ s.flags.ie = false) :
    haltedStep s = s := by
  have masked : (s.intrLevel && s.flags.ie) = false := Bool.and_eq_false_iff.2 intr
  simp only [haltedStep, nmi, masked, Bool.or_self, Bool.false_eq_true, if_false]

theorem haltedStep_wakes {s : State} (request : s.ctl.nmiPending = true ∨ s.intrLevel = true ∧ s.flags.ie = true) :
    haltedStep s = boundary false s :=
  if_pos (by rwa [Bool.or_eq_true, Bool.and_eq_true])

/-- The machine once a test inside an instruction has looked at the holds of the instruction before. -/
def State.looked (s : State) : State := { s with ctl := { s.ctl with heldAll := false, heldIntr := false } }

/-- What a test inside an instruction answers when an interrupt was taken: the instruction ends for now, and a trap that is due follows. -/
def endedEarly (trap : Bool) (s : State) : Bool × State := (true, if trap then interrupt 1 s.complete.ip s.complete else s.complete)

theorem recognize_looked (delay : Bool) (savedIp : Word) (s : State) :
    recognize delay savedIp s.looked =
      if s.ctl.nmiPending then (true, takeNmi savedIp s.looked)
      else if s.intrLevel && s.flags.ie && !delay then (true, interrupt (intAck s.looked).1 savedIp (intAck s.looked).2)
      else (false, s.looked) := rfl

theorem midItem_looked (savedIp : Word) (trap : Bool) (s : State) :
    let test := if s.ctl.heldAll then (false, s.looked) else recognize s.ctl.heldIntr savedIp s.looked
    midItem savedIp trap s = if test.1 then endedEarly trap test.2 else (false, test.2) := rfl

/-- The test inside an instruction by its cases: held, NMI, INTR, no request. -/
theorem midItem_cases (s : State) (savedIp : Word) (trap : Bool) :
    midItem savedIp trap s =
      if s.ctl.heldAll then (false, s.looked)
      else if s.ctl.nmiPending then endedEarly trap (takeNmi savedIp s.looked)
      else if s.intrLevel && s.flags.ie && !s.ctl.heldIntr then
        endedEarly trap (interrupt (intAck s.looked).1 savedIp (intAck s.looked).2)
      else (false, s.looked) := by
  rw [midItem_looked, recognize_looked]
  split
  case isTrue held => rfl
  case isFalse free =>
    split
    case isTrue nmi => rfl
    case isFalse noNmi => split <;> rfl

/-- Settles O33: the halted step, the saved IP as defined, and the cases of the test inside an instruction. -/
theorem recognitionInsideInstructions : Obligations.RecognitionInsideInstructions := by
  refine ⟨fun s moves hold dma halted stop => ?_, fun _ => rfl, midItem_cases⟩
  rw [step_halted moves hold dma halted]
  refine ⟨fun nmi intr => ?_, fun request => ?_⟩
  · rw [haltedStep_sleeps nmi intr, settle_stop stop]
  · rw [haltedStep_wakes request]

end Sys2Proof.Machine

/-! SUPPORT. Control transfer (44_control_transfer.md R180 to R215, R219): relative targets, jumps and loops, calls and returns, and the
interrupt sequence with its return (60_exceptions.md R253, R254). -/

namespace Sys2Proof.Machine

/-! ## Relative targets, R180 -/

/-- A sum of words with a signed displacement, as the word of the integer sum. -/
theorem add_ofInt_toInt {n : Nat} (w : Word) (d : BitVec n) : w + BitVec.ofInt 16 d.toInt = BitVec.ofInt 16 (w.toNat + d.toInt) := by
  rw [BitVec.ofInt_add, BitVec.ofInt_natCast, BitVec.ofNat_toNat, BitVec.setWidth_eq]

theorem relNear_eq (s : State) (d : Word) : relNear s d = BitVec.ofInt 16 (s.ip.toNat + d.toInt) := by
  rw [relNear, ← add_ofInt_toInt, BitVec.ofInt_toInt]

theorem relShort_eq (s : State) (d : Byte) : relShort s d = BitVec.ofInt 16 (s.ip.toNat + d.toInt) := by
  rw [relShort, signExtend_eq_ofInt, add_ofInt_toInt]

/-! ## Conditional jumps and loops, R195 to R215 -/

/-- What a short jump does: its encoding, the new CX, and the jump when a condition on the machine before it holds. -/
def ShortJump (s : State) (op : Byte) (i : Byte → Instr) (cx : Word) (jumps : Prop) : Prop :=
  ∀ d rest, decode (op :: d :: rest) = .ok (i d, 2)
    ∧ (jumps → exec (i d) s = .next { s with regs := s.regs.set .cx cx, ip := BitVec.ofInt 16 (s.ip.toNat + d.toInt) })
    ∧ (¬jumps → exec (i d) s = .next { s with regs := s.regs.set .cx cx })

/-- An instruction is a short jump when it is `jumpIf` with its condition, after CX is set. -/
theorem ShortJump.of_jumpIf {s : State} {op : Byte} {i : Byte → Instr} {cx : Word} {jumps : Prop} {c : Bool}
    (decoded : ∀ d rest, decode (op :: d :: rest) = .ok (i d, 2)) (step : ∀ d, exec (i d) s = .next (jumpIf c d (s.set .cx cx)))
    (condition : c = true ↔ jumps) : ShortJump s op i cx jumps := by
  refine fun d rest => ⟨decoded d rest, fun jump => ?_, fun stay => ?_⟩
  · rw [step, jumpIf, if_pos (condition.2 jump), relShort_eq]
    rfl
  · rw [step, jumpIf, if_neg (stay ∘ condition.1)]
    rfl

/-- A conditional jump keeps CX. -/
theorem ShortJump.of_condition {s : State} {op : Byte} {i : Byte → Instr} {jumps : Prop} {c : Bool} (condition : c = true ↔ jumps)
    (decoded : ∀ d rest, decode (op :: d :: rest) = .ok (i d, 2) := by exact fun _ _ => rfl)
    (step : ∀ d, exec (i d) s = .next (jumpIf c d s) := by exact fun _ => rfl) : ShortJump s op i (s.get .cx) jumps :=
  .of_jumpIf decoded step condition

/-- A loop makes CX one less modulo 2^16, and goes on when CX is then not 0 and its own condition holds. -/
theorem ShortJump.of_loop {s : State} {op : Byte} {i : Byte → Instr} {own : Prop} {c : Bool} (condition : c = true ↔ own)
    (decoded : ∀ d rest, decode (op :: d :: rest) = .ok (i d, 2) := by exact fun _ _ => rfl)
    (step : ∀ d, exec (i d) s = .next (loopIf c d s) := by exact fun _ => rfl) :
    ShortJump s op i (BitVec.ofNat 16 ((s.get .cx).toNat + 65535)) ((s.get .cx).toNat ≠ 1 ∧ own) := by
  have less : s.get .cx - 1 = BitVec.ofNat 16 ((s.get .cx).toNat + 65535) := by bv_omega
  have nonzero : s.get .cx - 1 ≠ 0 ↔ (s.get .cx).toNat ≠ 1 := by bv_omega
  have goesOn : (c && s.get .cx - 1 != 0) = true ↔ (s.get .cx).toNat ≠ 1 ∧ own := by
    rw [Bool.and_eq_true, bne_iff_ne, nonzero, condition, and_comm]
  rw [← less]
  exact .of_jumpIf decoded step goesOn

/-- The test of JA (R203). -/
theorem nor_test (a b : Bool) : (!(a || b)) = true ↔ a = false ∧ b = false := by
  rw [Bool.not_eq_true', Bool.or_eq_false_iff]

/-- The test of JLE (R210). -/
theorem ne_or_test (a b c : Bool) : (a != b || c) = true ↔ c = true ∨ a ≠ b := by
  rw [Bool.or_eq_true, bne_iff_ne, or_comm]

/-- The test of JG (R211). -/
theorem eq_and_not_test (a b c : Bool) : (a == b && !c) = true ↔ c = false ∧ a = b := by
  rw [Bool.and_eq_true, beq_iff_eq, Bool.not_eq_true', and_comm]

/-- Settles O26: each jump is `jumpIf` with its condition, each loop `loopIf`. -/
theorem shortJumps : Obligations.ShortJumps := by
  intro s f cx less
  change ∀ p : Byte × (Byte → Instr) × Word × Prop, p ∈ _ → ShortJump s p.1 p.2.1 p.2.2.1 p.2.2.2
  have isFalse (b : Bool) : (!b) = true ↔ b = false := (Bool.not_eq_true' b).to_iff
  have alwaysOn : ShortJump s 0xE2 .loop less (cx.toNat ≠ 1) := and_true (cx.toNat ≠ 1) ▸ .of_loop (iff_true_intro rfl)
  simp only [List.forall_mem_cons, List.not_mem_nil, IsEmpty.forall_iff, implies_true, and_true]
  exact ⟨.of_condition .rfl, .of_condition (isFalse _), .of_condition .rfl, .of_condition (isFalse _), .of_condition .rfl,
    .of_condition (isFalse _), .of_condition (Bool.or_eq_true ..).to_iff, .of_condition (nor_test ..), .of_condition .rfl,
    .of_condition (isFalse _), .of_condition .rfl, .of_condition (isFalse _), .of_condition bne_iff_ne, .of_condition beq_iff_eq,
    .of_condition (ne_or_test ..), .of_condition (eq_and_not_test ..), .of_loop (isFalse _), .of_loop .rfl, alwaysOn,
    .of_condition beq_iff_eq⟩

end Sys2Proof.Machine

namespace Sys2Proof.Machine

/-! ## A push, whatever IP, CS and the flags are -/

/-- The machine with other values of IP, CS, the flags and the draw count, at none of which an access to the stack looks. -/
def State.withFlow (s : State) (ip cs : Word) (f : Flags) (n : Nat) : State :=
  { s with ip := ip, segs := { s.segs with cs := cs }, flags := f, fresh := n }

theorem push16_withFlow {s : State} (h : s.Ordinary) (v ip cs : Word) (f : Flags) (n : Nat) :
    push16 v (s.withFlow ip cs f n) = (push16 v s).withFlow ip cs f n := by
  have there := push16_plain (s := s.withFlow ip cs f n) h.1 v
  rw [there, push16_plain h.1]
  rfl

/-! ## RET, R186 to R189 -/

theorem popIp_eq {s : State} (h : s.Ordinary) : popIp s = (s.set .sp (s.get .sp + 2)).setIp s.topWord := by
  rw [popIp, pop16_ordinary h]

theorem popCs_popIp_eq {s : State} (h : s.Ordinary) :
    popCs (popIp s) = ((s.set .sp (s.get .sp + 4)).setIp s.topWord).setSeg .cs (s.stackWord (s.get .sp + 2)) := by
  have sp : s.get .sp + 4 = s.get .sp + 2 + 2 := (BitVec.add_assoc (s.get .sp) 2 2).symm
  have pop := pop16_ordinary (s := (s.set .sp (s.get .sp + 2)).setIp s.topWord) h
  rw [popIp_eq h, popCs, pop, sp]
  rfl

/-! ## CALL, R182 to R185 -/

/-- A near call: the offset of the next instruction is pushed, and IP is the target. -/
theorem nearCall_pushed {s : State} (h : s.Ordinary) {o : Host.Outcome State Fault Refusal} {target : Word}
    (step : o = .next ((push16 s.ip s).setIp target)) : Gives o fun t => t.ip = target ∧ Pushed s.ip s { t with ip := s.ip } := by
  obtain ⟨-, -, ip, -⟩ := push16_keeps s.ip s
  have restored : { (push16 s.ip s).setIp target with ip := s.ip } = push16 s.ip s := congrArg ((push16 s.ip s).setIp ·) ip.symm
  exact ⟨_, step, rfl, restored ▸ push16_pushed h s.ip s.fresh⟩

/-- A far call pushes CS and then IP, and loads both. -/
theorem farCall_eq {s : State} (h : s.Ordinary) (off seg : Word) :
    farCall off seg s = (pushWords [s.segs.cs, s.ip] s).withFlow off seg s.flags s.fresh := by
  have step : farCall off seg s =
      (push16 ((push16 s.segs.cs s).setSeg .cs seg).ip ((push16 s.segs.cs s).setSeg .cs seg)).setIp off := rfl
  have loaded : (push16 s.segs.cs s).setSeg .cs seg = (push16 s.segs.cs s).withFlow s.ip seg s.flags s.fresh := by
    rw [push16_plain h.1]
    rfl
  rw [step, loaded, push16_withFlow (push16_ordinary h _)]
  rfl

/-- What a far call leaves: CS above IP at the new top, and both loaded. -/
def FarCalled (off seg : Word) (s t : State) : Prop :=
  t = { s with regs := s.regs.set .sp (s.get .sp - 4), segs := { s.segs with cs := seg }, ip := off, mem := t.mem }
    ∧ t.mem.number (s.stackBytes (s.get .sp - 2)) = s.segs.cs.toNat ∧ t.mem.number (s.stackBytes (s.get .sp - 4)) = s.ip.toNat
    ∧ MemoryKeptOutside (s.stackBytes (s.get .sp - 2) ++ s.stackBytes (s.get .sp - 4)) s t

theorem farCall_farCalled {s : State} (h : s.Ordinary) (off seg : Word) : FarCalled off seg s (farCall off seg s) := by
  obtain ⟨frame, -, words, kept⟩ := pushWords_pushed [s.segs.cs, s.ip] h (by decide : 2 ≤ 2 ^ 15)
  rw [farCall_eq h]
  refine ⟨congrArg (State.withFlow · off seg s.flags s.fresh) frame, words 0 (by decide : 0 < 2), words 1 (by decide : 1 < 2),
    fun a outside _ => kept a fun k hk inside => outside ?_⟩
  match k, hk with
  | 0, _ => exact List.mem_append_left _ inside
  | 1, _ => exact List.mem_append_right _ inside

/-! ## Transfers through an operand, R183, R185, R192, R194 -/

theorem exec_callNearRm {s : State} (h : s.Ordinary) (rm : Rm) :
    exec (.callNearRm rm) s = .next ((push16 s.ip s).setIp (BitVec.ofNat 16 (s.rmValue .word rm))) := by
  have step : exec (.callNearRm rm) s = .next ((push16 (readRm .word rm s).2.ip (readRm .word rm s).2).setIp (readRm .word rm s).1) := rfl
  rw [step, readRm_ordinary h]

theorem exec_jmpNearRm {s : State} (h : s.Ordinary) (rm : Rm) :
    exec (.jmpNearRm rm) s = .next (s.setIp (BitVec.ofNat 16 (s.rmValue .word rm))) := by
  have step : exec (.jmpNearRm rm) s = .next ((readRm .word rm s).2.setIp (readRm .word rm s).1) := rfl
  rw [step, readRm_ordinary h]

/-- The far forms read their pointer first. -/
theorem exec_farRm {rm : Rm} (mem : rm.wellFormedMem = true) (s : State) :
    exec (.callFarRm rm) s = .next (farCall (readRmPointer rm s).1.1 (readRmPointer rm s).1.2 (readRmPointer rm s).2)
      ∧ exec (.jmpFarRm rm) s = .next (((readRmPointer rm s).2.setSeg .cs (readRmPointer rm s).1.2).setIp (readRmPointer rm s).1.1) := by
  cases rm with
  | reg => cases mem
  | ind | disp8 | disp16 | direct => exact ⟨rfl, rfl⟩

/-- Settles O27: a near call is one push, a far one two, a return one or two pops, a jump none. -/
theorem jumpsCallsAndReturns : Obligations.JumpsCallsAndReturns := by
  refine ⟨fun _ => ⟨rfl, rfl⟩, fun _ => rfl, fun _ _ => ⟨rfl, rfl⟩, fun _ => ⟨rfl, rfl, rfl, rfl⟩, rfl, fun _ => rfl, rfl, fun _ => rfl,
    fun s h => ?_⟩
  refine ⟨fun d => ?_, fun rm => nearCall_pushed h (exec_callNearRm h rm), fun off seg => ⟨_, rfl, farCall_farCalled h off seg⟩,
    fun d => ?_, fun d => ?_, exec_jmpNearRm h, fun _ _ => rfl, fun rm mem => ?_, ?_⟩
  · rw [← relNear_eq]
    exact nearCall_pushed h rfl
  · rw [← relNear_eq]
    rfl
  · rw [← relShort_eq]
    rfl
  · obtain ⟨call, jump⟩ := exec_farRm mem s
    rw [readRmPointer_ordinary h] at call jump
    exact ⟨⟨_, call, farCall_farCalled h _ _⟩, jump⟩
  · have near (n : Word) : exec (.retNearImm n) s = .next ((popIp s).set .sp ((popIp s).get .sp + n)) := rfl
    have far (n : Word) : exec (.retFarImm n) s = .next ((popCs (popIp s)).set .sp ((popCs (popIp s)).get .sp + n)) := rfl
    rw [popIp_eq h] at near
    rw [popCs_popIp_eq h] at far
    exact ⟨congrArg _ (popIp_eq h), near, congrArg _ (popCs_popIp_eq h), far⟩

end Sys2Proof.Machine

namespace Sys2Proof.Machine

/-! ## Taking an interrupt, 60_exceptions.md R253 -/

/-- A read of the interrupt pointer table in ordinary memory changes nothing, and does not look at IP, CS and the flags. -/
theorem vectorWord_withFlow {s : State} (h : s.Ordinary) (a : Phys) (ip cs : Word) (f : Flags) (n : Nat) :
    vectorWord a (s.withFlow ip cs f n) = ((vectorWord a s).1, s.withFlow ip cs f n) := by
  have there := memRead16_plain (s := s.withFlow ip cs f n) h.1 a (a + 1)
  rw [vectorWord, there, vectorWord, memRead16_plain h.1]
  rfl

/-- The three words that an interrupt pushes: an image of the flags, CS, the saved IP. -/
def State.interruptWords (s : State) (savedIp : Word) : List Word := [s.flags.image (Config.freeFill s.fresh), s.segs.cs, savedIp]

/-- The interrupt sequence in ordinary memory: three pushes, CS read from the table after the second, IP after the third. -/
theorem interrupt_eq {s : State} (h : s.Ordinary) (t : Byte) (savedIp : Word) :
    let words := s.interruptWords savedIp
    interrupt t savedIp s = (pushWords words s).withFlow (vectorWord (vectorAddr t) (pushWords words s)).1
      (vectorWord (vectorAddr t + 2) (pushWords (words.take 2) s)).1 { s.flags with ie := false, tf := false } (s.fresh + 1) := by
  intro words
  obtain ⟨s1, s2, s3, s4, cs, s5, s6, s7, ip, e1, e2, e3, e4, e5, e6, e7, e⟩ := interrupt_stages t savedIp s
  let image := s.flags.image (Config.freeFill s.fresh)
  let cleared : Flags := { s.flags with ie := false, tf := false }
  have h1 : (push16 image s).Ordinary := push16_ordinary h _
  have h3 := push16_ordinary h1 s.segs.cs
  have h6 := push16_ordinary h3 savedIp
  have q1 : s1 = (push16 image s).withFlow s.ip s.segs.cs s.flags (s.fresh + 1) := e1.trans (push16_withFlow h ..)
  have q2 : s2 = (push16 image s).withFlow s.ip s.segs.cs cleared (s.fresh + 1) := by rw [e2, q1]; rfl
  rw [q2, push16_withFlow h1] at e3
  rw [e3] at e4
  obtain ⟨hcs, q4⟩ := Prod.mk.inj (e4.trans (vectorWord_withFlow h3 ..))
  have q5 : s5 = (push16 s.segs.cs (push16 image s)).withFlow s.ip cs cleared (s.fresh + 1) := by rw [e5, q4]; rfl
  rw [q5, push16_withFlow h3] at e6
  rw [e6] at e7
  obtain ⟨hip, q7⟩ := Prod.mk.inj (e7.trans (vectorWord_withFlow h6 ..))
  rw [e, q7, hip, hcs]
  rfl

/-! ## IRET, 44_control_transfer.md R219 -/

/-- On the 80186,188 DHLT is cleared, and elsewhere there is none (61_186_peripherals.md R584). -/
theorem clearDhlt_eq (s : State) :
    (if s.is186 then s.setIc { s.pcb.ic with dhlt := false } else s)
      = { s with pcb := if s.is186 then { s.pcb with ic := { s.pcb.ic with dhlt := false } } else s.pcb } := by
  split <;> rfl

/-- What a return from an interrupt does with the flags that it popped: a change of IF from 0 to 1 delays INTR (60_exceptions.md R261),
and on the 80186,188 DHLT is cleared. -/
def State.returned (f : Flags) (s : State) : State :=
  { s with
    flags := f
    ctl := { s.ctl with intrDelay := s.ctl.intrDelay || (f.ie && !s.flags.ie) }
    pcb := if s.is186 then { s.pcb with ic := { s.pcb.ic with dhlt := false } } else s.pcb }

/-- The return is that of RET far, then the flags. -/
theorem interruptReturn_stages (s : State) :
    interruptReturn s = (pop16 (popCs (popIp s))).2.returned (Flags.ofImage (pop16 (popCs (popIp s))).1) := by
  rcases first : pop16 s with ⟨ip, s1⟩
  rcases second : pop16 (s1.setIp ip) with ⟨cs, s2⟩
  rcases third : pop16 (s2.setSeg .cs cs) with ⟨image, s3⟩
  simp only [interruptReturn, popCs, popIp, first, second, third]
  exact clearDhlt_eq _

/-- The return in ordinary memory. -/
theorem interruptReturn_eq {s : State} (h : s.Ordinary) :
    let word (k : Nat) : Word := s.stackWord (s.get .sp + BitVec.ofNat 16 k)
    let f := Flags.ofImage (word 4)
    interruptReturn s = { s with
      regs := s.regs.set .sp (s.get .sp + 6)
      ip := word 0
      segs := { s.segs with cs := word 2 }
      flags := f
      ctl := { s.ctl with intrDelay := s.ctl.intrDelay || (f.ie && !s.flags.ie) }
      pcb := if s.is186 then { s.pcb with ic := { s.pcb.ic with dhlt := false } } else s.pcb } := by
  intro word f
  have top : s.topWord = word 0 := congrArg s.stackWord (BitVec.add_zero _).symm
  have sp : s.get .sp + 6 = s.get .sp + 4 + 2 := (BitVec.add_assoc (s.get .sp) 4 2).symm
  have pop := pop16_ordinary (s := ((s.set .sp (s.get .sp + 4)).setIp s.topWord).setSeg .cs (s.stackWord (s.get .sp + 2))) h
  rw [interruptReturn_stages, popCs_popIp_eq h, pop, top, sp]
  rfl

/-- The return after an image of the flags, CS and an offset were pushed, whatever IP, CS and the flags are by then. -/
theorem PushedWords.undone_by_return {s u : State} {image savedIp : Word} (p : PushedWords [image, s.segs.cs, savedIp] s u) (h : s.Ordinary)
    (ip cs : Word) (g : Flags) (n : Nat) :
    let r := interruptReturn (u.withFlow ip cs g n)
    r.ip = savedIp ∧ r.regs = s.regs ∧ r.segs = s.segs ∧ r.flags = Flags.ofImage image := by
  have word {k : Nat} (hk : k < 3) := p.stackWord hk
  have regs : u.regs = s.regs.set .sp (s.get .sp - 6) := congrArg State.regs p.frame
  have sp : u.get .sp + 6 = s.get .sp := by
    rw [State.get, regs]
    exact sub_add_cancel _ _
  have segs : u.segs = s.segs := by rw [p.frame]
  have back := interruptReturn_eq (s := u.withFlow ip cs g n) (p.ordinary h)
  rw [back]
  refine ⟨word (by decide : 2 < 3), ?_, ?_, congrArg Flags.ofImage (word (by decide : 0 < 3))⟩
  · change u.regs.set .sp (u.get .sp + 6) = s.regs
    rw [sp, regs]
    rfl
  · change u.segs.set .cs (u.stackWord (u.get .sp + 2)) = s.segs
    rw [segs]
    exact congrArg (s.segs.set .cs) (word (by decide : 1 < 3))

/-- An interrupt procedure that keeps SP and the stack, whatever it leaves in IP, CS and the flags, returns to the saved IP with the
registers, the segment registers and the flags as they were (R253, R254). -/
theorem interruptReturn_interrupt {s : State} (h : s.Ordinary) (t : Byte) (savedIp ip cs : Word) (g : Flags) :
    let r := interruptReturn { interrupt t savedIp s with ip := ip, segs := { s.segs with cs := cs }, flags := g }
    r.ip = savedIp ∧ r.regs = s.regs ∧ r.segs = s.segs ∧ r.flags = s.flags := by
  have pushed := pushWords_pushed (s.interruptWords savedIp) h (by decide : 3 ≤ 2 ^ 15)
  have segs : (pushWords (s.interruptWords savedIp) s).segs = s.segs := by rw [pushed.frame]
  have procedure : { interrupt t savedIp s with ip := ip, segs := { s.segs with cs := cs }, flags := g }
      = (pushWords (s.interruptWords savedIp) s).withFlow ip cs g (s.fresh + 1) := by
    rw [interrupt_eq h, State.withFlow, State.withFlow, segs]
  have back := pushed.undone_by_return h ip cs g (s.fresh + 1)
  rw [ofImage_image] at back
  rw [procedure]
  exact back

end Sys2Proof.Machine

namespace Sys2Proof

open Machine in
/-- Settles O30: the return in closed form, and after the words that an interrupt pushes. -/
theorem interruptReturn : Obligations.InterruptReturn :=
  ⟨rfl, fun _ h => ⟨congrArg Host.Outcome.next (interruptReturn_eq h),
    fun t savedIp ip cs g => ⟨_, rfl, interruptReturn_interrupt h t savedIp ip cs g⟩⟩⟩

end Sys2Proof

/-! SUPPORT. ENTER, LEAVE and BOUND of the 80186,188 (45_high_level_186.md R220 to R224): ENTER is a series of pushes, of which each copied
word is read from the stack as the pushes before it left it. -/

namespace Sys2Proof.Machine

/-! ## Words and their bytes -/

/-- Equal numbers of equally many bytes are made of equal bytes. -/
theorem Memory.map_read_of_number_eq {m m' : Memory} {as bs : List Nat} (h : m.number as = m'.number bs) (len : as.length = bs.length) :
    as.map m.read = bs.map m'.read := by
  induction as generalizing bs with
  | nil => rw [List.eq_nil_of_length_eq_zero len.symm, List.map_nil, List.map_nil]
  | cons a as ih =>
    cases bs with
    | nil => cases len
    | cons b bs =>
      rw [Memory.number, Memory.number] at h
      have ha := (m.read a).isLt
      have hb := (m'.read b).isLt
      have first : m.read a = m'.read b := BitVec.eq_of_toNat_eq (by omega)
      have others : m.number as = m'.number bs := by omega
      rw [List.map_cons, List.map_cons, first, ih others (Nat.succ.inj len)]

/-- The word of the stack is the number that its two bytes make. -/
theorem State.toNat_stackWord (s : State) (sp : Word) : (s.stackWord sp).toNat = s.mem.number (s.stackBytes sp) := by
  rw [State.stackWord, State.stackBytes, operandBytes, Memory.number_word, BitVec.ofNat_toNat, BitVec.setWidth_eq]

/-! ## Memory between the pushes of a series -/

theorem pushSlot_disjoint_of_lt (s : State) {i j a : Nat} (ij : i < j) (lt : j < 2 ^ 15) (ha : a ∈ s.pushSlot i) : a ∉ s.pushSlot j := by
  have apart := operandBytes_disjoint s.is186 s.segs.ss (s.get .sp - BitVec.ofNat 16 (2 * i + 2)) (Nat.sub_pos_of_lt ij)
    (Nat.lt_of_le_of_lt (Nat.sub_le j i) lt) ha
  have place : 2 * i + 2 + 2 * (j - i) = 2 * j + 2 := by omega
  rw [sub_sub, ← BitVec.ofNat_add, place] at apart
  exact apart

/-- Below the words pushed so far come the places of the next ones. -/
theorem PushedWords.pushSlot {s t : State} {vs : List Word} (p : PushedWords vs s t) (k : Nat) :
    t.pushSlot k = s.pushSlot (vs.length + k) := by
  have place : 2 * vs.length + (2 * k + 2) = 2 * (vs.length + k) + 2 := by omega
  rw [p.frame]
  refine congrArg s.stackBytes ?_
  change s.get .sp - BitVec.ofNat 16 (2 * vs.length) - BitVec.ofNat 16 (2 * k + 2) = _
  rw [sub_sub, ← BitVec.ofNat_add, place]

theorem pushWords_append (vs ws : List Word) (s : State) : pushWords (vs ++ ws) s = pushWords ws (pushWords vs s) := List.foldl_append ..

/-- After the first `k` pushes their places read as they do at the end, and every other byte as at the start. -/
theorem read_pushWords_take {s : State} (h : s.Ordinary) {vs : List Word} (short : vs.length ≤ 2 ^ 15) {k : Nat} (hk : k ≤ vs.length)
    (a : Nat) :
    (pushWords (vs.take k) s).mem.read a =
      if (List.range k).any (fun j => (s.pushSlot j).contains a) then (pushWords vs s).mem.read a else s.mem.read a := by
  have len : (vs.take k).length = k := List.length_take_of_le hk
  have pushed := pushWords_pushed (vs.take k) h (len.trans_le (hk.trans short))
  have rest := pushWords_pushed (vs.drop k) (pushed.ordinary h) (by rw [List.length_drop]; omega)
  rw [← pushWords_append, List.take_append_drop] at rest
  split
  next stored =>
    obtain ⟨j, hj, inside⟩ := List.any_eq_true.1 stored
    rw [List.mem_range] at hj
    rw [List.contains_iff_mem] at inside
    refine (rest.kept a fun i hi => ?_).symm
    rw [List.length_drop] at hi
    rw [pushed.pushSlot, len]
    exact pushSlot_disjoint_of_lt s (by omega) (by omega) inside
  next untouched =>
    refine pushed.kept a fun j hj inside => untouched (List.any_eq_true.2 ⟨j, ?_, List.contains_iff_mem.2 inside⟩)
    rwa [List.mem_range, ← len]

/-! ## BP beside the stack -/

theorem push16_set_bp {s : State} (h : s.Ordinary) (v b : Word) : push16 v (s.set .bp b) = (push16 v s).set .bp b := by
  have there := push16_plain (s := s.set .bp b) h.1 v
  rw [there, push16_plain h.1]
  rfl

theorem pushWords_set_bp (vs : List Word) {s : State} (h : s.Ordinary) (b : Word) :
    pushWords vs (s.set .bp b) = (pushWords vs s).set .bp b := by
  induction vs generalizing s with
  | nil => rfl
  | cons v vs ih =>
    change pushWords vs (push16 v (s.set .bp b)) = (pushWords vs (push16 v s)).set .bp b
    rw [push16_set_bp h, ih (push16_ordinary h v)]

/-! ## ENTER, R221 -/

/-- A frame pointer is copied: the word below the one at BP is pushed, and BP is lower by 2. -/
theorem copyFrame_eq {s : State} (h : s.Ordinary) :
    copyFrame s = (push16 (s.stackWord (s.get .bp - 2)) s).set .bp (s.get .bp - 2) := by
  have word := readMem_ordinary (s := s.set .bp (s.get .bp - 2)) h .word s.segs.ss (s.get .bp - 2)
  have step : copyFrame s = push16 (readMem .word s.segs.ss (s.get .bp - 2) (s.set .bp (s.get .bp - 2))).1
      (readMem .word s.segs.ss (s.get .bp - 2) (s.set .bp (s.get .bp - 2))).2 := rfl
  rw [step, word]
  exact push16_set_bp h _ _

/-- The words that copying `n` frame pointers pushes, each read after the pushes before it. -/
def copiedWords : Nat → State → List Word
  | 0, _ => []
  | n + 1, s => s.stackWord (s.get .bp - 2) :: copiedWords n (copyFrame s)

@[simp] theorem length_copiedWords (n : Nat) (s : State) : (copiedWords n s).length = n := by
  induction n generalizing s with
  | zero => rfl
  | succ n ih => exact congrArg Nat.succ (ih (copyFrame s))

theorem copyFrame_ordinary {s : State} (h : s.Ordinary) : (copyFrame s).Ordinary := by
  rw [copyFrame_eq h]
  exact push16_ordinary h _

/-- A series of pushes after a copied frame pointer, from the state before it. -/
theorem pushWords_copyFrame {s : State} (h : s.Ordinary) (vs : List Word) :
    pushWords vs (copyFrame s) = (pushWords (s.stackWord (s.get .bp - 2) :: vs) s).set .bp (s.get .bp - 2) := by
  rw [copyFrame_eq h, pushWords_set_bp vs (push16_ordinary h _)]
  rfl

theorem copyFrames_eq (n : Nat) {s : State} (h : s.Ordinary) :
    copyFrames n s = (pushWords (copiedWords n s) s).set .bp (s.get .bp - BitVec.ofNat 16 (2 * n)) := by
  induction n generalizing s with
  | zero =>
    have bp : s.get .bp - BitVec.ofNat 16 (2 * 0) = s.get .bp := BitVec.sub_zero _
    rw [bp]
    rfl
  | succ n ih =>
    have bp : (copyFrame s).get .bp = s.get .bp - 2 := congrArg (State.get · .bp) (copyFrame_eq h)
    have lower : s.get .bp - 2 - BitVec.ofNat 16 (2 * n) = s.get .bp - BitVec.ofNat 16 (2 * (n + 1)) := sub_two_sub ..
    rw [copyFrames, ih (copyFrame_ordinary h), pushWords_copyFrame h, bp, lower]
    rfl

/-- The `k`-th copied word, from 0, is the one below the old BP as the pushes before it left it. -/
theorem getElem_copiedWords {n k : Nat} {s : State} (h : s.Ordinary) (hk : k < (copiedWords n s).length) :
    (copiedWords n s)[k] =
      (pushWords ((copiedWords n s).take k) s).stackWord (s.get .bp - BitVec.ofNat 16 (2 * (k + 1))) := by
  induction n generalizing k s with
  | zero => cases hk
  | succ n ih =>
    cases k with
    | zero => rfl
    | succ k =>
      have bp : (copyFrame s).get .bp = s.get .bp - 2 := congrArg (State.get · .bp) (copyFrame_eq h)
      have word := ih (copyFrame_ordinary h) (Nat.lt_of_succ_lt_succ hk)
      rw [pushWords_copyFrame h, bp, sub_two_sub] at word
      exact word

/-- The words that ENTER pushes: the old BP, the copied frame pointers, and at a level above 0 the new BP last (R221). -/
def State.enterWords (level : Byte) (s : State) : List Word :=
  s.get .bp :: if level = 0 then [] else copiedWords (level.toNat - 1) (push16 (s.get .bp) s) ++ [s.get .sp - 2]

theorem State.enterWords_of_ne {level : Byte} (nested : level ≠ 0) (s : State) :
    s.enterWords level = s.get .bp :: (copiedWords (level.toNat - 1) (push16 (s.get .bp) s) ++ [s.get .sp - 2]) :=
  congrArg _ (if_neg nested)

theorem level_pos {level : Byte} (nested : level ≠ 0) : 0 < level.toNat :=
  Nat.pos_of_ne_zero fun e => nested (BitVec.eq_of_toNat_eq e)

@[simp] theorem State.length_enterWords (level : Byte) (s : State) : (s.enterWords level).length = level.toNat + 1 := by
  by_cases zero : level = 0
  · subst zero
    rfl
  · have pos := level_pos zero
    rw [State.enterWords_of_ne zero, List.length_cons, List.length_append, length_copiedWords, List.length_singleton,
      Nat.sub_add_cancel pos]

theorem State.length_enterWords_le (s : State) (level : Byte) : (s.enterWords level).length ≤ 2 ^ 15 := by
  rw [State.length_enterWords]
  omega

/-- ENTER is its pushes, then BP at the first of them, and SP lower by the size. -/
theorem enterFrame_eq {s : State} (h : s.Ordinary) (size : Word) (level : Byte) :
    enterFrame size level s =
      ((pushWords (s.enterWords level) s).set .bp (s.get .sp - 2)).set .sp ((pushWords (s.enterWords level) s).get .sp - size) := by
  have first := push16_ordinary h (s.get .bp)
  have fp : (push16 (s.get .bp) s).get .sp = s.get .sp - 2 := by
    rw [push16_plain h.1]
    rfl
  by_cases zero : level = 0
  · subst zero
    rw [enterFrame, fp]
    rfl
  · rw [enterFrame, fp, if_neg zero, copyFrames_eq _ first,
      push16_set_bp ((pushWords_pushed _ first (by rw [length_copiedWords]; omega)).ordinary first), State.enterWords_of_ne zero]
    change _ = ((pushWords (_ ++ _) (push16 _ s)).set _ _).set _ ((pushWords (_ ++ _) (push16 _ s)).get _ - _)
    rw [pushWords_append]
    rfl

/-- A word between the first and the last is a copied one. -/
theorem State.getElem_enterWords_copied {s : State} (h : s.Ordinary) {level : Byte} {k : Nat} (pos : 0 < k) (lt : k < level.toNat) :
    (s.enterWords level)[k]'(by rw [State.length_enterWords]; omega) =
      (pushWords ((s.enterWords level).take k) s).stackWord (s.get .bp - BitVec.ofNat 16 (2 * k)) := by
  have nested : level ≠ 0 := by
    rintro rfl
    exact Nat.not_lt_zero k lt
  obtain ⟨k, rfl⟩ := Nat.exists_eq_succ_of_ne_zero pos.ne'
  have hk : k < (copiedWords (level.toNat - 1) (push16 (s.get .bp) s)).length := by
    rw [length_copiedWords]
    omega
  have word := getElem_copiedWords (push16_ordinary h (s.get .bp)) hk
  rw [push16_get _ (by decide)] at word
  simp only [State.enterWords_of_ne nested, List.getElem_cons_succ, List.getElem_append_left hk, List.take_succ_cons,
    List.take_append_of_le_length hk.le]
  exact word

/-- The last word at a level above 0 is the new BP. -/
theorem State.getElem_enterWords_last (s : State) {level : Byte} (nested : level ≠ 0) :
    (s.enterWords level)[level.toNat]'(by rw [State.length_enterWords]; omega) = s.get .sp - 2 := by
  have last := List.getElem_length_sub_one_eq_getLast (l := s.enterWords level) (by rw [State.length_enterWords]; omega)
  simp only [State.length_enterWords, Nat.add_sub_cancel] at last
  rw [last]
  simp only [State.enterWords_of_ne nested, ← List.cons_append, List.getLast_concat]

/-- ENTER against the state before it: BP at its first word, SP below its last by the size, and memory with its words. -/
theorem enterFrame_frame {s : State} (h : s.Ordinary) (size : Word) (level : Byte) :
    enterFrame size level s =
      { s with
        regs := (s.regs.set .bp (s.get .sp - 2)).set .sp (s.get .sp - 2 - BitVec.ofNat 16 (2 * level.toNat) - size)
        mem := (pushWords (s.enterWords level) s).mem } := by
  obtain ⟨frame, -⟩ := pushWords_pushed (s.enterWords level) h (s.length_enterWords_le level)
  have sp : s.get .sp - BitVec.ofNat 16 (2 * (s.enterWords level).length) = s.get .sp - 2 - BitVec.ofNat 16 (2 * level.toNat) := by
    rw [State.length_enterWords]
    exact (sub_two_sub ..).symm
  rw [enterFrame_eq h, frame, sp]
  rfl

/-- A copied frame pointer has, byte for byte, what stood below the old BP when it was pushed. -/
theorem enterWords_copied_bytes {s : State} (h : s.Ordinary) {level : Byte} {k : Nat} (pos : 0 < k) (lt : k < level.toNat) :
    let m := (pushWords (s.enterWords level) s).mem
    (s.pushSlot k).map m.read = (s.stackBytes (s.get .bp - BitVec.ofNat 16 (2 * k))).map fun a =>
      if (List.range k).any (fun j => (s.pushSlot j).contains a) then m.read a else s.mem.read a := by
  intro m
  have short := s.length_enterWords_le level
  have hk : k < (s.enterWords level).length := by
    rw [State.length_enterWords]
    omega
  have before := pushWords_pushed ((s.enterWords level).take k) h ((List.length_take_le _ _).trans (hk.le.trans short))
  have bytes (w : Word) : (pushWords ((s.enterWords level).take k) s).stackBytes w = s.stackBytes w := by
    rw [before.frame]
    rfl
  have number : m.number (s.pushSlot k) =
      (pushWords ((s.enterWords level).take k) s).mem.number (s.stackBytes (s.get .bp - BitVec.ofNat 16 (2 * k))) := by
    rw [(pushWords_pushed _ h short).words k hk, State.getElem_enterWords_copied h pos lt, State.toNat_stackWord, bytes]
  rw [Memory.map_read_of_number_eq number rfl]
  exact List.map_congr_left fun a _ => read_pushWords_take h short hk.le a

/-! ## LEAVE, R223 -/

theorem leaveFrame_eq {s : State} (h : s.Ordinary) :
    leaveFrame s = { s with regs := (s.regs.set .sp (s.get .bp + 2)).set .bp (s.stackWord (s.get .bp)) } := by
  have pop := pop16_regs h (s.regs.set .sp (s.get .bp))
  rw [leaveFrame, State.set, pop]
  rfl

theorem exec_leave {s : State} (h6 : s.is186 = true) : exec .leave s = .next (leaveFrame s) := only186_of_true h6 _

/-- LEAVE restores the registers that ENTER changed. -/
theorem leaveFrame_enterFrame {s : State} (h : s.Ordinary) (size : Word) (level : Byte) :
    (leaveFrame (enterFrame size level s)).regs = s.regs := by
  have pushed := pushWords_pushed (s.enterWords level) h (s.length_enterWords_le level)
  have entered := enterFrame_frame h size level
  have bp : (enterFrame size level s).get .bp = s.get .sp - 2 := congrArg (State.get · .bp) entered
  have saved : (enterFrame size level s).stackWord (s.get .sp - 2) = s.get .bp := by
    refine BitVec.eq_of_toNat_eq ?_
    rw [State.toNat_stackWord, entered]
    exact pushed.words 0 (Nat.succ_pos _)
  have ordinary : (enterFrame size level s).Ordinary := by
    rw [entered]
    exact ⟨h.1, pushed.canonical⟩
  have sp : s.get .sp - 2 + 2 = s.get .sp := sub_add_cancel ..
  rw [leaveFrame_eq ordinary, bp, saved, sp, entered]
  rfl

/-! ## BOUND, R224 -/

/-- BOUND compares the register with the two words of its operand, signed. -/
theorem exec_bound {s : State} (h : s.Ordinary) (h6 : s.is186 = true) (r : Reg) {rm : Rm} (mem : rm.wellFormedMem = true) :
    let bound (k : Word) : Int :=
      (BitVec.ofNat 16 (s.mem.number (operandBytes s.is186 .word (eaSeg s rm) (eaOff s rm + k)))).toInt
    exec (.bound r rm) s =
      .next (if bound 0 ≤ (s.get r).toInt ∧ (s.get r).toInt ≤ bound 2 then s else interrupt 5 s.ip s) := by
  intro bound
  have step : exec (.bound r rm) s = only186 s (boundCheck r rm) := by
    cases rm with
    | reg => cases mem
    | ind | disp8 | disp16 | direct => rfl
  have first : eaOff s rm + 0 = eaOff s rm := BitVec.add_zero _
  have check : boundCheck r rm s =
      if bound 0 ≤ (s.get r).toInt ∧ (s.get r).toInt ≤ bound 2 then s else interrupt 5 s.ip s := by
    rw [boundCheck, readRmPointer_ordinary h, ← ite_not]
    simp only [bound, first, not_and_or, not_le]
  rw [step, only186_of_true h6, check]

/-- Settles O35: ENTER is the pushes of `State.enterWords`, LEAVE a pop from BP, BOUND two signed comparisons. -/
theorem highLevelInstructions : Obligations.HighLevelInstructions := by
  refine ⟨fun _ _ => rfl, rfl, fun _ _ => rfl, fun s size level h h6 => ⟨⟨enterFrame size level s, only186_of_true h6 _, ?_⟩, ?_,
    fun r rm mem => ?_⟩⟩
  · have pushed := pushWords_pushed (s.enterWords level) h (s.length_enterWords_le level)
    have undone := leaveFrame_enterFrame h size level
    rw [enterFrame_frame h] at undone ⊢
    refine ⟨rfl, pushed.words 0 (Nat.succ_pos _), fun k => enterWords_copied_bytes h, fun nested => ?_, fun a outside _ => ?_,
      _, exec_leave h6, undone⟩
    · have last := pushed.words level.toNat (by rw [State.length_enterWords]; omega)
      rw [s.getElem_enterWords_last nested] at last
      exact last
    · refine pushed.kept a fun k hk inside => outside (List.mem_flatMap.2 ⟨k, List.mem_range.2 ?_, inside⟩)
      rwa [State.length_enterWords] at hk
  · rw [exec_leave h6, leaveFrame_eq h]
    rfl
  · rw [exec_bound h h6 r mem]
    exact ⟨fun within => congrArg _ (if_pos within), fun outside => congrArg _ (if_neg outside)⟩

end Sys2Proof.Machine

/-! SUPPORT. ESC on the CPU's side (46_processor_control.md R239): each 8087 instruction is the ESC of its code (48_npx_8087_instructions.md
R424), and what an ESC does when it traps and when no 8087 is there. -/

namespace Sys2Proof.Machine

/-! ## The 8087 instructions are escapes, R424 -/

theorem escMemory_eq_escape (x : BitVec 6) {rm : Rm} (mem : rm.wellFormedMem = true) (op : NpxOp) (s : State) :
    escMemory x rm op s = escape x rm (some op) s := by
  cases rm with
  | reg => cases mem
  | ind | disp8 | disp16 | direct => rfl

theorem exec_npxMemoryForms : ∀ p ∈ npxMemoryForms, ∀ rm s, exec (p.1 rm) s = escMemory p.2.1 rm p.2.2 s := by
  have arms : npxMemoryForms.map (fun p rm => exec (p.1 rm)) = npxMemoryForms.map fun p rm => escMemory p.2.1 rm p.2.2 := rfl
  exact fun p hp rm s => congrFun₂ (List.map_inj_left.1 arms p hp) rm s

theorem exec_npxStackForms : ∀ p ∈ npxStackForms, ∀ k s, exec (p.1 k) s = escRegister p.2.1 k (p.2.2 k) s := by
  have arms : npxStackForms.map (fun p k => exec (p.1 k)) = npxStackForms.map fun p k => escRegister p.2.1 k (p.2.2 k) := rfl
  exact fun p hp k s => congrFun₂ (List.map_inj_left.1 arms p hp) k s

theorem exec_npxFixedForms : ∀ p ∈ npxFixedForms, ∀ s, exec p.1 s = escRegister p.2.1 p.2.2.1 p.2.2.2 s := by
  have arms : npxFixedForms.map (fun p => exec p.1) = npxFixedForms.map fun p => escRegister p.2.1 p.2.2.1 p.2.2.2 := rfl
  exact fun p hp s => congrFun (List.map_inj_left.1 arms p hp) s

theorem exec_esc (x : BitVec 6) (rm : Rm) (s : State) : exec (.esc x rm) s = escape x rm none s := rfl

/-- Every 8087 instruction with its operands, and every ESC that names none (U37), is an escape. -/
theorem exec_eq_escape {i : Instr}
    (form : (∃ p ∈ npxMemoryForms, ∃ rm : Rm, rm.wellFormedMem = true ∧ i = p.1 rm) ∨ (∃ p ∈ npxStackForms, ∃ k, i = p.1 k)
      ∨ (∃ p ∈ npxFixedForms, i = p.1) ∨ ∃ x rm, i = .esc x rm) :
    ∃ x rm op, ∀ s, exec i s = escape x rm op s := by
  obtain ⟨p, hp, rm, mem, rfl⟩ | ⟨p, hp, k, rfl⟩ | ⟨p, hp, rfl⟩ | ⟨x, rm, rfl⟩ := form
  · exact ⟨p.2.1, rm, some p.2.2, fun s => (exec_npxMemoryForms p hp rm s).trans (escMemory_eq_escape _ mem _ s)⟩
  · exact ⟨p.2.1, .reg (Reg.ofBits k), some (p.2.2 k), exec_npxStackForms p hp k⟩
  · exact ⟨p.2.1, .reg (Reg.ofBits p.2.2.1), some p.2.2.2, exec_npxFixedForms p hp⟩
  · exact ⟨x, rm, none, exec_esc x rm⟩

/-! ## What an escape does, R239 and 60_exceptions.md R271 -/

theorem State.escTraps_of_set {s : State} (h6 : s.is186 = true) (et : s.pcb.reloc.getLsbD 15 = true) : s.escTraps = true :=
  Bool.and_eq_true_iff.2 ⟨h6, et⟩

theorem State.escTraps_of_clear {s : State} (et : s.is186 = true → s.pcb.reloc.getLsbD 15 = false) : s.escTraps = false := by
  cases h6 : s.is186 with
  | false => rw [State.escTraps, h6, Bool.false_and]
  | true => rw [State.escTraps, Pcb.escTrap, et h6, Bool.and_false]

theorem State.escIp_eq (s : State) :
    s.escIp = match s.ctl.latches.seg with
      | some _ => s.ctl.segIp
      | none => s.ctl.opIp := by
  unfold State.escIp
  cases s.ctl.latches.seg <;> rfl

theorem escape_traps {s : State} (traps : s.escTraps = true) (x : BitVec 6) (rm : Rm) (op : Option NpxOp) :
    escape x rm op s = .next (interrupt 7 s.escIp s) := if_pos traps

/-- On ordinary memory the dummy read of an escape changes nothing. -/
theorem dummyRead_plain {s : State} (h : s.PlainMemory) (rm : Rm) : (dummyRead rm s).2 = s := by
  cases rm with
  | reg => rfl
  | ind | disp8 | disp16 | direct => exact readMem_plain h ..

/-- Without an 8087 an escape that does not trap is its dummy read. -/
theorem escape_without_npx {s : State} (h : s.PlainMemory) (traps : s.escTraps = false) (npx : s.cfg.hasNpx = false)
    (x : BitVec 6) (rm : Rm) (op : Option NpxOp) : escape x rm op s = .next s := by
  simp [escape, traps, dummyRead_plain h, npx]

/-- Settles O42: whatever an escape means to the 8087, it traps with ET set, and without an 8087 it is its dummy read alone. -/
theorem escapesOfTheCpu : Obligations.EscapesOfTheCpu := by
  intro s i form
  obtain ⟨x, rm, op, escapes⟩ := exec_eq_escape form
  rw [escapes]
  refine ⟨fun h6 et => ?_, fun npx plain et => escape_without_npx plain (State.escTraps_of_clear et) npx x rm op⟩
  exact (escape_traps (State.escTraps_of_set h6 et) x rm op).trans
    (congrArg (fun ip => Host.Outcome.next (interrupt 7 ip s)) s.escIp_eq)

end Sys2Proof.Machine

/-! SUPPORT. What no agent but the 8087 itself does to the 8087 (47_npx_8087_state.md R312): an access of the bus marks its jobs as raced,
and changes nothing else of it. -/

namespace Sys2Proof.Machine

/-! ## The 8087 apart from the marks of a race -/

/-- A job without its mark of a race (U21). -/
def NpxJob.unmarked (j : NpxJob) : NpxJob := { j with raced := false }

/-- The 8087 without the marks of its jobs. -/
def Npx.unmarked (n : Npx) : Npx := { n with running := n.running.map .unmarked, queued := n.queued.map .unmarked }

@[simp] theorem NpxJob.unmarked_touch (a : Phys) (j : NpxJob) : (j.touch a).unmarked = j.unmarked := rfl

@[simp] theorem npxTouch_unmarked (a : Phys) (s : State) : (s.npxTouch a).npx.unmarked = s.npx.unmarked := by
  have queued : (s.npx.queued.map (NpxJob.touch a)).map NpxJob.unmarked = s.npx.queued.map NpxJob.unmarked := by
    rw [Option.map_map]
    rfl
  unfold State.npxTouch
  split
  · rfl
  next running => simp [Npx.unmarked, queued, running]

/-! ## Bus cycles -/

@[simp] theorem busRead8_npx (a : Phys) (s : State) : (busRead8 a s).2.npx = s.npx := by
  obtain ⟨n, tr, e⟩ := busRead8_only a s
  rw [e]

@[simp] theorem busWrite8_unmarked (a : Phys) (v : Byte) (s : State) : (busWrite8 a v s).npx.unmarked = s.npx.unmarked := by
  unfold busWrite8
  split <;> simp

@[simp] theorem portRead8_npx (p : Word) (s : State) : (portRead8 p s).2.npx = s.npx := by
  obtain ⟨n, tr, e⟩ := portRead8_only p s
  rw [e]

@[simp] theorem portWrite8_npx (p : Word) (v : Byte) (s : State) : (portWrite8 p v s).npx = s.npx := rfl

@[simp] theorem latchCa_npx (ch : Bool) (s : State) : (s.latchCa ch).npx = s.npx := by cases ch <;> rfl

@[simp] theorem touchCa_npx (mem : Bool) (a : Nat) (s : State) : (s.touchCa mem a).npx = s.npx := by
  unfold State.touchCa
  split <;> simp

@[simp] theorem busAccess_unmarked (c : BusAccess) (s : State) : (busAccess c s).npx.unmarked = s.npx.unmarked := by
  cases c <;> simp [busAccess]

theorem busAccesses_unmarked (l : List BusAccess) (s : State) :
    (l.foldl (fun u c => busAccess c u) s).npx.unmarked = s.npx.unmarked := by
  induction l generalizing s with
  | nil => rfl
  | cons c l ih => rw [List.foldl_cons, ih, busAccess_unmarked]

@[simp] theorem yieldBus_unmarked (joined : Bool) (s : State) : (s.yieldBus joined).npx.unmarked = s.npx.unmarked := by
  unfold State.yieldBus
  split
  · rfl
  · split
    · rfl
    · exact busAccesses_unmarked _ _

@[simp] theorem yieldHalf_unmarked (odd : Bool) (s : State) : (s.yieldHalf odd).npx.unmarked = s.npx.unmarked := by
  unfold State.yieldHalf
  split <;> simp

/-! ## The CPU and the DMA channels -/

@[simp] theorem readCycle_npx (a : Phys) (s : State) : (readCycle a s).2.npx = s.npx := by
  unfold readCycle
  split
  · rfl
  · simp

@[simp] theorem writeCycle_unmarked (a : Phys) (v : Byte) (s : State) : (writeCycle a v s).npx.unmarked = s.npx.unmarked := by
  unfold writeCycle
  split <;> simp

@[simp] theorem pcbRead_npx (off : Nat) (s : State) : (s.pcbRead off).2.npx = s.npx := by
  obtain ⟨p, n, e⟩ := pcbRead_only off s
  rw [e]

@[simp] theorem pcbWrite_npx (off : Nat) (v : Word) (s : State) : (s.pcbWrite off v).npx = s.npx := by
  obtain ⟨p, n, r, e⟩ := pcbWrite_only off v s
  rw [e]

@[simp] theorem memRead8_unmarked (a : Phys) (s : State) : (memRead8 a s).2.npx.unmarked = s.npx.unmarked := by simp [memRead8]

@[simp] theorem memWrite8_unmarked (a : Phys) (v : Byte) (s : State) : (memWrite8 a v s).npx.unmarked = s.npx.unmarked := by
  simp [memWrite8]

@[simp] theorem memRead16_unmarked (a a2 : Phys) (s : State) : (memRead16 a a2 s).2.npx.unmarked = s.npx.unmarked := by
  unfold memRead16 readWord
  split <;> simp

@[simp] theorem memWrite16_unmarked (a a2 : Phys) (v : Word) (s : State) : (memWrite16 a a2 v s).npx.unmarked = s.npx.unmarked := by
  unfold memWrite16 writeWord
  split <;> simp

@[simp] theorem inCycle_npx (p : Word) (s : State) : (inCycle p s).2.npx = s.npx := by
  unfold inCycle
  split
  · rfl
  · simp

@[simp] theorem outCycle_npx (p : Word) (v : Byte) (s : State) : (outCycle p v s).npx = s.npx := by
  unfold outCycle
  split <;> simp

@[simp] theorem ioRead8_unmarked (p : Word) (s : State) : (ioRead8 p s).2.npx.unmarked = s.npx.unmarked := by simp [ioRead8]

@[simp] theorem ioWrite8_unmarked (p : Word) (v : Byte) (s : State) : (ioWrite8 p v s).npx.unmarked = s.npx.unmarked := by simp [ioWrite8]

@[simp] theorem ioRead16_unmarked (p : Word) (s : State) : (ioRead16 p s).2.npx.unmarked = s.npx.unmarked := by
  unfold ioRead16 inWord
  split <;> simp

@[simp] theorem ioWrite16_unmarked (p : Word) (v : Word) (s : State) : (ioWrite16 p v s).npx.unmarked = s.npx.unmarked := by
  unfold ioWrite16 outWord
  split <;> simp

@[simp] theorem dmaFetch_unmarked (mem : Bool) (w : Width) (a : Phys) (s : State) : (dmaFetch mem w a s).2.npx.unmarked = s.npx.unmarked := by
  cases w <;> cases mem <;> simp [dmaFetch]

@[simp] theorem dmaDeposit_unmarked (mem : Bool) (w : Width) (a : Phys) (v : BitVec w.bits) (s : State) :
    (dmaDeposit mem w a v s).npx.unmarked = s.npx.unmarked := by
  cases w <;> cases mem <;> simp [dmaDeposit]

@[simp] theorem dmaTerminal_npx (ch : Bool) (s : State) : (dmaTerminal ch s).npx = s.npx := by
  unfold dmaTerminal
  dsimp only
  split <;> split <;> rfl

@[simp] theorem dmaTransfer_unmarked (ch : Bool) (s : State) : (dmaTransfer ch s).npx.unmarked = s.npx.unmarked := by
  unfold dmaTransfer
  dsimp only
  split <;> simp

/-- The acknowledge of an interrupt is cycles of the bus. -/
@[simp] theorem externalAck_unmarked (line : Nat) (type : Byte) (s : State) : (externalAck line type s).2.npx.unmarked = s.npx.unmarked := by
  simp [externalAck]

@[simp] theorem intAck_unmarked (s : State) : (intAck s).2.npx.unmarked = s.npx.unmarked := by
  unfold intAck masterAck slaveAck
  dsimp only
  split
  · split
    · split
      · split <;> simp [drawByte]
      · simp
    · split
      · simp [drawByte]
      · split
        · split <;> simp
        · simp
  · simp

/-! ## The 8089 -/

@[simp] theorem remoteRead8_npx (a : Nat) (s : State) : (remoteRead8 a s).2.npx = s.npx := by
  obtain ⟨n, es, e⟩ := remoteRead8_only a s
  rw [e]

@[simp] theorem remoteWrite8_npx (a : Nat) (v : Byte) (s : State) : (remoteWrite8 a v s).npx = s.npx := by
  obtain ⟨m, es, -, e⟩ := remoteWrite8_only a v s
  rw [e]

@[simp] theorem iopYield_unmarked (space : Bool) (s : State) : (s.iopYield space).npx.unmarked = s.npx.unmarked := by
  unfold State.iopYield
  split <;> simp

@[simp] theorem iopYieldHalf_unmarked (space odd : Bool) (s : State) : (s.iopYieldHalf space odd).npx.unmarked = s.npx.unmarked := by
  unfold State.iopYieldHalf
  split <;> simp

@[simp] theorem iopReadCycle_npx (space : Bool) (a : Phys) (s : State) : (iopReadCycle space a s).2.npx = s.npx := by
  unfold iopReadCycle
  split
  · simp
  · split <;> simp

@[simp] theorem iopWriteCycle_unmarked (space : Bool) (a : Phys) (v : Byte) (s : State) :
    (iopWriteCycle space a v s).npx.unmarked = s.npx.unmarked := by
  unfold iopWriteCycle
  split
  · simp
  · split <;> simp

@[simp] theorem iopRead8_unmarked (space : Bool) (a : Phys) (s : State) : (iopRead8 space a s).2.npx.unmarked = s.npx.unmarked := by
  simp [iopRead8]

@[simp] theorem iopWrite8_unmarked (space : Bool) (a : Phys) (v : Byte) (s : State) : (iopWrite8 space a v s).npx.unmarked = s.npx.unmarked := by
  simp [iopWrite8]

@[simp] theorem iopRead_npx (space : Bool) (k : Nat) (a : Phys) (s : State) : (iopRead space k a s).2.npx = s.npx := by
  induction k generalizing a s with
  | zero => rfl
  | succ k ih => simp [iopRead, ih]

@[simp] theorem iopRead16_unmarked (space : Bool) (a : Phys) (s : State) : (iopRead16 space a s).2.npx.unmarked = s.npx.unmarked := by
  simp [iopRead16]

@[simp] theorem iopWrite16_unmarked (space : Bool) (a : Phys) (v : Word) (s : State) : (iopWrite16 space a v s).npx.unmarked = s.npx.unmarked := by
  simp [iopWrite16]

@[simp] theorem iopBusy_unmarked (ch : Bool) (v : Byte) (s : State) : (iopBusy ch v s).npx.unmarked = s.npx.unmarked := by simp [iopBusy]

@[simp] theorem iopLocate_npx (ch : Bool) (m : IopMem) (n : Nat) (s : State) : (iopLocate ch m n s).2.npx = s.npx := rfl

@[simp] theorem iopReadAt_unmarked (w : Width) (p : IopPtr) (s : State) : (iopReadAt w p s).2.npx.unmarked = s.npx.unmarked := by
  cases w <;> simp [iopReadAt]

@[simp] theorem iopStoreCycle_unmarked (ch : Bool) (p : IopPtr) (v : Byte) (s : State) :
    (iopStoreCycle ch p v s).npx.unmarked = s.npx.unmarked := by
  unfold iopStoreCycle
  dsimp only
  split <;> simp

@[simp] theorem iopStoreAt_unmarked (ch : Bool) (w : Width) (p : IopPtr) (v : BitVec w.bits) (s : State) :
    (iopStoreAt ch w p v s).npx.unmarked = s.npx.unmarked := by
  cases w <;> simp [iopStoreAt]

@[simp] theorem iopLoad_unmarked (ch : Bool) (w : Width) (m : IopMem) (s : State) : (iopLoad ch w m s).2.npx.unmarked = s.npx.unmarked := by
  simp [iopLoad]

@[simp] theorem iopStore_unmarked (ch : Bool) (w : Width) (m : IopMem) (v : BitVec w.bits) (s : State) :
    (iopStore ch w m v s).npx.unmarked = s.npx.unmarked := by
  simp [iopStore]

@[simp] theorem iopModify_unmarked (ch : Bool) (w : Width) (m : IopMem) (f : BitVec w.bits → BitVec w.bits) (s : State) :
    (iopModify ch w m f s).npx.unmarked = s.npx.unmarked := by
  simp [iopModify]

@[simp] theorem iopMove_npx (ch : Bool) (w : Width) (r : IopReg) (v : BitVec w.bits) (s : State) : (iopMove ch w r v s).npx = s.npx := rfl

@[simp] theorem iopLogical_npx (ch : Bool) (w : Width) (r : IopReg) (v : BitVec w.bits) (s : State) : (iopLogical ch w r v s).npx = s.npx := rfl

@[simp] theorem iopAluReg_npx (ch : Bool) (op : IopAlu) (w : Width) (r : IopReg) (v : BitVec w.bits) (s : State) :
    (iopAluReg ch op w r v s).npx = s.npx := by
  cases op <;> rfl

@[simp] theorem iopStepReg_npx (ch : Bool) (r : IopReg) (d : Phys) (s : State) : (iopStepReg ch r d s).npx = s.npx := rfl

@[simp] theorem iopJump_npx (ch c : Bool) (disp : Word) (s : State) : (iopJump ch c disp s).npx = s.npx := by
  cases c <;> rfl

/-- A refusal that may stand against an instruction. -/
@[simp] theorem refuseIf_npx (c : Prop) [Decidable c] (r : Refusal) (s : State) : (if c then s.refuse r else s).npx = s.npx := by
  split <;> simp

@[simp] theorem iopStorePtr_unmarked (ch : Bool) (place v : IopPtr) (check : Bool) (s : State) :
    (iopStorePtr ch place v check s).npx.unmarked = s.npx.unmarked := by
  unfold iopStorePtr
  dsimp only
  cases check <;> simp

@[simp] theorem iopExec_unmarked (ch : Bool) (i : IopInstr) (s : State) : (iopExec ch i s).npx.unmarked = s.npx.unmarked := by
  cases i with
  | wid src dst =>
    unfold iopExec
    dsimp only
    split <;> simp
  | tsl m v disp =>
    unfold iopExec
    dsimp only
    split <;> simp
  | _ => simp [iopExec, iopHlt]

@[simp] theorem iopFetch_npx (ch : Bool) (s : State) : (iopFetch ch s).2.npx = s.npx := by simp [iopFetch]

@[simp] theorem iopEnter_npx (ch : Bool) (s : State) : (iopEnter ch s).npx = s.npx := by
  unfold iopEnter
  dsimp only
  split <;> simp

@[simp] theorem iopInstruction_unmarked (ch : Bool) (s : State) : (iopInstruction ch s).npx.unmarked = s.npx.unmarked := by
  unfold iopInstruction
  dsimp only
  split
  · simp
  · split
    · simp
    · split <;> simp

@[simp] theorem iopDmaByte_unmarked (ch : Bool) (s : State) : (iopDmaByte ch s).2.npx.unmarked = s.npx.unmarked := by simp [iopDmaByte]

@[simp] theorem iopDmaWord_unmarked (ch : Bool) (s : State) : (iopDmaWord ch s).2.npx.unmarked = s.npx.unmarked := by simp [iopDmaWord]

@[simp] theorem iopTranslate_unmarked (ch : Bool) (b : Byte) (s : State) : (iopTranslate ch b s).2.npx.unmarked = s.npx.unmarked := by
  unfold iopTranslate
  dsimp only
  split <;> simp

@[simp] theorem iopDmaFirst_unmarked (ch : Bool) (s : State) : (iopDmaFirst ch s).2.npx.unmarked = s.npx.unmarked := by
  unfold iopDmaFirst
  dsimp only
  split <;> simp

@[simp] theorem iopDmaStore_unmarked (ch word : Bool) (v : Word) (s : State) : (iopDmaStore ch word v s).npx.unmarked = s.npx.unmarked := by
  cases word <;> simp [iopDmaStore]

@[simp] theorem iopTerminate_npx (ch : Bool) (offset : Nat) (s : State) : (iopTerminate ch offset s).npx = s.npx := rfl

@[simp] theorem iopCutShort_npx (ch compare : Bool) (left : Nat) (s : State) : (iopCutShort ch compare left s).npx = s.npx := by
  simp [iopCutShort, drawAddr, drawNibble, drawWord]

@[simp] theorem iopDmaCheck_npx (ch : Bool) (h : IopHold) (s : State) : (iopDmaCheck ch h s).npx = s.npx := by
  unfold iopDmaCheck
  dsimp only
  split
  · simp
  · split <;> simp

@[simp] theorem iopExtWaiting_npx (ch : Bool) (s : State) : (iopExtWaiting ch s).npx = s.npx := by
  unfold iopExtWaiting
  dsimp only
  split <;> simp

@[simp] theorem iopDmaSecond_unmarked (ch : Bool) (h : IopHold) (s : State) : (iopDmaSecond ch h s).npx.unmarked = s.npx.unmarked := by
  unfold iopDmaSecond
  split <;> simp

@[simp] theorem iopTransfer_unmarked (ch : Bool) (s : State) : (iopTransfer ch s).npx.unmarked = s.npx.unmarked := by
  unfold iopTransfer
  dsimp only
  split
  · split <;> simp
  · split
    · simp [iopDmaBegin]
    · split <;> simp [iopDmaPut]

@[simp] theorem iopPointerAt_unmarked (a : Phys) (s : State) : (iopPointerAt a s).2.npx.unmarked = s.npx.unmarked := by simp [iopPointerAt]

@[simp] theorem iopStop_unmarked (ch : Bool) (keep : Byte) (s : State) : (iopStop ch keep s).npx.unmarked = s.npx.unmarked := by simp [iopStop]

@[simp] theorem iopAttend_unmarked (ch : Bool) (s : State) : (iopAttend ch s).npx.unmarked = s.npx.unmarked := by
  unfold iopAttend
  dsimp only
  split <;> simp [iopStart, iopResume, iopSaveState]

@[simp] theorem iopInitialize_unmarked (ch : Bool) (s : State) : (iopInitialize ch s).npx.unmarked = s.npx.unmarked := by
  simp [iopInitialize]

@[simp] theorem iopAttention_unmarked (ch : Bool) (s : State) : (iopAttention ch s).npx.unmarked = s.npx.unmarked := by
  unfold iopAttention
  dsimp only
  split <;> simp

@[simp] theorem iopStep_unmarked (ch : Bool) (s : State) : (iopStep ch s).npx.unmarked = s.npx.unmarked := by
  have turn : (if (s.chan ch).checking then s else { s with iop := { s.iop with lastTwo := ch } }).npx = s.npx := by
    split <;> rfl
  unfold iopStep
  dsimp only
  generalize (if (s.chan ch).checking then s else { s with iop := { s.iop with lastTwo := ch } }) = m at turn ⊢
  split
  · split
    · simp [turn]
    · split <;> simp [turn]
  · rfl

end Sys2Proof.Machine

/-! SUPPORT. The 8087's register stack (47_npx_8087_state.md R320 to R324): what each update of a tag, of the top, of a register and of
the condition code leaves, said once. -/

namespace Sys2Proof.Machine

/-! ## Fields -/

@[simp] theorem Npx.setTag_r (k : BitVec 3) (t : BitVec 2) (n : Npx) : (n.setTag k t).r = n.r := rfl
@[simp] theorem Npx.setTag_sw (k : BitVec 3) (t : BitVec 2) (n : Npx) : (n.setTag k t).sw = n.sw := rfl
@[simp] theorem Npx.setTop_r (t : BitVec 3) (n : Npx) : (n.setTop t).r = n.r := rfl
@[simp] theorem Npx.setTop_tw (t : BitVec 3) (n : Npx) : (n.setTop t).tw = n.tw := rfl
@[simp] theorem Npx.put_sw (k : BitVec 3) (v : TempReal) (t : BitVec 2) (n : Npx) : (n.put k v t).sw = n.sw := rfl
@[simp] theorem Npx.write_sw (i : BitVec 3) (v : TempReal) (n : Npx) : (n.write i v).sw = n.sw := rfl
@[simp] theorem Npx.setCc_r (c3 c2 c1 c0 : Bool) (n : Npx) : (n.setCc c3 c2 c1 c0).r = n.r := rfl
@[simp] theorem Npx.setCc_tw (c3 c2 c1 c0 : Bool) (n : Npx) : (n.setCc c3 c2 c1 c0).tw = n.tw := rfl

/-! ## The status word, R321 -/

/-- The ST field takes bits 13 to 11. -/
theorem Npx.getLsbD_sw_setTop (t : BitVec 3) (n : Npx) (i : Nat) :
    (n.setTop t).sw.getLsbD i = if 11 ≤ i ∧ i < 14 then t.getLsbD (i - 11) else n.sw.getLsbD i := by
  by_cases hi : i < 16
  · simp only [Npx.setTop]
    interval_cases i <;> simp
  · rw [BitVec.getLsbD_of_ge _ _ (by omega), BitVec.getLsbD_of_ge n.sw _ (by omega), if_neg (by omega)]

/-- The condition code takes bits 14 and 10 to 8. -/
theorem Npx.getLsbD_sw_setCc (c3 c2 c1 c0 : Bool) (n : Npx) (i : Nat) :
    (n.setCc c3 c2 c1 c0).sw.getLsbD i
      = if i = 14 then c3 else if i = 10 then c2 else if i = 9 then c1 else if i = 8 then c0 else n.sw.getLsbD i := by
  by_cases hi : i < 16
  · simp only [Npx.setCc]
    interval_cases i <;> cases c3 <;> cases c2 <;> cases c1 <;> cases c0 <;> simp
  · rw [BitVec.getLsbD_of_ge _ _ (by omega), BitVec.getLsbD_of_ge n.sw _ (by omega), if_neg (by omega), if_neg (by omega), if_neg (by omega),
      if_neg (by omega)]

/-- The ST field read bit by bit. -/
theorem Npx.getLsbD_top (n : Npx) (i : Nat) : n.top.getLsbD i = (decide (i < 3) && n.sw.getLsbD (11 + i)) := by
  rw [Npx.top, BitVec.getLsbD_extractLsb']

/-- The top depends on the ST field alone. -/
theorem Npx.top_congr {n m : Npx} (h : ∀ i, 11 ≤ i → i < 14 → m.sw.getLsbD i = n.sw.getLsbD i) : m.top = n.top := by
  refine BitVec.eq_of_getLsbD_eq fun i hi => ?_
  rw [Npx.getLsbD_top, Npx.getLsbD_top, h _ (by omega) (by omega)]

@[simp] theorem Npx.top_setTop (t : BitVec 3) (n : Npx) : (n.setTop t).top = t := by
  refine BitVec.eq_of_getLsbD_eq fun i hi => ?_
  rw [Npx.getLsbD_top, Npx.getLsbD_sw_setTop, if_pos (by omega)]
  simp [hi]

@[simp] theorem Npx.top_setCc (c3 c2 c1 c0 : Bool) (n : Npx) : (n.setCc c3 c2 c1 c0).top = n.top :=
  Npx.top_congr fun i h h' => by
    rw [Npx.getLsbD_sw_setCc, if_neg (by omega), if_neg (by omega), if_neg (by omega), if_neg (by omega)]

@[simp] theorem Npx.top_setTag (k : BitVec 3) (t : BitVec 2) (n : Npx) : (n.setTag k t).top = n.top := rfl
@[simp] theorem Npx.top_put (k : BitVec 3) (v : TempReal) (t : BitVec 2) (n : Npx) : (n.put k v t).top = n.top := rfl
@[simp] theorem Npx.top_write (i : BitVec 3) (v : TempReal) (n : Npx) : (n.write i v).top = n.top := rfl
@[simp] theorem Npx.top_pop (n : Npx) : n.pop.top = n.top + 1 := by simp [Npx.pop]
@[simp] theorem Npx.top_popIf (c : Bool) (n : Npx) : (n.popIf c).top = n.top + (if c then 1 else 0) := by
  cases c <;> simp [Npx.popIf]
@[simp] theorem Npx.top_pushRaw (v : TempReal) (n : Npx) : (n.pushRaw v).top = n.top - 1 := by simp [Npx.pushRaw]

@[simp] theorem Npx.top_freeCc (free : NpxFree) (n : Npx) : (n.freeCc free).top = n.top := Npx.top_setCc ..

/-! ## Registers -/

@[simp] theorem Npx.reg_put (k : BitVec 3) (v : TempReal) (t : BitVec 2) (n : Npx) (j : BitVec 3) :
    (n.put k v t).reg j = if j = k then v else n.reg j := by
  simp only [Npx.put, Npx.reg, Npx.setTag_r, Vector.getElem_set]
  by_cases h : j = k
  · simp [h]
  · rw [if_neg (fun e => h (BitVec.eq_of_toNat_eq e.symm)), if_neg h]

theorem Npx.reg_congr {n m : Npx} (h : m.r = n.r) (j : BitVec 3) : m.reg j = n.reg j := by simp only [Npx.reg, h]

@[simp] theorem Npx.reg_write (i : BitVec 3) (v : TempReal) (n : Npx) (j : BitVec 3) :
    (n.write i v).reg j = if j = n.phys i then v else n.reg j := Npx.reg_put ..
@[simp] theorem Npx.reg_setTag (k : BitVec 3) (t : BitVec 2) (n : Npx) (j : BitVec 3) : (n.setTag k t).reg j = n.reg j := rfl
@[simp] theorem Npx.reg_setTop (t : BitVec 3) (n : Npx) (j : BitVec 3) : (n.setTop t).reg j = n.reg j := rfl
@[simp] theorem Npx.reg_setCc (c3 c2 c1 c0 : Bool) (n : Npx) (j : BitVec 3) : (n.setCc c3 c2 c1 c0).reg j = n.reg j := rfl
@[simp] theorem Npx.reg_freeCc (free : NpxFree) (n : Npx) (j : BitVec 3) : (n.freeCc free).reg j = n.reg j := rfl
@[simp] theorem Npx.reg_pop (n : Npx) (j : BitVec 3) : n.pop.reg j = n.reg j := rfl
@[simp] theorem Npx.reg_popIf (c : Bool) (n : Npx) (j : BitVec 3) : (n.popIf c).reg j = n.reg j := by cases c <;> rfl
@[simp] theorem Npx.reg_pushRaw (v : TempReal) (n : Npx) (j : BitVec 3) :
    (n.pushRaw v).reg j = if j = n.top - 1 then v else n.reg j := by
  simp [Npx.pushRaw, Npx.phys]

/-! ## Tags, R323 -/

theorem Npx.getLsbD_tag (n : Npx) (k : BitVec 3) (i : Nat) : (n.tag k).getLsbD i = (decide (i < 2) && n.tw.getLsbD (2 * k.toNat + i)) := by
  rw [Npx.tag, BitVec.getLsbD_extractLsb']

/-- The bits of the tag word apart from a tag that is set. -/
theorem Npx.getLsbD_tw_setTag (k : BitVec 3) (t : BitVec 2) (n : Npx) (i : Nat) :
    (n.setTag k t).tw.getLsbD i = if 2 * k.toNat ≤ i ∧ i < 2 * k.toNat + 2 then t.getLsbD (i - 2 * k.toNat) else n.tw.getLsbD i := by
  have hk := k.isLt
  by_cases hi : i < 16
  · have three (j : Nat) : (3 : Word).getLsbD j = decide (j < 2) := by
      by_cases hj : j < 16
      · interval_cases j <;> rfl
      · rw [BitVec.getLsbD_of_ge _ _ (by omega), decide_eq_false (by omega)]
    simp only [Npx.setTag, BitVec.getLsbD_or, BitVec.getLsbD_and, BitVec.getLsbD_not, BitVec.getLsbD_shiftLeft, BitVec.getLsbD_setWidth, three, hi]
    by_cases low : i < 2 * k.toNat
    · simp [low, show ¬2 * k.toNat ≤ i by omega]
    · by_cases high : i < 2 * k.toNat + 2
      · simp [low, high, show 2 * k.toNat ≤ i by omega, show i - 2 * k.toNat < 2 by omega, show i - 2 * k.toNat < 16 by omega]
      · simp [low, high, show ¬i - 2 * k.toNat < 2 by omega, BitVec.getLsbD_of_ge t _ (show 2 ≤ i - 2 * k.toNat by omega)]
  · rw [BitVec.getLsbD_of_ge _ _ (by omega), BitVec.getLsbD_of_ge n.tw _ (by omega), if_neg (by omega)]

@[simp] theorem Npx.tag_setTag (k : BitVec 3) (t : BitVec 2) (n : Npx) (j : BitVec 3) :
    (n.setTag k t).tag j = if j = k then t else n.tag j := by
  refine BitVec.eq_of_getLsbD_eq fun i hi => ?_
  rw [Npx.getLsbD_tag, Npx.getLsbD_tw_setTag]
  by_cases h : j = k
  · subst h
    simp [hi]
  · have : j.toNat ≠ k.toNat := fun e => h (BitVec.eq_of_toNat_eq e)
    rw [if_neg (by omega), if_neg h, Npx.getLsbD_tag]

theorem Npx.tag_congr {n m : Npx} (h : m.tw = n.tw) (j : BitVec 3) : m.tag j = n.tag j := by simp only [Npx.tag, h]

@[simp] theorem Npx.tag_setTop (t : BitVec 3) (n : Npx) (j : BitVec 3) : (n.setTop t).tag j = n.tag j := rfl
@[simp] theorem Npx.tag_setCc (c3 c2 c1 c0 : Bool) (n : Npx) (j : BitVec 3) : (n.setCc c3 c2 c1 c0).tag j = n.tag j := rfl
@[simp] theorem Npx.tag_freeCc (free : NpxFree) (n : Npx) (j : BitVec 3) : (n.freeCc free).tag j = n.tag j := rfl
@[simp] theorem Npx.tag_put (k : BitVec 3) (v : TempReal) (t : BitVec 2) (n : Npx) (j : BitVec 3) :
    (n.put k v t).tag j = if j = k then t else n.tag j := Npx.tag_setTag k t _ j
@[simp] theorem Npx.tag_write (i : BitVec 3) (v : TempReal) (n : Npx) (j : BitVec 3) :
    (n.write i v).tag j = if j = n.phys i then tagOf v else n.tag j := Npx.tag_put ..
@[simp] theorem Npx.tag_pop (n : Npx) (j : BitVec 3) : n.pop.tag j = if j = n.top then 3 else n.tag j := by simp [Npx.pop]
@[simp] theorem Npx.tag_popIf (c : Bool) (n : Npx) (j : BitVec 3) :
    (n.popIf c).tag j = if c ∧ j = n.top then 3 else n.tag j := by
  cases c <;> simp [Npx.popIf]
@[simp] theorem Npx.tag_pushRaw (v : TempReal) (n : Npx) (j : BitVec 3) :
    (n.pushRaw v).tag j = if j = n.top - 1 then tagOf v else n.tag j := by
  simp [Npx.pushRaw, Npx.phys]

/-- Two tag words with equal tags are equal. -/
theorem Npx.tw_ext {n m : Npx} (h : ∀ j, m.tag j = n.tag j) : m.tw = n.tw := by
  refine BitVec.eq_of_getLsbD_eq fun i hi => ?_
  have bit (p : Npx) : p.tw.getLsbD i = (p.tag (BitVec.ofNat 3 (i / 2))).getLsbD (i % 2) := by
    rw [Npx.getLsbD_tag, BitVec.toNat_ofNat, show 2 * (i / 2 % 2 ^ 3) + i % 2 = i by omega, decide_eq_true (Nat.mod_lt i (by decide)), Bool.true_and]
  rw [bit m, bit n, h]

/-- ST(i) read by its number. -/
theorem Npx.st_eq (n : Npx) (i : BitVec 3) : n.st i = n.reg (n.top + i) := rfl

/-! ## What an operation of the numeric unit can change -/

/-- Registers, tags, top and condition code may change, nothing else. -/
structure Npx.Works (n m : Npx) : Prop where
  rest : m = { n with r := m.r, tw := m.tw, sw := m.sw }
  sw   : ∀ i, i < 8 ∨ i = 15 → m.sw.getLsbD i = n.sw.getLsbD i

namespace Npx.Works

variable {n m p : Npx}

theorem refl (n : Npx) : n.Works n := ⟨rfl, fun _ _ => rfl⟩

theorem trans (h : n.Works m) (k : m.Works p) : n.Works p := by
  refine ⟨?_, fun i hi => (k.sw i hi).trans (h.sw i hi)⟩
  rw [k.rest, h.rest]

theorem cw (h : n.Works m) : m.cw = n.cw := by rw [h.rest]
theorem running (h : n.Works m) : m.running = n.running := by rw [h.rest]
theorem queued (h : n.Works m) : m.queued = n.queued := by rw [h.rest]

theorem then_setTag (h : n.Works m) (k : BitVec 3) (t : BitVec 2) : n.Works (m.setTag k t) := h.trans ⟨rfl, fun _ _ => rfl⟩

theorem then_setTop (h : n.Works m) (t : BitVec 3) : n.Works (m.setTop t) :=
  h.trans ⟨rfl, fun i hi => by rw [Npx.getLsbD_sw_setTop, if_neg (by omega)]⟩

theorem then_setCc (h : n.Works m) (c3 c2 c1 c0 : Bool) : n.Works (m.setCc c3 c2 c1 c0) :=
  h.trans ⟨rfl, fun i hi => by
    rw [Npx.getLsbD_sw_setCc, if_neg (by omega), if_neg (by omega), if_neg (by omega), if_neg (by omega)]⟩

theorem then_freeCc (h : n.Works m) (free : NpxFree) : n.Works (m.freeCc free) := h.then_setCc ..
theorem then_put (h : n.Works m) (k : BitVec 3) (v : TempReal) (t : BitVec 2) : n.Works (m.put k v t) := h.trans ⟨rfl, fun _ _ => rfl⟩
theorem then_write (h : n.Works m) (i : BitVec 3) (v : TempReal) : n.Works (m.write i v) := h.then_put ..
theorem then_pop (h : n.Works m) : n.Works m.pop := (h.then_setTag _ _).then_setTop _
theorem then_pushRaw (h : n.Works m) (v : TempReal) : n.Works (m.pushRaw v) := (h.then_setTop _).then_write 0 v

theorem then_popIf (h : n.Works m) (c : Bool) : n.Works (m.popIf c) := by
  cases c
  · exact h
  · exact h.then_pop

theorem then_settleCc (h : n.Works m) (op : NpxOp) (free : NpxFree) : n.Works (op.settleCc free m) := by
  unfold NpxOp.settleCc
  split
  · exact h
  · exact h.then_freeCc free

end Npx.Works

/-! ## The numeric operations -/

section
variable {n : Npx}

/-- Either the operation is stopped by what was found before it, or goes on. -/
theorem Npx.works_reply (before : BitVec 6) {k : NpxResult} (h : n.Works k.1) : n.Works (n.reply before k).1 := by
  unfold Npx.reply
  split
  · exact .refl n
  · exact h

theorem Npx.works_push (v : TempReal) : n.Works (n.push v).1 := Npx.works_reply _ ((Works.refl n).then_pushRaw _)

theorem Npx.works_deliverTo (i : BitVec 3) (pop : Bool) (a : NpxAnswer) : n.Works (n.deliverTo i pop a).1 :=
  Npx.works_reply _ (((Works.refl n).then_write i _).then_popIf pop)

theorem Npx.works_unary (f : TempReal → NpxAnswer) : n.Works (n.unary f).1 := Npx.works_deliverTo _ _ _

theorem Npx.works_binary (i : BitVec 3) (pop : Bool) (f : TempReal → TempReal → NpxAnswer) : n.Works (n.binary i pop f).1 :=
  Npx.works_deliverTo _ _ _

theorem Npx.works_arithReg (fr : TempReal) (op : NpxArith) (d s : BitVec 3) (pop : Bool) : n.Works (n.arithReg fr op d s pop).1 :=
  Npx.works_deliverTo _ _ _

theorem Npx.works_arithMem (fr : TempReal) (op : NpxArith) (int : Bool) (o : NpxOperand) : n.Works (n.arithMem fr op int o).1 :=
  Npx.works_deliverTo _ _ _

theorem Npx.works_compareWith (free : NpxFree) (a : CompareAnswer) (pops : Nat) : n.Works (n.compareWith free a pops).1 :=
  Npx.works_reply _ ((((Works.refl n).then_setCc _ _ _ _).then_popIf _).then_popIf _)

theorem Npx.works_loadSt (i : BitVec 3) : n.Works (n.loadSt i).1 := by
  unfold Npx.loadSt
  split <;> exact Npx.works_reply _ (Npx.works_push _)

theorem Npx.works_storeSt (i : BitVec 3) (pop : Bool) : n.Works (n.storeSt i pop).1 := by
  unfold Npx.storeSt
  split
  · exact Npx.works_deliverTo ..
  · exact ((Works.refl n).then_put _ _ _).then_popIf pop

theorem Npx.works_exchange (i : BitVec 3) : n.Works (n.exchange i).1 := by
  have fill (k : BitVec 3) {m : Npx} (h : n.Works m) : n.Works (if m.isEmpty k then m.write k npxIndef else m) := by
    split
    · exact h.then_write k _
    · exact h
  exact Npx.works_reply _ (((fill i (fill 0 (.refl n))).then_put _ _ _).then_put _ _ _)

theorem Npx.works_prem (free : NpxFree) : n.Works (n.prem free).1 := by
  unfold Npx.prem
  dsimp only
  refine Npx.works_reply _ ?_
  dsimp only
  split <;> exact ((Works.refl n).then_write _ _).then_setCc _ _ _ _

theorem Npx.works_replaceAndPush (before : BitVec 6) (x y : TempReal) (after : BitVec 6) :
    n.Works (n.reply before ((n.write 0 x).pushRaw y, after)).1 :=
  Npx.works_reply _ (((Works.refl n).then_write 0 x).then_pushRaw y)

theorem Npx.works_xtract : n.Works n.xtract.1 := by
  unfold Npx.xtract
  dsimp only
  split
  · exact Npx.works_replaceAndPush ..
  · split <;> exact Npx.works_replaceAndPush ..

theorem Npx.works_setSign (f : Bool → Bool) : n.Works (n.setSign f).1 := by
  unfold Npx.setSign
  dsimp only
  split
  · exact Npx.works_deliverTo ..
  · exact (Works.refl n).then_put _ _ _

theorem Npx.works_examine (free : NpxFree) : n.Works (n.examine free).1 := by
  unfold Npx.examine
  dsimp only
  split
  · exact (Works.refl n).then_setCc _ _ _ _
  · split <;> exact (Works.refl n).then_setCc _ _ _ _

/-- Every operation of the numeric unit works on registers, tags, top and condition code alone. -/
theorem Npx.works_numeric (op : NpxOp) (data : TempReal) (free : NpxFree) : n.Works (n.numeric op data free).1 := by
  cases op <;> dsimp only [Npx.numeric]
  case load f => exact Npx.works_reply _ (Npx.works_push _)
  case loadSt i => exact Npx.works_loadSt i
  case storeSt i pop => exact Npx.works_storeSt i pop
  case exchange i => exact Npx.works_exchange i
  case arithMem => exact Npx.works_arithMem _ _ _ _
  case arithSt | arithSti => exact Npx.works_arithReg _ _ _ _ _
  case sqrt | rndint | f2xm1 => exact Npx.works_unary _
  case scale | patan | yl2x | yl2xp1 => exact Npx.works_binary _ _ _
  case compareMem | compareSt | test => exact Npx.works_compareWith _ _ _
  case examine => exact Npx.works_examine free
  case const c => exact Npx.works_push _
  case prem => exact Npx.works_prem free
  case xtract => exact Npx.works_xtract
  case abs | chs => exact Npx.works_setSign _
  case ptan => exact Npx.works_replaceAndPush ..
  case incstp | decstp => exact (Works.refl n).then_setTop _
  case free i => exact (Works.refl n).then_setTag _ _
  case store | init | disi | eni | ldcw | stcw | stsw | clex | save | rstor | stenv | ldenv | nop => exact .refl n

end

/-! ## The end of an operation, R318, R350 -/

@[simp] theorem Npx.finish_r (p : NpxResult) : (Npx.finish p).r = p.1.r := rfl
@[simp] theorem Npx.finish_tw (p : NpxResult) : (Npx.finish p).tw = p.1.tw := rfl
@[simp] theorem Npx.finish_cw (p : NpxResult) : (Npx.finish p).cw = p.1.cw := rfl
@[simp] theorem Npx.finish_running (p : NpxResult) : (Npx.finish p).running = p.1.running := rfl
@[simp] theorem Npx.finish_queued (p : NpxResult) : (Npx.finish p).queued = p.1.queued := rfl
@[simp] theorem Npx.reg_finish (p : NpxResult) (j : BitVec 3) : (Npx.finish p).reg j = p.1.reg j := rfl
@[simp] theorem Npx.tag_finish (p : NpxResult) (j : BitVec 3) : (Npx.finish p).tag j = p.1.tag j := rfl

/-- The six flags are added, IR and B are set if one of those raised is unmasked, and B becomes 0 if none is. -/
theorem Npx.getLsbD_sw_finish (n : Npx) (e : BitVec 6) (i : Nat) :
    (Npx.finish (n, e)).sw.getLsbD i
      = if i = 15 then decide (unmasked n.cw e ≠ 0) else n.sw.getLsbD i || e.getLsbD i || (decide (i = 7) && decide (unmasked n.cw e ≠ 0)) := by
  by_cases hi : i < 16
  · by_cases h : unmasked n.cw e = 0
    · rw [decide_eq_false (not_not.2 h)]
      simp only [Npx.finish, if_pos h]
      interval_cases i <;> simp
    · rw [decide_eq_true h]
      simp only [Npx.finish, if_neg h]
      interval_cases i <;> simp
  · rw [BitVec.getLsbD_of_ge _ _ (by omega), BitVec.getLsbD_of_ge n.sw _ (by omega), BitVec.getLsbD_of_ge e _ (by omega), if_neg (by omega),
      decide_eq_false (show ¬i = 7 by omega)]
    rfl

@[simp] theorem Npx.top_finish (n : Npx) (e : BitVec 6) : (Npx.finish (n, e)).top = n.top :=
  Npx.top_congr fun i h h' => by
    rw [Npx.getLsbD_sw_finish, if_neg (by omega), BitVec.getLsbD_of_ge e _ (by omega), decide_eq_false (show ¬i = 7 by omega)]
    simp

/-- FLDCW, FLDENV and FRSTOR end with B exactly as IR. -/
theorem Npx.busy_react (n : Npx) : n.react.sw.getLsbD 15 = n.react.sw.getLsbD 7 := by
  unfold Npx.react
  dsimp only
  split
  · simp
  · split
    next request => simpa using request.symm
    next none => simpa using (Bool.eq_false_iff.2 none).symm

end Sys2Proof.Machine

/-! SUPPORT. The 8087 is BUSY whenever it requests an interrupt (47_npx_8087_state.md R315, R318; D27): what each operation does to IR and
BUSY, and to the operations that run and wait. -/

namespace Sys2Proof.Machine

/-! ## The rule and the marks of a race -/

theorem map_unmarked_eq_some {o o' : Option NpxJob} {q : NpxJob} (e : o'.map NpxJob.unmarked = o.map NpxJob.unmarked) (h : o' = some q) :
    ∃ p, o = some p ∧ p.op = q.op := by
  rw [h, Option.map_some, eq_comm, Option.map_eq_some_iff] at e
  obtain ⟨p, hp, same⟩ := e
  have op := congrArg NpxJob.op same
  exact ⟨p, hp, op⟩

/-- The rule does not look at the marks. -/
theorem Npx.BusyWithRequest.of_unmarked {n m : Npx} (h : n.BusyWithRequest) (e : m.unmarked = n.unmarked) : m.BusyWithRequest := by
  obtain ⟨request, running, queued⟩ := h
  have sw : m.sw = n.sw := by
    have sw := congrArg Npx.sw e
    exact sw
  refine ⟨by rw [sw]; exact request, fun runs => ?_, fun q hq => ?_⟩
  · rw [sw]
    obtain ⟨j, hj⟩ := Option.ne_none_iff_exists'.1 runs
    obtain ⟨p, hp, -⟩ := map_unmarked_eq_some (congrArg Npx.running e) hj
    exact running (by rw [hp]; exact Option.some_ne_none p)
  · obtain ⟨p, hp, op⟩ := map_unmarked_eq_some (congrArg Npx.queued e) hq
    rw [← op]
    exact queued p hp

/-- No operation runs, and the rule holds. -/
structure Npx.Rests (n : Npx) : Prop where
  running : n.running = none
  rule    : n.BusyWithRequest

/-- What an operation finds that an idle numeric unit executes: no request stands unless it is one of the control unit. -/
structure Npx.Idle (n : Npx) (op : NpxOp) : Prop extends n.Rests where
  request : op.noWait = false → n.sw.getLsbD 7 = false

theorem Npx.Rests.idle {n : Npx} (h : n.Rests) {op : NpxOp} (control : op.noWait = true) : n.Idle op :=
  ⟨h, fun numeric => absurd control (Bool.eq_false_iff.1 numeric)⟩

/-- The rule rests on IR, BUSY, and the operations that run and wait. -/
theorem Npx.BusyWithRequest.of_eq {n m : Npx} (h : n.BusyWithRequest) (request : m.sw.getLsbD 7 = n.sw.getLsbD 7)
    (busy : m.sw.getLsbD 15 = n.sw.getLsbD 15) (running : m.running = n.running) (queued : m.queued = n.queued) : m.BusyWithRequest := by
  unfold Npx.BusyWithRequest
  rw [request, busy, running, queued]
  exact h

/-- With nothing running it is that a request keeps BUSY, and what waits. -/
theorem Npx.Rests.of_request {n m : Npx} (h : n.Rests) (request : m.sw.getLsbD 7 = true → m.sw.getLsbD 15 = true)
    (running : m.running = n.running) (queued : m.queued = n.queued) : m.Rests := by
  have stopped : m.running = none := running.trans h.running
  exact ⟨stopped, request, fun runs => absurd stopped runs, by rw [queued]; exact h.rule.2.2⟩

theorem Npx.Rests.of_eq {n m : Npx} (h : n.Rests) (request : m.sw.getLsbD 7 = n.sw.getLsbD 7)
    (busy : m.sw.getLsbD 15 = n.sw.getLsbD 15) (running : m.running = n.running) (queued : m.queued = n.queued) : m.Rests :=
  ⟨running.trans h.running, h.rule.of_eq request busy running queued⟩

theorem Npx.Works.busyWithRequest {n m : Npx} (k : n.Works m) (h : n.BusyWithRequest) : m.BusyWithRequest :=
  h.of_eq (k.sw 7 (.inl (by decide))) (k.sw 15 (.inr rfl)) k.running k.queued

/-! ## The ends of operations, R318, R350 -/

/-- At the end of an operation that found no request IR is set with BUSY. -/
theorem Npx.rests_finish {n m : Npx} {op : NpxOp} (h : n.Idle op) (numeric : op.noWait = false) (k : n.Works m) (e : BitVec 6) :
    (Npx.finish (m, e)).Rests := by
  refine h.toRests.of_request (fun request => ?_) k.running k.queued
  rw [Npx.getLsbD_sw_finish, if_neg (by decide), k.sw 7 (.inl (by decide)), h.request numeric, BitVec.getLsbD_of_ge e 7 (by decide)] at request
  rw [Npx.getLsbD_sw_finish, if_pos rfl]
  simpa using request

theorem Npx.rests_react {n m : Npx} (h : n.Rests) (running : m.running = n.running) (queued : m.queued = n.queued) : m.react.Rests :=
  h.of_request (m := m.react) (fun request => m.busy_react.trans request) running queued

/-- What FINIT and FSAVE leave of the 8087 (R317, D26). -/
def Npx.afterInit (free : NpxFree) (n : Npx) : Npx :=
  Npx.freeCc free { n with cw := 0x03FF, sw := 0, tw := 0xFFFF, running := none, queued := none }

theorem npxInit_eq (free : NpxFree) (s : State) : npxInit free s = (npxAbort s).setNpx (s.npx.afterInit free) := rfl

theorem npxSave_eq (raced : Bool) (a : Phys) (free : NpxFree) (s : State) : npxSave raced a free s =
    State.setNpx (s.npx.afterInit free) (npxPut raced 80 (a + 14) (s.npx.stack 8 0) (npxPut raced 14 a (s.npx.env free) s)) := rfl

theorem Npx.rests_afterInit (free : NpxFree) (n : Npx) : (n.afterInit free).Rests := by
  have request : (n.afterInit free).sw.getLsbD 7 = false := by
    unfold Npx.afterInit Npx.freeCc
    rw [Npx.getLsbD_sw_setCc]
    simp
  refine ⟨rfl, fun h => ?_, fun h => absurd rfl h, fun q h => ?_⟩
  · rw [request] at h
    cases h
  · exact absurd h (Option.some_ne_none q).symm

theorem Npx.loadStack_fields (n : Npx) (left : Nat) (i : BitVec 3) (img : Nat) :
    n.loadStack left i img = { n with r := (n.loadStack left i img).r } := by
  induction left generalizing n i img with
  | zero => rfl
  | succ left ih =>
    unfold Npx.loadStack
    rw [ih]

/-! ## Memory operands, R312 -/

@[simp] theorem npxRead_npx (k : Nat) (a : Phys) (s : State) : (npxRead k a s).2.npx = s.npx := by
  induction k generalizing a s with
  | zero => rfl
  | succ k ih => simp [npxRead, ih]

@[simp] theorem npxWrite_unmarked (k : Nat) (a : Phys) (v : Nat) (s : State) : (npxWrite k a v s).npx.unmarked = s.npx.unmarked := by
  induction k generalizing a v s with
  | zero => rfl
  | succ k ih => simp [npxWrite, ih]

@[simp] theorem npxReadEnv_npx (first : TempReal) (a : Phys) (s : State) : (npxReadEnv first a s).2.npx = s.npx := by simp [npxReadEnv]

/-! ## Executing an operation -/

theorem npxStore_rests {s : State} {f : NpxFmt} {pop : Bool} (h : s.npx.Idle (.store f pop)) (raced : Bool) (a : Phys)
    (free : NpxFree) : (npxStore f pop raced a free s).npx.Rests := by
  unfold npxStore
  dsimp only
  generalize (if s.npx.isEmpty 0 then ⟨fmtIndef free.real f, exI, 0⟩ else storeAnswer s.npx.cw free.real f (s.npx.st 0)) = answer
  split
  · exact Npx.rests_finish h rfl ((Npx.Works.refl _).then_freeCc free) _
  · exact Npx.rests_finish h rfl (((Npx.Works.refl _).then_popIf pop).then_freeCc free) _

/-- The 8087 as `npxRun` finds it once it has drawn its free values and its operand. -/
theorem npxRun_drawn (j : NpxJob) (s : State) :
    (if j.raced then drawReal (drawNpx s).2 else (j.data, (drawNpx s).2)).2.npx = s.npx := by
  have drawn : (drawNpx s).2.npx = s.npx := rfl
  split
  · exact (State.draw_npx _).trans drawn
  · exact drawn

/-- An operation executed by an idle unit leaves it at rest. -/
theorem npxRun_rests {j : NpxJob} {s : State} (h : s.npx.Idle j.op) : (npxRun j s).npx.Rests := by
  have drawn := npxRun_drawn j s
  unfold npxRun
  dsimp only
  generalize (if j.raced then drawReal (drawNpx s).2 else (j.data, (drawNpx s).2)) = p at drawn ⊢
  rw [← drawn] at h
  have rests := h.toRests
  have settled {m : Npx} (k : m.Works (m.freeCc (drawNpx s).1)) (hm : m.Rests) : (m.freeCc (drawNpx s).1).Rests :=
    hm.of_eq (k.sw 7 (.inl (by decide))) (k.sw 15 (.inr rfl)) k.running k.queued
  have free (m : Npx) : m.Works (m.freeCc (drawNpx s).1) := (Npx.Works.refl m).then_freeCc _
  split
  case h_1 e => exact npxStore_rests (e ▸ h) _ _ _
  case h_2 => rw [npxInit_eq]; exact Npx.rests_afterInit _ _
  case h_3 | h_4 => exact settled (free _) (rests.of_eq rfl rfl rfl rfl)
  case h_5 => exact Npx.rests_react rests rfl rfl
  case h_6 | h_7 => exact settled (free _) rests
  case h_8 =>
    refine rests.of_request (fun request => ?_) rfl rfl
    simp at request
  case h_9 => rw [npxSave_eq]; exact Npx.rests_afterInit _ _
  case h_10 =>
    simp only [npxRestore, State.setNpx_npx, npxRead_npx, npxReadEnv_npx]
    rw [Npx.loadStack_fields]
    exact Npx.rests_react rests rfl rfl
  case h_11 => exact rests.of_eq rfl rfl rfl rfl
  case h_12 =>
    simp only [npxLoadEnv, State.setNpx_npx, npxReadEnv_npx]
    exact Npx.rests_react rests rfl rfl
  case h_13 store init disi eni ldcw stcw stsw clex save rstor stenv ldenv =>
    have numeric : j.op.noWait = false := by
      unfold NpxOp.noWait
      split <;> first | rfl | contradiction
    exact Npx.rests_finish h numeric ((Npx.works_numeric _ _ _).then_settleCc _ _) _

/-- The control operations that a unit at work lets pass keep what it works on. -/
theorem npxRun_control_busyWithRequest {j : NpxJob} {s : State} (h : s.npx.BusyWithRequest)
    (hj : j.op = .init ∨ j.op = .disi ∨ j.op = .eni ∨ j.op = .stcw ∨ j.op = .stsw) : (npxRun j s).npx.BusyWithRequest := by
  have drawn := npxRun_drawn j s
  unfold npxRun
  dsimp only
  generalize (if j.raced then drawReal (drawNpx s).2 else (j.data, (drawNpx s).2)) = p at drawn ⊢
  rw [← drawn] at h
  obtain e | e | e | e | e := hj <;> rw [e]
  · exact (Npx.rests_afterInit _ _).rule
  all_goals exact ((Npx.Works.refl { p.2.npx with cw := _ }).then_freeCc (drawNpx s).1).busyWithRequest h

/-! ## Handing over, R311, R315, R316 -/

@[simp] theorem Npx.point_sw (j : NpxJob) (n : Npx) : (n.point j).sw = n.sw := by
  unfold Npx.point
  split <;> rfl

@[simp] theorem Npx.point_running (j : NpxJob) (n : Npx) : (n.point j).running = n.running := by
  unfold Npx.point
  split <;> rfl

@[simp] theorem Npx.point_queued (j : NpxJob) (n : Npx) : (n.point j).queued = n.queued := by
  unfold Npx.point
  split <;> rfl

/-- `Begin` sets BUSY, for what is not an operation of the control unit, and keeps the other bits of SW. -/
theorem Npx.getLsbD_sw_begin (j : NpxJob) (n : Npx) (i : Nat) :
    (n.begin j).sw.getLsbD i = (n.sw.getLsbD i || (decide (i = 15) && !j.op.noWait)) := by
  by_cases hi : i < 16
  · unfold Npx.begin
    dsimp only
    split
    next control => rw [Npx.point_sw, control, Bool.not_true, Bool.and_false, Bool.or_false]
    next numeric =>
      rw [Bool.eq_false_iff.2 numeric, Npx.point_sw]
      interval_cases i <;> simp
  · rw [BitVec.getLsbD_of_ge _ _ (by omega), BitVec.getLsbD_of_ge n.sw _ (by omega), decide_eq_false (show ¬i = 15 by omega)]
    rfl

@[simp] theorem Npx.begin_running (j : NpxJob) (n : Npx) : (n.begin j).running = n.running := by
  unfold Npx.begin
  dsimp only
  split <;> exact Npx.point_running j n

@[simp] theorem Npx.begin_queued (j : NpxJob) (n : Npx) : (n.begin j).queued = n.queued := by
  unfold Npx.begin
  dsimp only
  split <;> exact Npx.point_queued j n

theorem Npx.busyWithRequest_begin {n : Npx} (h : n.BusyWithRequest) (j : NpxJob) : (n.begin j).BusyWithRequest := by
  obtain ⟨request, running, queued⟩ := h
  unfold Npx.BusyWithRequest
  simp only [Npx.getLsbD_sw_begin, Npx.begin_running, Npx.begin_queued]
  refine ⟨fun r => ?_, fun runs => ?_, queued⟩
  · simp only [Nat.reduceEqDiff, decide_false, Bool.false_and, Bool.or_false] at r
    rw [request r, Bool.true_or]
  · obtain ⟨none, busy⟩ := running runs
    exact ⟨by rw [none]; rfl, by rw [busy, Bool.true_or]⟩

theorem npxOverQueue_busyWithRequest {s : State} (h : s.npx.BusyWithRequest) {second : Option NpxJob}
    (allowed : ∀ q, second = some q → q.op = .stenv ∨ q.op = .save) : (npxOverQueue second s).npx.BusyWithRequest := by
  obtain ⟨request, running, queued⟩ := h
  unfold npxOverQueue
  split
  · exact ⟨request, running, allowed⟩
  next q hq =>
    refine ⟨request, running, fun p hp => ?_⟩
    have hp : (if (drawBit s).1 then some q else second) = some p := hp
    split at hp
    · cases hp
      exact queued _ hq
    · exact allowed p hp

/-- What the 8087 does while it is executing keeps the rule, unless it refuses. -/
theorem npxWhileRunning_busyWithRequest {j : NpxJob} {s t : State} (h : s.npx.BusyWithRequest) (e : npxWhileRunning j s = .next t) :
    t.npx.BusyWithRequest := by
  have begun : (s.setNpx (s.npx.begin j)).npx.BusyWithRequest := Npx.busyWithRequest_begin h j
  unfold npxWhileRunning at e
  split at e <;> cases e
  case h_1 op => exact npxRun_control_busyWithRequest h (by simp [op])
  case h_2 op => exact npxRun_control_busyWithRequest begun (by simp [op])
  case h_3 op => exact npxRun_control_busyWithRequest begun (by simp [op])
  case h_4 op => exact npxOverQueue_busyWithRequest (npxRun_control_busyWithRequest h (by simp [op])) (by simp)
  case h_5 op => exact npxOverQueue_busyWithRequest (npxRun_control_busyWithRequest h (by simp [op])) (by simp)
  case h_6 op => exact npxOverQueue_busyWithRequest h (by simp [op])
  case h_7 op => exact npxOverQueue_busyWithRequest h (by simp [op])

/-- An operation that begins finds nothing running, and no request unless it is one of the control unit. -/
theorem npxStart_busyWithRequest {j : NpxJob} {s : State} (h : s.npx.Idle j.op) : (npxStart j s).npx.BusyWithRequest := by
  have begun := Npx.busyWithRequest_begin h.rule j
  have request (numeric : j.op.noWait = false) : (s.npx.begin j).sw.getLsbD 7 = false := by
    rw [Npx.getLsbD_sw_begin, h.request numeric]
    rfl
  have idle : (s.npx.begin j).Idle j.op := ⟨⟨(Npx.begin_running j s.npx).trans h.running, begun⟩, request⟩
  unfold npxStart
  dsimp only
  split
  next alone =>
    have numeric : j.op.noWait = false := by
      obtain ⟨-, later⟩ := Bool.and_eq_true_iff.1 alone
      cases op : j.op <;> rw [op] at later <;> first | rfl | cases later
    obtain ⟨ir, -, queued⟩ := begun
    refine ⟨ir, fun _ => ⟨request numeric, ?_⟩, queued⟩
    show (s.npx.begin j).sw.getLsbD 15 = true
    rw [Npx.getLsbD_sw_begin, numeric]
    simp
  next atOnce => exact (npxRun_rests (s := s.setNpx (s.npx.begin j)) idle).rule

@[simp] theorem captureJob_npx (op : NpxOp) (opcode : BitVec 11) (addr : Option Phys) (first : Word) (s : State) :
    (captureJob op opcode addr first s).2.npx = s.npx := by simp [captureJob]

@[simp] theorem captureJob_op (op : NpxOp) (opcode : BitVec 11) (addr : Option Phys) (first : Word) (s : State) :
    (captureJob op opcode addr first s).1.op = op := rfl

theorem npxIssue_busyWithRequest {op : NpxOp} {opcode : BitVec 11} {addr : Option Phys} {first : Word} {s t : State}
    (h : s.npx.BusyWithRequest) (e : npxIssue op opcode addr first s = .next t) : t.npx.BusyWithRequest := by
  unfold npxIssue at e
  split at e
  next => exact npxWhileRunning_busyWithRequest (by simpa using h) e
  next stopped =>
    split at e <;> cases e
    next accepted =>
      refine npxStart_busyWithRequest ?_
      simp only [npxRead_npx]
      refine ⟨⟨by simpa using stopped, h⟩, fun numeric => ?_⟩
      have idle : s.npx.busy = false := by simpa [numeric] using accepted
      exact Bool.eq_false_iff.2 fun request => Bool.eq_false_iff.1 idle (h.1 request)

/-- The completion of the running operation, and of one that waits behind it. -/
theorem npxComplete_busyWithRequest {s : State} (h : s.npx.BusyWithRequest) : (npxComplete s).npx.BusyWithRequest := by
  unfold npxComplete
  split
  · exact h
  next j hj =>
    obtain ⟨-, running, queued⟩ := h
    obtain ⟨noRequest, -⟩ := running (by rw [hj]; exact Option.some_ne_none j)
    have stopped : ({ s.npx with running := none, queued := none } : Npx).Rests :=
      ⟨rfl, fun r => absurd r (Bool.eq_false_iff.1 noRequest), fun r => absurd rfl r, fun q hq => absurd hq (Option.some_ne_none q).symm⟩
    have ran := npxRun_rests (j := j) (s := s.setNpx { s.npx with running := none, queued := none }) ⟨stopped, fun _ => noRequest⟩
    dsimp only
    split
    · exact ran.rule
    next q hq =>
      have control : q.op.noWait = true := by
        obtain op | op := queued q hq <;> rw [op] <;> rfl
      exact (npxRun_rests (ran.idle control)).rule

theorem npxProceed_busyWithRequest {s : State} (h : s.npx.BusyWithRequest) (free : Bool) : (npxProceed free s).npx.BusyWithRequest := by
  unfold npxProceed
  split
  · exact npxComplete_busyWithRequest h
  · exact h

/-! ## The CPU, the other agents, the step -/

theorem CpuActs.busyWithRequest {s t : State} (acts : CpuActs s t) (h : s.npx.BusyWithRequest) : t.npx.BusyWithRequest := by
  induction acts with
  | refl => exact h
  | then_own _ e ih => rw [e]; exact ih
  | then_setDhlt _ b ih => exact ih
  | then_npxIssue _ e ih => exact npxIssue_busyWithRequest ih e
  | then_npxProceed _ free ih => exact npxProceed_busyWithRequest ih free
  | then_memRead8 _ a ih => exact ih.of_unmarked (memRead8_unmarked ..)
  | then_memRead16 _ a a2 ih => exact ih.of_unmarked (memRead16_unmarked ..)
  | then_memWrite8 _ a v ih => exact ih.of_unmarked (memWrite8_unmarked ..)
  | then_memWrite16 _ a a2 v ih => exact ih.of_unmarked (memWrite16_unmarked ..)
  | then_ioRead8 _ p ih => exact ih.of_unmarked (ioRead8_unmarked ..)
  | then_ioRead16 _ p ih => exact ih.of_unmarked (ioRead16_unmarked ..)
  | then_ioWrite8 _ p v ih => exact ih.of_unmarked (ioWrite8_unmarked ..)
  | then_ioWrite16 _ p v ih => exact ih.of_unmarked (ioWrite16_unmarked ..)
  | then_intAck _ ih => exact ih.of_unmarked (intAck_unmarked _)

theorem cpuStep_busyWithRequest {s t : State} (h : s.npx.BusyWithRequest) (e : cpuStep s = .next t) : t.npx.BusyWithRequest := by
  obtain acts | ⟨ch, rfl⟩ := cpuStep_cases e
  · exact acts.busyWithRequest h
  · exact h.of_unmarked (dmaTransfer_unmarked ch s)

theorem agentStep_busyWithRequest {a : BusAgent} {s t : State} (h : s.npx.BusyWithRequest) (e : agentStep a s = .next t) :
    t.npx.BusyWithRequest := by
  cases a with
  | cpu => exact cpuStep_busyWithRequest h e
  | dma ch =>
    obtain ⟨-, rfl⟩ := agent_next e
    unfold dmaStep
    split
    · split
      · exact h.of_unmarked (dmaTransfer_unmarked ch s)
      · exact h
    · exact h
  | iop ch =>
    obtain ⟨-, rfl⟩ := agent_next e
    split
    · exact h
    · exact h.of_unmarked (iopStep_unmarked ch s)
  | npx =>
    obtain ⟨-, rfl⟩ := agent_next e
    exact npxProceed_busyWithRequest h _

/-- RESET leaves no request and nothing that runs or waits (R317). -/
theorem resetMachine_busyWithRequest (s : State) : (resetMachine s).npx.BusyWithRequest :=
  reset_busyWithRequest.of_eq rfl rfl rfl rfl

theorem applyMove_busyWithRequest {m : Move} {s t : State} (h : s.npx.BusyWithRequest) (e : applyMove m s = .next t) :
    t.npx.BusyWithRequest := by
  cases m with
  | cpu => exact cpuStep_busyWithRequest h e
  | dma ch => exact agentStep_busyWithRequest (a := .dma ch) h e
  | iop ch => exact agentStep_busyWithRequest (a := .iop ch) h e
  | npx => exact agentStep_busyWithRequest (a := .npx) h e
  | reset =>
    cases e
    exact resetMachine_busyWithRequest s
  | resetDuring a =>
    obtain ⟨u, -, rfl⟩ := resetDuring_next e
    exact resetMachine_busyWithRequest _
  | nmi | intr | cascadeType | test | busTurns | portInput =>
    cases e
    exact h
  | busAccess c =>
    cases e
    split
    · exact h.of_unmarked (busAccess_unmarked c s)
    · exact h
  | remoteInput | drq | timerPin | clock | intPin | iopDrq | iopExt =>
    obtain ⟨-, rfl⟩ := agent_next e
    exact h
  | ca ch =>
    obtain ⟨-, rfl⟩ := agent_next e
    rw [latchCa_npx]
    exact h

/-- Settles O40: an access of the bus marks the jobs of the 8087 and no more; of its own operations those of the numeric unit begin without a
request and end with IR and BUSY together, the others keep or clear both. -/
theorem stepKeepsBusyWithRequest : Obligations.StepKeepsBusyWithRequest := by
  intro s t h e
  unfold step at e
  split at e
  next => exact cpuStep_busyWithRequest h (settle_next e).1
  next rest _ => exact applyMove_busyWithRequest (s := { s with moves := rest }) h (settle_next e).1

end Sys2Proof.Machine

/-! SUPPORT. The 8087 instructions: their encodings (48_npx_8087_instructions.md R424), and what an ESC hands to the 8087 (47_npx_8087_state.md
R311, R315, R316, R324). -/

namespace Sys2Proof.Machine

/-! ## Encodings, R424 -/

theorem encode_npxMemoryForms : ∀ p ∈ npxMemoryForms, ∀ rm,
    encode (p.1 rm) = ((27 : BitVec 5) ++ p.2.1.extractLsb' 3 3) :: encodeModRm (p.2.1.extractLsb' 0 3) rm := by
  have rows : npxMemoryForms.map (fun p rm => encode (p.1 rm))
      = npxMemoryForms.map fun p rm => ((27 : BitVec 5) ++ p.2.1.extractLsb' 3 3) :: encodeModRm (p.2.1.extractLsb' 0 3) rm := rfl
  exact fun p hp rm => congrFun (List.map_inj_left.1 rows p hp) rm

theorem encode_npxStackForms : ∀ p ∈ npxStackForms, ∀ k : BitVec 3,
    encode (p.1 k) = [(27 : BitVec 5) ++ p.2.1.extractLsb' 3 3, (3 : BitVec 2) ++ p.2.1.extractLsb' 0 3 ++ k] := by
  have rows : npxStackForms.map (fun p k => encode (p.1 k))
      = npxStackForms.map fun p k => [(27 : BitVec 5) ++ p.2.1.extractLsb' 3 3, (3 : BitVec 2) ++ p.2.1.extractLsb' 0 3 ++ k] := rfl
  exact fun p hp k => congrFun (List.map_inj_left.1 rows p hp) k

theorem encode_npxFixedForms : ∀ p ∈ npxFixedForms,
    encode p.1 = [(27 : BitVec 5) ++ p.2.1.extractLsb' 3 3, (3 : BitVec 2) ++ p.2.1.extractLsb' 0 3 ++ p.2.2.1] := by decide

/-! ## Memory operands in ordinary memory, R312 -/

theorem bytesFrom_succ (k : Nat) (a : Phys) : bytesFrom (k + 1) a = a.toNat :: bytesFrom k (a + 1) := by
  have first : (a.toNat + 0) % 2 ^ 20 = a.toNat := Nat.mod_eq_of_lt a.isLt
  rw [bytesFrom, List.range_succ_eq_map, List.map_cons, first, List.map_map, bytesFrom]
  refine congrArg _ (List.map_congr_left fun j _ => ?_)
  rw [Function.comp_apply, BitVec.toNat_add]
  show (a.toNat + (j + 1)) % 2 ^ 20 = ((a.toNat + 1) % 2 ^ 20 + j) % 2 ^ 20
  omega

/-- On ordinary memory the 8087 reads the number that the bytes make, and changes nothing. -/
theorem npxRead_plain {s : State} (h : s.PlainMemory) (k : Nat) (a : Phys) : npxRead k a s = (s.mem.number (bytesFrom k a), s) := by
  induction k generalizing a with
  | zero => rfl
  | succ k ih => simp [npxRead, busRead8_plain h, ih, bytesFrom_succ, Memory.number]

theorem Memory.number_append (m : Memory) (l l' : List Nat) : m.number (l ++ l') = m.number l + 256 ^ l.length * m.number l' := by
  induction l with
  | nil => simp [Memory.number]
  | cons a l ih =>
    rw [List.cons_append, Memory.number, Memory.number, ih, List.length_cons]
    ring

theorem escAddr_mem {rm : Rm} (mem : rm.wellFormedMem = true) (s : State) : escAddr rm s = some (phys (eaSeg s rm) (eaOff s rm)) := by
  cases rm with
  | reg => cases mem
  | ind | disp8 | disp16 | direct => rfl

/-- The word of the CPU's dummy read in ordinary memory. -/
theorem dummyRead_number {s : State} (h : s.PlainMemory) {rm : Rm} (mem : rm.wellFormedMem = true) :
    (dummyRead rm s).1.toNat = s.mem.number (s.rmBytes .word rm) := by
  cases rm with
  | reg => cases mem
  | ind | disp8 | disp16 | direct => exact readMem_number h .word _ _

/-- The bytes that an ESC captures for a load: those of the dummy read, then those that follow (R311). -/
theorem captured_number {s : State} (h : s.PlainMemory) (k : Nat) {rm : Rm} (mem : rm.wellFormedMem = true) :
    (if k = 0 then 0 else BitVec.ofNat 80 ((dummyRead rm s).1.toNat
        + 2 ^ 16 * s.mem.number (bytesFrom (k - 2) (phys (eaSeg s rm) (eaOff s rm) + 2))))
      = BitVec.ofNat 80 (s.npxOperand k rm) := by
  have word : (s.rmBytes .word rm).length = 2 := rfl
  unfold State.npxOperand
  split
  · rfl
  · rw [Memory.number_append, dummyRead_number h mem, word, show (256 : Nat) ^ 2 = 2 ^ 16 from rfl]

/-! ## Handing over, R311, R316 -/

/-- The job of an ESC in ordinary memory. -/
def State.escJob (s : State) (i : Instr) (op : NpxOp) (addr : Option Phys) (data : Nat) : NpxJob :=
  { op := op, opcode := ((encode i).getD 0 0).setWidth 3 ++ (encode i).getD 1 0, ip := phys s.segs.cs s.ctl.opIp, addr := addr
    data := BitVec.ofNat 80 data, raced := false }

/-- An 8087 that runs nothing accepts every operation, or, while an unmasked exception keeps it BUSY, one of the control unit. -/
theorem npxIssue_accepts {s : State} (stopped : s.npx.running = none) {op : NpxOp} (may : s.npx.busy = false ∨ op.noWait = true)
    (opcode : BitVec 11) (addr : Option Phys) (first : Word) :
    npxIssue op opcode addr first s
      = .next (npxStart (captureJob op opcode addr first s).1 (captureJob op opcode addr first s).2) := by
  have accepted : (s.npx.busy && !op.noWait) = false := by
    obtain idle | control := may
    · rw [idle, Bool.false_and]
    · rw [control, Bool.not_true, Bool.and_false]
  simp [npxIssue, stopped, accepted]

theorem State.NpxStopped.escTraps {s : State} (h : s.NpxStopped) : s.escTraps = false := State.escTraps_of_clear h.2.2

/-- An ESC that names an operation hands it to the 8087. -/
theorem escape_starts {s : State} (h : s.NpxStopped) {op : NpxOp} (may : s.npx.busy = false ∨ op.noWait = true) (x : BitVec 6) (rm : Rm) :
    escape x rm (some op) s = .next (npxStart (captureJob op (escOpcode x rm) (escAddr rm s) (dummyRead rm s).1 s).1 s) := by
  have traps := h.escTraps
  obtain ⟨plain, there, -⟩ := h
  have stopped : s.npx.running = none := plain.2.2.2.1
  have read : dummyRead rm s = ((dummyRead rm s).1, s) := Prod.ext rfl (dummyRead_plain plain rm)
  simp only [escape, traps, Bool.false_eq_true, if_false]
  rw [read]
  simp only [there, if_true]
  refine (npxIssue_accepts stopped may _ _ _).trans ?_
  simp [captureJob, npxRead_plain plain]

/-- The opcode bits of the encoding are those that the 8087 takes (R324). -/
theorem escOpcode_eq (x : BitVec 6) (rm : Rm) (i : Instr)
    (code : encode i = ((27 : BitVec 5) ++ x.extractLsb' 3 3) :: encodeModRm (x.extractLsb' 0 3) rm) :
    escOpcode x rm = ((encode i).getD 0 0).setWidth 3 ++ (encode i).getD 1 0 := by
  have low : ((27 : BitVec 5) ++ x.extractLsb' 3 3).setWidth 3 = x.extractLsb' 3 3 := BitVec.setWidth_append_eq_right
  rw [code, List.getD_cons_zero, List.getD_cons_succ, low, escOpcode]
  congr 1
  cases encodeModRm (x.extractLsb' 0 3) rm <;> rfl

section
variable {s : State} (h : s.NpxStopped)
include h

theorem exec_npxMemoryForms_starts : ∀ p ∈ npxMemoryForms, ∀ rm, rm.wellFormedMem = true → (s.npx.busy = false ∨ p.2.2.noWait = true) →
    exec (p.1 rm) s
      = .next (npxStart (s.escJob (p.1 rm) p.2.2 (some (phys (eaSeg s rm) (eaOff s rm))) (s.npxOperand p.2.2.loads rm)) s) := by
  intro p hp rm mem may
  have opcode := escOpcode_eq _ rm _ (encode_npxMemoryForms p hp rm)
  rw [exec_npxMemoryForms p hp, escMemory_eq_escape _ mem, escape_starts h may, escAddr_mem mem, State.escJob, ← opcode,
    ← captured_number h.1 _ mem]
  simp [captureJob, npxRead_plain h.1]

/-- An ESC without a memory operand. -/
theorem escRegister_starts {i : Instr} {x : BitVec 6} {k : BitVec 3} {op : NpxOp}
    (code : encode i = [(27 : BitVec 5) ++ x.extractLsb' 3 3, (3 : BitVec 2) ++ x.extractLsb' 0 3 ++ k]) (loads : op.loads = 0)
    (may : s.npx.busy = false ∨ op.noWait = true) : escRegister x k op s = .next (npxStart (s.escJob i op none 0) s) := by
  have opcode := escOpcode_eq x (.reg (Reg.ofBits k)) i (by rw [code, encodeModRm, Reg.bits_ofBits])
  rw [escRegister, escape_starts h may, State.escJob, ← opcode]
  simp [captureJob, escAddr, loads, npxRead]

theorem exec_npxStackForms_starts : ∀ p ∈ npxStackForms, ∀ k, (s.npx.busy = false ∨ (p.2.2 k).noWait = true) →
    exec (p.1 k) s = .next (npxStart (s.escJob (p.1 k) (p.2.2 k) none 0) s) := by
  have loads : npxStackForms.map (fun p k => (p.2.2 k).loads) = npxStackForms.map fun _ _ => 0 := rfl
  intro p hp k may
  rw [exec_npxStackForms p hp, escRegister_starts h (encode_npxStackForms p hp k) (congrFun (List.map_inj_left.1 loads p hp) k) may]

theorem exec_npxFixedForms_starts : ∀ p ∈ npxFixedForms, (s.npx.busy = false ∨ p.2.2.2.noWait = true) →
    exec p.1 s = .next (npxStart (s.escJob p.1 p.2.2.2 none 0) s) := by
  have loads : ∀ p ∈ npxFixedForms, p.2.2.2.loads = 0 := by decide
  intro p hp may
  rw [exec_npxFixedForms p hp, escRegister_starts h (encode_npxFixedForms p hp) (loads p hp) may]

end

/-! ## An operation that is left running, R315 -/

/-- The same machine with its 8087 working on alone, or not. -/
def State.overlap (b : Bool) (s : State) : State := { s with cfg := { s.cfg with npxOverlap := b } }

theorem busWrite8_overlap (b : Bool) (a : Phys) (v : Byte) (s : State) : busWrite8 a v (s.overlap b) = (busWrite8 a v s).overlap b := by
  simp only [busWrite8, State.overlap]
  split
  · rfl
  · rfl
  · rfl
  · unfold State.npxTouch
    dsimp only
    split <;> rfl

theorem npxWrite_overlap (b : Bool) (k : Nat) (a : Phys) (v : Nat) (s : State) :
    npxWrite k a v (s.overlap b) = (npxWrite k a v s).overlap b := by
  induction k generalizing a v s with
  | zero => rfl
  | succ k ih => rw [npxWrite, npxWrite, busWrite8_overlap, ih]

theorem npxScatter_overlap (b : Bool) (k : Nat) (a : Phys) (s : State) : npxScatter k a (s.overlap b) = (npxScatter k a s).overlap b := by
  induction k generalizing a s with
  | zero => rfl
  | succ k ih =>
    have drawn : busWrite8 a (drawByte (s.overlap b)).1 (drawByte (s.overlap b)).2 = (busWrite8 a (drawByte s).1 (drawByte s).2).overlap b :=
      busWrite8_overlap b a _ s.draw
    rw [npxScatter, npxScatter]
    dsimp only
    rw [drawn, ih]

theorem npxPut_overlap (b raced : Bool) (k : Nat) (a : Phys) (v : Nat) (s : State) :
    npxPut raced k a v (s.overlap b) = (npxPut raced k a v s).overlap b := by
  cases raced
  · exact npxWrite_overlap b k a v s
  · exact npxScatter_overlap b k a s

theorem npxStore_overlap (b : Bool) (f : NpxFmt) (pop raced : Bool) (a : Phys) (free : NpxFree) (s : State) :
    npxStore f pop raced a free (s.overlap b) = (npxStore f pop raced a free s).overlap b := by
  have same : (s.overlap b).npx = s.npx := rfl
  unfold npxStore
  dsimp only
  rw [same]
  generalize (if s.npx.isEmpty 0 then ⟨fmtIndef free.real f, exI, 0⟩ else storeAnswer s.npx.cw free.real f (s.npx.st 0)) = answer
  split
  · rfl
  · rw [npxPut_overlap]
    rfl

/-- What an operation that can be left running does does not depend on whether it was. -/
theorem npxRun_overlap (b : Bool) {j : NpxJob} (later : j.op.immediate = false) (s : State) :
    npxRun j (s.overlap b) = (npxRun j s).overlap b := by
  have drawn : drawNpx (s.overlap b) = ((drawNpx s).1, (drawNpx s).2.overlap b) := rfl
  have operand : (if j.raced then drawReal ((drawNpx s).2.overlap b) else (j.data, (drawNpx s).2.overlap b))
      = ((if j.raced then drawReal (drawNpx s).2 else (j.data, (drawNpx s).2)).1,
        (if j.raced then drawReal (drawNpx s).2 else (j.data, (drawNpx s).2)).2.overlap b) := by
    split <;> rfl
  unfold npxRun
  rw [drawn]
  dsimp only
  rw [operand]
  dsimp only
  generalize (if j.raced then drawReal (drawNpx s).2 else (j.data, (drawNpx s).2)) = p
  have same : (p.2.overlap b).npx = p.2.npx := rfl
  cases op : j.op <;> rw [op] at later
  case store f pop => exact npxStore_overlap b f pop _ _ _ _
  case init | disi | eni | ldcw | stcw | stsw | clex | save | rstor | stenv | ldenv => cases later
  all_goals
    dsimp only
    rw [same]
    rfl

/-- `Begin` of an operation that can be left running sets BUSY and the exception pointers (R324). -/
theorem Npx.begin_later {j : NpxJob} (later : j.op.immediate = false) (n : Npx) :
    n.begin j = { n with sw := n.sw ||| 0x8000, xip := j.ip, xopc := j.opcode, xop := j.addr.getD n.xop } := by
  have control : j.op.noWait = false := by
    cases op : j.op <;> rw [op] at later <;> first | rfl | cases later
  have points : j.op.setsPointers = true := by
    cases op : j.op <;> rw [op] at later <;> first | rfl | cases later
  simp [Npx.begin, Npx.point, control, points]

/-- With nothing waiting behind it the completion is the run of the operation. -/
theorem npxComplete_alone {v : State} {k : NpxJob} (running : v.npx.running = some k) (queued : v.npx.queued = none) :
    npxComplete v = npxRun k (v.setNpx { v.npx with running := none, queued := none }) := by
  simp [npxComplete, running, queued]

theorem npxStart_alone {s : State} {j : NpxJob} (overlap : s.cfg.npxOverlap = true) (later : j.op.immediate = false) :
    npxStart j s = s.setNpx { s.npx.begin j with running := some j } := by
  simp [npxStart, overlap, later, State.setNpx]

theorem npxStart_atOnce {s : State} {j : NpxJob} (now : s.cfg.npxOverlap = false ∨ j.op.immediate = true) :
    npxStart j s = npxRun j (s.setNpx (s.npx.begin j)) := by
  obtain overlap | immediate := now
  · simp [npxStart, overlap]
  · simp [npxStart, immediate]

theorem npxRun_cfg (j : NpxJob) (s : State) : (npxRun j s).cfg = s.cfg := ((AgentKeeps.refl s).then_npxRun j).cfg

/-- The completion of an operation that was left running is its run at the ESC. -/
theorem npxComplete_eq_npxStart {v : State} {n : Npx} {k : NpxJob} (later : k.op.immediate = false) (idle : n.running = none)
    (alone : n.queued = none) (hv : v.npx = { n.begin k with running := some k }) :
    npxComplete v = { npxStart k { v with cfg := { v.cfg with npxOverlap := false }, npx := n } with cfg := v.cfg } := by
  have running : v.npx.running = some k := by rw [hv]
  have queued : v.npx.queued = none := by
    rw [hv]
    exact (Npx.begin_queued k n).trans alone
  have begun : ({ v.npx with running := none, queued := none } : Npx) = n.begin k := by
    have r := Npx.begin_running k n
    have q := Npx.begin_queued k n
    rw [idle] at r
    rw [alone] at q
    rw [hv]
    calc ({ n.begin k with running := none, queued := none } : Npx)
        = { n.begin k with running := (n.begin k).running, queued := (n.begin k).queued } := by rw [r, q]
      _ = n.begin k := rfl
  have start := npxStart_atOnce (s := { v with cfg := { v.cfg with npxOverlap := false }, npx := n }) (j := k) (.inl rfl)
  have shown : ({ v with cfg := { v.cfg with npxOverlap := false }, npx := n } : State).setNpx (n.begin k) = (v.setNpx (n.begin k)).overlap false :=
    rfl
  have cfg : (npxRun k (v.setNpx (n.begin k))).cfg = v.cfg := npxRun_cfg k _
  rw [npxComplete_alone running queued, begun, start, shown, npxRun_overlap false later, ← cfg]
  rfl

/-- A store of the control unit that waits follows as if it came then. -/
theorem npxComplete_queued {v : State} {q : NpxJob} (running : v.npx.running ≠ none) (queued : v.npx.queued = some q)
    (store : q.op = .stenv ∨ q.op = .save) : npxComplete v = npxStart q (npxComplete { v with npx := { v.npx with queued := none } }) := by
  obtain ⟨j, hj⟩ := Option.ne_none_iff_exists'.1 running
  have alone := npxComplete_alone (v := { v with npx := { v.npx with queued := none } }) (k := j) hj rfl
  have immediate : q.op.immediate = true := by obtain op | op := store <;> rw [op] <;> rfl
  have begun (n : Npx) : n.begin q = n := by
    obtain op | op := store <;> simp [Npx.begin, Npx.point, op, NpxOp.noWait, NpxOp.setsPointers]
  rw [npxStart_atOnce (.inr immediate), begun, alone]
  simp [npxComplete, hj, queued, State.setNpx]

/-- Settles O43: the encodings row by row, the hand-over by what an ESC reads in ordinary memory, the completion by the run at the ESC. -/
theorem npxReceivesTheOperation : Obligations.NpxReceivesTheOperation := by
  refine ⟨encode_npxMemoryForms, encode_npxStackForms, encode_npxFixedForms, fun s h => ?_, fun s j overlap later idle alone => ⟨?_, ?_⟩,
    fun v q running queued store => npxComplete_queued running queued store⟩
  · exact ⟨exec_npxMemoryForms_starts h, fun p hp k idle => exec_npxStackForms_starts h p hp k (.inl idle), exec_npxFixedForms_starts h⟩
  · rw [npxStart_alone overlap later, Npx.begin_later later]
    rfl
  · intro v r k hv
    have laterToo : k.op.immediate = false := later
    refine npxComplete_eq_npxStart laterToo idle alone ?_
    rw [hv, Npx.begin_later laterToo]

end Sys2Proof.Machine

/-! SUPPORT. The numeric operations of the 8087 run at their ESC (47_npx_8087_state.md R318, R319, R350): the reply to exceptions, and what an
answer, a push or a comparison leaves of the register stack. -/

namespace Sys2Proof.Machine

/-! ## Begin and End keep the stack -/

section
variable (j : NpxJob) (n : Npx)

/-- `Begin` changes the exception pointers and SW alone. -/
theorem Npx.begin_rest : n.begin j = { n with sw := (n.begin j).sw, xip := (n.begin j).xip, xop := (n.begin j).xop, xopc := (n.begin j).xopc } := by
  unfold Npx.begin Npx.point
  dsimp only
  split <;> split <;> rfl

@[simp] theorem Npx.begin_r : (n.begin j).r = n.r := by rw [Npx.begin_rest]
@[simp] theorem Npx.begin_tw : (n.begin j).tw = n.tw := by rw [Npx.begin_rest]
@[simp] theorem Npx.begin_cw : (n.begin j).cw = n.cw := by rw [Npx.begin_rest]
@[simp] theorem Npx.top_begin : (n.begin j).top = n.top :=
  Npx.top_congr fun i h h' => by rw [Npx.getLsbD_sw_begin, decide_eq_false (show ¬i = 15 by omega), Bool.false_and, Bool.or_false]
@[simp] theorem Npx.phys_begin (i : BitVec 3) : (n.begin j).phys i = n.phys i := by simp [Npx.phys]
@[simp] theorem Npx.reg_begin (i : BitVec 3) : (n.begin j).reg i = n.reg i := Npx.reg_congr (Npx.begin_r j n) i
@[simp] theorem Npx.tag_begin (i : BitVec 3) : (n.begin j).tag i = n.tag i := Npx.tag_congr (Npx.begin_tw j n) i
@[simp] theorem Npx.st_begin (i : BitVec 3) : (n.begin j).st i = n.st i := by simp [Npx.st]
@[simp] theorem Npx.isEmpty_begin (i : BitVec 3) : (n.begin j).isEmpty i = n.isEmpty i := by simp [Npx.isEmpty]

end

section
variable (op : NpxOp) (free : NpxFree) (n : Npx)

@[simp] theorem Npx.r_settleCc : (op.settleCc free n).r = n.r := by unfold NpxOp.settleCc; split <;> rfl
@[simp] theorem Npx.tw_settleCc : (op.settleCc free n).tw = n.tw := by unfold NpxOp.settleCc; split <;> rfl
@[simp] theorem Npx.top_settleCc : (op.settleCc free n).top = n.top := by unfold NpxOp.settleCc; split <;> simp
@[simp] theorem Npx.reg_settleCc (i : BitVec 3) : (op.settleCc free n).reg i = n.reg i := Npx.reg_congr (Npx.r_settleCc op free n) i
@[simp] theorem Npx.tag_settleCc (i : BitVec 3) : (op.settleCc free n).tag i = n.tag i := Npx.tag_congr (Npx.tw_settleCc op free n) i

end

/-! ## The reply to exceptions, R318, R337 -/

/-- The exceptions of a set that are not masked, bit by bit. -/
theorem getLsbD_unmasked (cw : Word) (e : BitVec 6) (k : Nat) : (unmasked cw e).getLsbD k = (e.getLsbD k && (decide (k < 6) && !cw.getLsbD k)) := by
  rw [unmasked, BitVec.getLsbD_and, BitVec.getLsbD_not, BitVec.getLsbD_setWidth]
  cases decide (k < 6) <;> simp

/-- An exception traps if it is raised and its mask is 0. -/
theorem unmasked_ne_zero (cw : Word) (e : BitVec 6) : unmasked cw e ≠ 0 ↔ ∃ k < 6, e.getLsbD k = true ∧ cw.getLsbD k = false := by
  constructor
  · intro h
    by_contra none
    refine h (BitVec.eq_of_getLsbD_eq fun k hk => ?_)
    have masked : ¬(e.getLsbD k = true ∧ cw.getLsbD k = false) := fun trap => none ⟨k, hk, trap⟩
    rw [getLsbD_unmasked]
    revert masked
    cases e.getLsbD k <;> cases cw.getLsbD k <;> simp
  · rintro ⟨k, hk, raised, mask⟩ h
    have bit := getLsbD_unmasked cw e k
    rw [h, raised, mask, decide_eq_true hk] at bit
    simp at bit

theorem unmasked_zero (cw : Word) : unmasked cw 0 = 0 := BitVec.zero_and

theorem unmasked_or (cw : Word) (e e' : BitVec 6) : unmasked cw (e ||| e') = unmasked cw e ||| unmasked cw e' := by
  refine BitVec.eq_of_getLsbD_eq fun k _ => ?_
  simp only [getLsbD_unmasked, BitVec.getLsbD_or]
  cases e.getLsbD k <;> cases e'.getLsbD k <;> simp

/-- The end of an operation is the reply to the exceptions it raised. -/
theorem npxReplies_finish {n m : Npx} (k : n.Works m) (e : BitVec 6) : NpxReplies n (Npx.finish (m, e)) e := by
  have trap := unmasked_ne_zero n.cw e
  refine ⟨k.cw, BitVec.eq_of_getLsbD_eq fun i hi => ?_, ?_, ?_⟩
  · rw [BitVec.getLsbD_setWidth, Npx.getLsbD_sw_finish, if_neg (by omega), k.sw i (.inl (by omega)), BitVec.getLsbD_or, BitVec.getLsbD_setWidth,
      decide_eq_false (show ¬i = 7 by omega), decide_eq_true hi]
    simp
  · rw [Npx.getLsbD_sw_finish, if_pos rfl, k.cw, decide_eq_true_iff]
    exact trap
  · rw [Npx.getLsbD_sw_finish, if_neg (by decide), k.cw, k.sw 7 (.inl (by decide)), BitVec.getLsbD_of_ge e 7 (by decide), ← trap]
    simp

/-- The reply looks at the control word, the flags and IR as they were. -/
theorem npxReplies_begin {n m : Npx} {e : BitVec 6} {j : NpxJob} (h : NpxReplies (n.begin j) m e) : NpxReplies n m e := by
  have low : (n.begin j).sw.setWidth 6 = n.sw.setWidth 6 := by
    refine BitVec.eq_of_getLsbD_eq fun i hi => ?_
    rw [BitVec.getLsbD_setWidth, BitVec.getLsbD_setWidth, Npx.getLsbD_sw_begin, decide_eq_false (show ¬i = 15 by omega), Bool.false_and,
      Bool.or_false]
  have request : (n.begin j).sw.getLsbD 7 = n.sw.getLsbD 7 := by rw [Npx.getLsbD_sw_begin]; simp
  obtain ⟨cw, flags, busy, ir⟩ := h
  rw [Npx.begin_cw] at cw busy ir
  rw [low] at flags
  rw [request] at ir
  exact ⟨cw, flags, busy, ir⟩

/-! ## An operation run at its ESC -/

/-- What an operation of the numeric unit leaves, its End included. -/
def Npx.runs (op : NpxOp) (data : TempReal) (free : NpxFree) (n : Npx) : Npx :=
  Npx.finish (op.settleCc free (n.numeric op data free).1, (n.numeric op data free).2)

theorem npxReplies_runs {n : Npx} {op : NpxOp} {data : TempReal} {free : NpxFree} {p : NpxResult} (h : n.numeric op data free = p) :
    NpxReplies n (n.runs op data free) p.2 := by
  subst h
  exact npxReplies_finish ((Npx.works_numeric op data free).then_settleCc op free) _

/-- The operations of the numeric unit that are no stores to memory. -/
def NpxOp.numeric (op : NpxOp) : Bool := op.stores == 0 && !op.immediate

/-- An operation draws five free values. -/
theorem drawNpx_snd (s : State) : (drawNpx s).2 = { s with fresh := s.fresh + 5 } := by
  simp only [drawNpx, drawWord, drawReal, State.draw]

/-- Executing one changes the 8087 alone. -/
theorem npxRun_numeric {j : NpxJob} (numeric : j.op.numeric = true) (alone : j.raced = false) (s : State) :
    npxRun j s = { s with npx := s.npx.runs j.op j.data (drawNpx s).1, fresh := s.fresh + 5 } := by
  unfold npxRun
  rw [alone]
  cases op : j.op <;> rw [op] at numeric
  case init | disi | eni | ldcw | stcw | stsw | clex | save | rstor | stenv | ldenv => cases numeric
  case store f _ => cases f <;> cases numeric
  all_goals
    dsimp only
    rw [if_neg Bool.false_ne_true, drawNpx_snd]
    dsimp only [State.setNpx, Npx.runs]

/-- Executing an instruction changes the 8087 alone, as `P` says. -/
def State.NpxLeaves (s : State) (i : Instr) (P : Npx → Prop) : Prop := Gives (exec i s) fun t => NpxOnly s t ∧ P t.npx

/-- An instruction whose operation starts at its ESC runs it there. -/
theorem State.NpxReady.gives {s : State} (h : s.NpxReady) {i : Instr} {op : NpxOp} {addr : Option Phys} {data : Nat}
    (start : exec i s = .next (npxStart (s.escJob i op addr data) s)) (numeric : op.numeric = true) {P : Npx → Prop}
    (run : ∀ j free, P ((s.npx.begin j).runs op (BitVec.ofNat 80 data) free)) : s.NpxLeaves i P := by
  obtain ⟨-, overlap, -⟩ := h
  rw [State.NpxLeaves, start, npxStart_atOnce (.inl overlap), npxRun_numeric (j := s.escJob i op addr data) numeric rfl]
  exact ⟨_, rfl, rfl, run _ _⟩

section
variable {s : State} (h : s.NpxReady) {P : Npx → Prop}
include h

theorem State.NpxReady.gives_memory : ∀ p ∈ npxMemoryForms, ∀ rm, rm.wellFormedMem = true → p.2.2.numeric = true →
    (∀ j free, P ((s.npx.begin j).runs p.2.2 (BitVec.ofNat 80 (s.npxOperand p.2.2.loads rm)) free)) →
    s.NpxLeaves (p.1 rm) P :=
  fun p hp rm mem numeric run => h.gives (exec_npxMemoryForms_starts h.1 p hp rm mem (.inl h.2.2)) numeric run

theorem State.NpxReady.gives_stack : ∀ p ∈ npxStackForms, ∀ k,
    (∀ j free, P ((s.npx.begin j).runs (p.2.2 k) 0 free)) → s.NpxLeaves (p.1 k) P := by
  have all : npxStackForms.map (fun p k => (p.2.2 k).numeric) = npxStackForms.map fun _ _ => true := rfl
  exact fun p hp k run =>
    h.gives (exec_npxStackForms_starts h.1 p hp k (.inl h.2.2)) (congrFun (List.map_inj_left.1 all p hp) k) run

theorem State.NpxReady.gives_fixed {i : Instr} {x : BitVec 6} {k : BitVec 3} {op : NpxOp} (hi : (i, x, k, op) ∈ npxFixedForms)
    (numeric : op.numeric = true) (run : ∀ j free, P ((s.npx.begin j).runs op 0 free)) : s.NpxLeaves i P :=
  h.gives (exec_npxFixedForms_starts h.1 _ hi (.inl h.2.2)) numeric run

end

/-! ## What an answer leaves, R319 -/

theorem Npx.reply_zero (n : Npx) (k : NpxResult) : n.reply 0 k = k := by
  unfold Npx.reply
  rw [if_neg (fun h => h (unmasked_zero n.cw))]
  simp

theorem Npx.st_zero (n : Npx) : n.st 0 = n.reg n.top := by simp [Npx.st, Npx.phys]

theorem Npx.phys_eq_top (n : Npx) (i : BitVec 3) : n.phys i = n.top ↔ i = 0 := by
  unfold Npx.phys
  constructor <;> intro h <;> bv_omega

theorem npxStackKept_settleCc (n : Npx) (j : NpxJob) (op : NpxOp) (free : NpxFree) (e : BitVec 6) :
    NpxStackKept n (Npx.finish (op.settleCc free (n.begin j), e)) := by
  refine ⟨?_, ?_, ?_⟩ <;> simp

section
variable {n : Npx} {j : NpxJob} {op : NpxOp} {data : TempReal} {free : NpxFree}

/-- An operation that is stopped by what is found before it leaves the stack as it was. -/
theorem npxStopped_runs {before : BitVec 6} {k : NpxResult} (h : (n.begin j).numeric op data free = (n.begin j).reply before k)
    (trap : unmasked n.cw before ≠ 0) :
    NpxReplies n ((n.begin j).runs op data free) before ∧ NpxStackKept n ((n.begin j).runs op data free) := by
  have stopped : (n.begin j).numeric op data free = (n.begin j, before) := by
    rw [h, Npx.reply, Npx.begin_cw, if_pos trap]
  refine ⟨npxReplies_begin (npxReplies_runs stopped), ?_⟩
  rw [Npx.runs, stopped]
  exact npxStackKept_settleCc n j op free before

/-- One that goes on delivers. -/
theorem npxGoesOn_runs {before : BitVec 6} {k : NpxResult} (h : (n.begin j).numeric op data free = (n.begin j).reply before k)
    (masked : ¬unmasked n.cw before ≠ 0) :
    NpxReplies n ((n.begin j).runs op data free) (before ||| k.2)
      ∧ (n.begin j).runs op data free = Npx.finish (op.settleCc free k.1, before ||| k.2) := by
  have goesOn : (n.begin j).numeric op data free = (k.1, before ||| k.2) := by
    rw [h, Npx.reply, Npx.begin_cw, if_neg masked]
  refine ⟨npxReplies_begin (npxReplies_runs goesOn), ?_⟩
  rw [Npx.runs, goesOn]

/-- An operation that answers to ST(i). -/
theorem npxDelivers_runs {i : BitVec 3} {pop : Bool} {a : NpxAnswer} (h : (n.begin j).numeric op data free = (n.begin j).deliverTo i pop a) :
    NpxDelivers n ((n.begin j).runs op data free) i pop a := by
  unfold Npx.deliverTo at h
  unfold NpxDelivers
  dsimp only
  split
  next trap => exact npxStopped_runs h trap
  next masked =>
    obtain ⟨replies, result⟩ := npxGoesOn_runs h masked
    refine ⟨replies, ?_⟩
    rw [result]
    have popped (k : BitVec 3) : (pop = true ∧ k = n.top) ∨ ¬(pop = true ∧ k = n.top) := Decidable.em _
    refine ⟨by simp, by simp, ?_, fun yes => by simp [yes], fun k hk => ⟨by simp [hk], ?_⟩⟩
    · simp [Npx.phys_eq_top]
    · obtain yes | no := popped k
      · exact .inl yes
      · exact .inr (by simp [hk, no])

/-- Whether an exception is raised as well. -/
theorem ite_or_when (e f : BitVec 6) (c : Bool) : (if c = true then e else e ||| f) = e ||| when (!c) f := by
  cases c <;> simp [when]

/-- An operation that pushes a number, after what its operand raises. -/
theorem npxPushes_runs {e : BitVec 6} {v : TempReal} (h : (n.begin j).numeric op data free = (n.begin j).reply e ((n.begin j).push v)) :
    NpxPushes n ((n.begin j).runs op data free) e v := by
  have both : (if n.isEmpty 7 = true then e else e ||| 1) = e ||| when (!n.isEmpty 7) exI := ite_or_when e 1 _
  unfold NpxPushes
  dsimp only
  rw [both, unmasked_or]
  by_cases trap : unmasked n.cw e ≠ 0
  · obtain ⟨replies, kept⟩ := npxStopped_runs h trap
    have one : unmasked n.cw e ||| unmasked n.cw (when (!n.isEmpty 7) exI) ≠ 0 := fun zero => trap (BitVec.or_eq_zero_iff.1 zero).1
    have nonzero : e ≠ 0 := by
      rintro rfl
      exact trap (unmasked_zero _)
    have inside : e &&& ~~~(e ||| when (!n.isEmpty 7) exI) = 0 := by
      refine BitVec.eq_of_getLsbD_eq fun k hk => ?_
      simp only [BitVec.getLsbD_and, BitVec.getLsbD_not, BitVec.getLsbD_or]
      cases e.getLsbD k <;> simp
    rw [if_pos one]
    exact ⟨kept, e, replies, nonzero, trap, inside⟩
  · have none : unmasked n.cw e = 0 := not_not.1 trap
    rw [none, show 0 ||| unmasked n.cw (when (!n.isEmpty 7) exI) = unmasked n.cw (when (!n.isEmpty 7) exI) by simp]
    have pushed : (n.begin j).push v
        = (n.begin j).reply (when (!n.isEmpty 7) exI) ((n.begin j).pushRaw (if n.isEmpty 7 then v else npxIndef), 0) := by
      simp [Npx.push]
    split
    next full =>
      have stopped : (n.begin j).push v = (n.begin j, when (!n.isEmpty 7) exI) := by rw [pushed, Npx.reply, Npx.begin_cw, if_pos full]
      obtain ⟨replies, result⟩ := npxGoesOn_runs h trap
      rw [stopped] at replies result
      have both_trap : unmasked n.cw (e ||| when (!n.isEmpty 7) exI) ≠ 0 := by
        rw [unmasked_or, none]
        simpa using full
      refine ⟨?_, _, replies, ?_, both_trap, ?_⟩
      · rw [result]
        exact npxStackKept_settleCc n j op free _
      · intro zero
        exact both_trap (by rw [zero, unmasked_zero])
      · simp
    next masked =>
      have goesOn : (n.begin j).push v = ((n.begin j).pushRaw (if n.isEmpty 7 then v else npxIndef), when (!n.isEmpty 7) exI) := by
        rw [pushed, Npx.reply, Npx.begin_cw, if_neg masked]
        simp
      obtain ⟨replies, result⟩ := npxGoesOn_runs h trap
      rw [goesOn] at replies result
      refine ⟨replies, ?_⟩
      rw [result]
      refine ⟨by simp, ?_, ?_, fun k hk => ?_⟩
      · simp [Npx.st, Npx.phys]
      · simp [Npx.st, Npx.phys]
      · have hk : k ≠ n.top - 1#3 := by simpa using hk
        simp [hk]

/-- An operation that replaces ST(0) and pushes. -/
theorem npxReplacesAndPushes_runs {before after : BitVec 6} {x y : TempReal}
    (h : (n.begin j).numeric op data free = (n.begin j).reply (before ||| when (!n.isEmpty 7) exI)
      (((n.begin j).write 0 x).pushRaw (if n.isEmpty 7 then y else npxIndef), after)) :
    NpxReplacesAndPushes n ((n.begin j).runs op data free) before after x y := by
  have both : (if n.isEmpty 7 = true then before else before ||| 1) = before ||| when (!n.isEmpty 7) exI := ite_or_when before 1 _
  unfold NpxReplacesAndPushes
  dsimp only
  rw [both]
  split
  next trap => exact npxStopped_runs h trap
  next masked =>
    obtain ⟨replies, result⟩ := npxGoesOn_runs h masked
    have below : n.top ≠ n.top - 1#3 := by bv_omega
    refine ⟨replies, ?_⟩
    rw [result]
    refine ⟨by simp, ?_, by simp [Npx.phys, below], by simp [Npx.st, Npx.phys], by simp [Npx.st, Npx.phys], fun k hk hk' => ?_⟩
    · simp [Npx.st, Npx.phys, below]
    · have hk : k ≠ n.top - 1#3 := by simpa using hk
      simp [hk, hk', Npx.phys]

end

end Sys2Proof.Machine

/-! SUPPORT. The temporary real format (47_npx_8087_state.md R330): the fields of 80 bits and of what is packed from fields. -/

namespace Sys2Proof.Machine

/-! ## Fields -/

theorem realField_lt (v : TempReal) : realField v < 2 ^ 15 := Nat.mod_lt _ (by decide)
theorem realSig_lt (v : TempReal) : realSig v < 2 ^ 64 := Nat.mod_lt _ (by decide)

/-- The sign bit as the top of the number. -/
theorem realNeg_toNat (v : TempReal) : (realNeg v).toNat = v.toNat / 2 ^ 79 := by
  have := v.isLt
  rw [realNeg, BitVec.getLsbD, Nat.testBit_eq_decide_div_mod_eq]
  by_cases h : v.toNat / 2 ^ 79 % 2 = 1
  · rw [decide_eq_true h, Bool.toNat_true]
    omega
  · rw [decide_eq_false h, Bool.toNat_false]
    omega

/-- The three fields make up the number. -/
theorem toNat_eq_fields (v : TempReal) : v.toNat = (realNeg v).toNat * 2 ^ 79 + realField v * 2 ^ 64 + realSig v := by
  have := v.isLt
  rw [realNeg_toNat, realField, realSig]
  omega

section
variable (neg : Bool) {field sig : Nat} (hf : field < 2 ^ 15) (hs : sig < 2 ^ 64)
include hf hs

theorem toNat_packReal : (packReal neg field sig).toNat = neg.toNat * 2 ^ 79 + field * 2 ^ 64 + sig := by
  have := neg.toNat_le
  rw [packReal, BitVec.toNat_ofNat, Nat.mod_eq_of_lt (by omega)]

theorem realNeg_packReal : realNeg (packReal neg field sig) = neg := by
  have h := realNeg_toNat (packReal neg field sig)
  rw [toNat_packReal neg hf hs] at h
  have same : (realNeg (packReal neg field sig)).toNat = neg.toNat := by omega
  revert same
  cases realNeg (packReal neg field sig) <;> cases neg <;> simp

theorem realField_packReal : realField (packReal neg field sig) = field := by
  rw [realField, toNat_packReal neg hf hs]
  omega

theorem realSig_packReal : realSig (packReal neg field sig) = sig := by
  rw [realSig, toNat_packReal neg hf hs]
  omega

end

/-- 80 bits are packed from their own fields. -/
theorem packReal_self (v : TempReal) : packReal (realNeg v) (realField v) (realSig v) = v :=
  BitVec.eq_of_toNat_eq (by rw [toNat_packReal _ (realField_lt v) (realSig_lt v), ← toNat_eq_fields])

/-! ## The sign alone -/

theorem getLsbD_packReal_fields (neg : Bool) (v : TempReal) (i : Nat) (hi : i < 80) :
    (packReal neg (realField v) (realSig v)).getLsbD i = if i = 79 then neg else v.getLsbD i := by
  by_cases top : i = 79
  · subst top
    exact realNeg_packReal neg (realField_lt v) (realSig_lt v)
  · rw [if_neg top]
    have low : (packReal neg (realField v) (realSig v)).toNat % 2 ^ 79 = v.toNat % 2 ^ 79 := by
      rw [toNat_packReal neg (realField_lt v) (realSig_lt v), toNat_eq_fields v]
      omega
    have bits (w : TempReal) : w.getLsbD i = (w.toNat % 2 ^ 79).testBit i := by
      rw [Nat.testBit_mod_two_pow, decide_eq_true (show i < 79 by omega), Bool.true_and]
      rfl
    rw [bits, bits, low]

theorem getLsbD_signBit (i : Nat) : (1#80 <<< 79).getLsbD i = decide (i = 79) := by
  rw [← BitVec.twoPow_eq, BitVec.getLsbD_twoPow]
  simp [eq_comm]

/-- Clearing the sign field clears the sign bit. -/
theorem packReal_false_fields (v : TempReal) : packReal false (realField v) (realSig v) = v &&& ~~~(1#80 <<< 79) := by
  refine BitVec.eq_of_getLsbD_eq fun i hi => ?_
  rw [getLsbD_packReal_fields false v i hi, BitVec.getLsbD_and, BitVec.getLsbD_not, getLsbD_signBit, decide_eq_true hi]
  split
  next h => simp [h]
  next h => simp [h]

/-- Changing the sign field changes the sign bit. -/
theorem packReal_not_fields (v : TempReal) : packReal (!realNeg v) (realField v) (realSig v) = v ^^^ 1#80 <<< 79 := by
  refine BitVec.eq_of_getLsbD_eq fun i hi => ?_
  rw [getLsbD_packReal_fields _ v i hi, BitVec.getLsbD_xor, getLsbD_signBit]
  split
  next h => simp [h, realNeg]
  next h => simp [h]

/-! ## Classes -/

theorem realClass_infinity {v : TempReal} : realClass v = .infinity ↔ realField v = 0x7FFF ∧ realSig v = 2 ^ 63 := by
  unfold realClass; split_ifs <;> simp_all
theorem realClass_nan {v : TempReal} : realClass v = .nan ↔ realField v = 0x7FFF ∧ realSig v ≠ 2 ^ 63 := by
  unfold realClass; split_ifs <;> simp_all
theorem realClass_zero {v : TempReal} : realClass v = .zero ↔ realField v = 0 ∧ realSig v = 0 := by
  unfold realClass; split_ifs <;> simp_all
theorem realClass_denormal {v : TempReal} : realClass v = .denormal ↔ realField v = 0 ∧ realSig v ≠ 0 := by
  unfold realClass; split_ifs <;> simp_all
theorem realClass_unnormal {v : TempReal} : realClass v = .unnormal ↔ realField v ≠ 0 ∧ realField v ≠ 0x7FFF ∧ realSig v < 2 ^ 63 := by
  unfold realClass; split_ifs <;> simp_all
theorem realClass_normal {v : TempReal} : realClass v = .normal ↔ realField v ≠ 0 ∧ realField v ≠ 0x7FFF ∧ 2 ^ 63 ≤ realSig v := by
  unfold realClass; split_ifs <;> simp_all

/-- The source operand of a register is marked if it is a denormal. -/
theorem regOperand_den (v : TempReal) : (regOperand v).den = decide (realClass v = .denormal) := by
  unfold regOperand
  split
  next h => simp [h]
  next h => simp [h]

end Sys2Proof.Machine

/-! O44. The register stack operations of the 8087 (48_npx_8087_instructions.md R350 to R354, R384, R385, R400 to R406, R419 to R422). -/

namespace Sys2Proof.Machine

/-! ## An empty register filled with the indefinite, R338 row 1 -/

/-- The indefinite in ST(k) if it is empty. -/
def Npx.filled (k : BitVec 3) (n : Npx) : Npx := if n.isEmpty k then n.write k npxIndef else n

/-- FXCH exchanges what the two registers hold once the empty ones are filled. -/
theorem Npx.exchange_eq {n m : Npx} {i : BitVec 3} (hm : (n.filled 0).filled i = m) :
    n.exchange i = n.reply (when (n.isEmpty 0 || n.isEmpty i) exI)
      ((m.put m.top (m.st i) (m.tag (m.phys i))).put (m.phys i) (m.st 0) (m.tag m.top), 0) := by
  subst hm
  rfl

theorem tagOf_npxIndef : tagOf npxIndef = 2 := by decide

@[simp] theorem Npx.top_filled (k : BitVec 3) (n : Npx) : (n.filled k).top = n.top := by
  unfold Npx.filled
  split <;> rfl

theorem Npx.reg_filled (k : BitVec 3) (n : Npx) (j : BitVec 3) :
    (n.filled k).reg j = if n.isEmpty k ∧ j = n.phys k then npxIndef else n.reg j := by
  unfold Npx.filled
  split
  next h => simp [h]
  next h => simp [h]

theorem Npx.tag_filled (k : BitVec 3) (n : Npx) (j : BitVec 3) :
    (n.filled k).tag j = if n.isEmpty k ∧ j = n.phys k then 2 else n.tag j := by
  unfold Npx.filled
  split
  next h => simp [h, tagOf_npxIndef]
  next h => simp [h]

/-- Is a register empty once ST(0) is filled? -/
theorem Npx.isEmpty_filled_zero (n : Npx) (i : BitVec 3) : (n.filled 0).isEmpty i = (n.isEmpty i && i != 0) := by
  unfold Npx.isEmpty
  rw [Npx.tag_filled, Npx.phys, Npx.top_filled]
  by_cases hi : i = 0
  · subst hi
    by_cases empty : n.tag n.top = 3#2 <;> simp [Npx.isEmpty, Npx.phys, empty]
  · have hi : ¬i = 0#3 := hi
    simp [hi, Npx.phys]

/-- What FXCH finds in ST(k), k being 0 or the other register. -/
theorem Npx.filled_at (n : Npx) (i k : BitVec 3) (hk : k = 0 ∨ k = i) :
    ((n.filled 0).filled i).reg (n.phys k) = (if n.isEmpty k then npxIndef else n.st k)
      ∧ ((n.filled 0).filled i).tag (n.phys k) = if n.isEmpty k then 2 else n.tag (n.phys k) := by
  have phys0 : (n.filled 0).phys i = n.phys i := by simp [Npx.phys]
  have same (a b : BitVec 3) : n.phys a = n.phys b ↔ a = b := by simp [Npx.phys]
  simp only [Npx.reg_filled, Npx.tag_filled, Npx.isEmpty_filled_zero, phys0, same, Npx.st]
  obtain rfl | rfl := hk
  · by_cases hi : 0#3 = i
    · subst hi
      simp
    · by_cases empty : n.isEmpty 0#3 <;> simp [empty, hi]
  · by_cases hi : k = 0#3
    · subst hi
      simp
    · simp [hi]

/-- The other registers are as they were. -/
theorem Npx.filled_off (n : Npx) (i k : BitVec 3) (top : k ≠ n.top) (other : k ≠ n.phys i) :
    ((n.filled 0).filled i).reg k = n.reg k ∧ ((n.filled 0).filled i).tag k = n.tag k := by
  have zero : k ≠ n.phys 0 := by simpa [Npx.phys] using top
  have phys0 : (n.filled 0).phys i = n.phys i := by simp [Npx.phys]
  rw [Npx.reg_filled, Npx.tag_filled, phys0, if_neg fun h => other h.2, if_neg fun h => other h.2, Npx.reg_filled, Npx.tag_filled,
    if_neg fun h => zero h.2, if_neg fun h => zero h.2]
  exact ⟨rfl, rfl⟩

section
variable {n : Npx} {j : NpxJob} {free : NpxFree} {data : TempReal}

/-- An operation that raises nothing. -/
theorem npxQuiet_runs {op : NpxOp} {m : Npx} (h : (n.begin j).numeric op data free = (m, 0)) :
    NpxReplies n ((n.begin j).runs op data free) 0 ∧ (n.begin j).runs op data free = Npx.finish (op.settleCc free m, 0) := by
  refine ⟨npxReplies_begin (npxReplies_runs h), ?_⟩
  rw [Npx.runs, h]

/-- FST and FSTP to a register from one that is not empty. -/
theorem numeric_storeSt (i : BitVec 3) (pop : Bool) (full : n.isEmpty 0 = false) :
    (n.begin j).numeric (.storeSt i pop) data free = (((n.begin j).put (n.phys i) (n.st 0) (n.tag n.top)).popIf pop, 0) := by
  have full : n.isEmpty 0#3 = false := full
  simp [Npx.numeric, Npx.storeSt, full]

/-- FABS and FCHS of a register that is not empty. -/
theorem setSign_full {f : Bool → Bool} (full : n.isEmpty 0 = false) :
    (n.begin j).setSign f = ((n.begin j).put n.top (packReal (f (realNeg (n.st 0))) (realField (n.st 0)) (realSig (n.st 0))) (n.tag n.top), 0) := by
  have full : n.isEmpty 0#3 = false := full
  simp [Npx.setSign, full]

/-- What they leave: the new bits in ST(0), its tag and the other registers as they were. -/
theorem putTop_settles (op : NpxOp) (v : TempReal) :
    let m := Npx.finish (op.settleCc free ((n.begin j).put n.top v (n.tag n.top)), 0)
    m.top = n.top ∧ m.st 0 = v ∧ m.tw = n.tw ∧ ∀ k, k ≠ n.top → m.reg k = n.reg k ∧ m.tag k = n.tag k := by
  have tags : (Npx.finish (op.settleCc free ((n.begin j).put n.top v (n.tag n.top)), 0)).tw = n.tw :=
    Npx.tw_ext fun k => by
      by_cases hk : k = n.top <;> simp [hk]
  exact ⟨by simp, by simp [Npx.st, Npx.phys], tags, fun k hk => ⟨by simp [hk], by simp [hk]⟩⟩

/-- An empty ST(0) answers the indefinite. -/
theorem setSign_empty {f : Bool → Bool} (empty : n.isEmpty 0 = true) :
    (n.begin j).setSign f = (n.begin j).deliverTo 0 false ⟨npxIndef, 1, 0⟩ := by
  have empty : n.isEmpty 0#3 = true := empty
  simp [Npx.setSign, empty, emptyAnswer, exI]

theorem numeric_storeSt_empty (i : BitVec 3) (pop : Bool) (empty : n.isEmpty 0 = true) :
    (n.begin j).numeric (.storeSt i pop) data free = (n.begin j).deliverTo i pop ⟨npxIndef, 1, 0⟩ := by
  have empty : n.isEmpty 0#3 = true := empty
  simp [Npx.numeric, Npx.storeSt, empty, emptyAnswer, exI]

/-- FXCH. -/
theorem exchange_runs (i : BitVec 3) :
    let value (k : BitVec 3) : TempReal := if n.isEmpty k then npxIndef else n.st k
    let tag (k : BitVec 3) : BitVec 2 := if n.isEmpty k then 2 else n.tag (n.phys k)
    let e : BitVec 6 := if n.isEmpty 0 ∨ n.isEmpty i then 1 else 0
    let m := (n.begin j).runs (.exchange i) data free
    NpxReplies n m e
      ∧ if unmasked n.cw e ≠ 0 then NpxStackKept n m
        else m.top = n.top ∧ m.st 0 = value i ∧ m.tag n.top = tag i ∧ m.st i = value 0 ∧ m.tag (n.phys i) = tag 0
          ∧ ∀ k, k ≠ n.phys i → k ≠ n.top → m.reg k = n.reg k ∧ m.tag k = n.tag k := by
  intro value tag e m
  have raised : when (n.isEmpty 0 || n.isEmpty i) exI = e := by
    simp only [e, when, exI, Bool.or_eq_true]
  have zero : n.phys 0 = n.top := by simp [Npx.phys]
  obtain ⟨atTop, tagTop⟩ := Npx.filled_at (n.begin j) i 0 (.inl rfl)
  obtain ⟨atI, tagI⟩ := Npx.filled_at (n.begin j) i i (.inr rfl)
  rw [Npx.phys_begin, Npx.isEmpty_begin, zero] at atTop tagTop
  rw [Npx.phys_begin, Npx.isEmpty_begin] at atI tagI
  rw [Npx.st_begin] at atTop atI
  rw [Npx.tag_begin] at tagTop tagI
  have run : (n.begin j).numeric (.exchange i) data free
      = (n.begin j).reply e (((((n.begin j).filled 0).filled i).put n.top (value i) (tag i)).put (n.phys i) (value 0) (tag 0), 0) := by
    have eq := Npx.exchange_eq (m := ((n.begin j).filled 0).filled i) rfl
    have top : (((n.begin j).filled 0).filled i).top = n.top := by simp
    have phys (k : BitVec 3) : (((n.begin j).filled 0).filled i).phys k = n.phys k := by simp [Npx.phys]
    have st (k : BitVec 3) : (((n.begin j).filled 0).filled i).st k = (((n.begin j).filled 0).filled i).reg (n.phys k) := by rw [← phys k]; rfl
    rw [st, st, phys, zero, top, atTop, tagTop, atI, tagI, Npx.isEmpty_begin, Npx.isEmpty_begin, raised] at eq
    have tag0 : tag 0 = if n.isEmpty 0 then 2 else n.tag n.top := by simp only [tag, zero]
    rw [tag0]
    exact eq
  split
  next trap => exact npxStopped_runs run trap
  next masked =>
    obtain ⟨replies, result⟩ := npxGoesOn_runs run masked
    refine ⟨by simpa using replies, ?_⟩
    simp only [m, result]
    have same : n.top = n.phys i → i = 0#3 := fun h => (Npx.phys_eq_top n i).1 h.symm
    refine ⟨by simp, ?_, ?_, by simp [Npx.st, Npx.phys], by simp, fun k hk hk' => ?_⟩
    · rw [Npx.st_zero]
      by_cases hi : n.top = n.phys i
      · simp [Npx.phys, same hi]
      · simp [hi]
    · by_cases hi : n.top = n.phys i
      · simp [Npx.phys, same hi]
      · simp [hi]
    · obtain ⟨reg, tag⟩ := Npx.filled_off (n.begin j) i k (by simpa using hk') (by simpa using hk)
      rw [Npx.reg_begin] at reg
      rw [Npx.tag_begin] at tag
      exact ⟨by simpa [hk, hk'] using reg, by simpa [hk, hk'] using tag⟩

end

/-! ## The operations at their ESC -/

theorem mem_npxStackForms_fldSti : (Instr.fldSti, 8, fun i => .loadSt i) ∈ npxStackForms := by simp [npxStackForms, npxStackFormsA]
theorem mem_npxStackForms_fxchSti : (Instr.fxchSti, 9, fun i => .exchange i) ∈ npxStackForms := by simp [npxStackForms, npxStackFormsA]
theorem mem_npxStackForms_ffreeSti : (Instr.ffreeSti, 40, fun i => .free i) ∈ npxStackForms := by simp [npxStackForms, npxStackFormsA]
theorem mem_npxStackForms_fstSti : (Instr.fstSti, 42, fun i => .storeSt i false) ∈ npxStackForms := by
  simp [npxStackForms, npxStackFormsA]
theorem mem_npxStackForms_fstpSti : (Instr.fstpSti, 43, fun i => .storeSt i true) ∈ npxStackForms := by
  simp [npxStackForms, npxStackFormsA]
theorem mem_npxFixedForms_fabs : (Instr.fabs, 12, 1, .abs) ∈ npxFixedForms := by simp [npxFixedForms, npxFixedFormsA]
theorem mem_npxFixedForms_fchs : (Instr.fchs, 12, 0, .chs) ∈ npxFixedForms := by simp [npxFixedForms, npxFixedFormsA]
theorem mem_npxFixedForms_fincstp : (Instr.fincstp, 14, 7, .incstp) ∈ npxFixedForms := by simp [npxFixedForms, npxFixedFormsA]
theorem mem_npxFixedForms_fdecstp : (Instr.fdecstp, 14, 6, .decstp) ∈ npxFixedForms := by simp [npxFixedForms, npxFixedFormsA]
theorem mem_npxFixedForms_fnop : (Instr.fnop, 10, 0, .nop) ∈ npxFixedForms := by simp [npxFixedForms, npxFixedFormsA]

section
variable {s : State} (h : s.NpxReady)
include h

/-- The constants push themselves. -/
theorem State.NpxReady.const_pushes {i : Instr} {x : BitVec 6} {k : BitVec 3} {c : NpxConst} (hi : (i, x, k, .const c) ∈ npxFixedForms) :
    s.NpxLeaves i fun m => NpxPushes s.npx m 0 c.real :=
  h.gives_fixed hi rfl fun j _ => npxPushes_runs (Npx.reply_zero _ ((s.npx.begin j).push c.real)).symm


/-- FLD ST(i). -/
theorem State.NpxReady.loadSt_pushes (i : BitVec 3) :
    s.NpxLeaves (.fldSti i) fun m =>
      if s.npx.isEmpty i then NpxPushes s.npx m 1 npxIndef
      else NpxPushes s.npx m (if realClass (s.npx.st i) = .denormal then 2 else 0) (s.npx.st i) := by
  refine h.gives_stack _ mem_npxStackForms_fldSti i fun j free => ?_
  split
  next empty => exact npxPushes_runs (by simp [Npx.numeric, Npx.loadSt, empty, exI])
  next full => exact npxPushes_runs (by simp [Npx.numeric, Npx.loadSt, full, regOperand_den, when, exD])

/-- FST ST(i) from a register that is not empty. -/
theorem State.NpxReady.storeSt_copies (i : BitVec 3) (full : s.npx.isEmpty 0 = false) :
    s.NpxLeaves (.fstSti i) fun m => NpxReplies s.npx m 0 ∧ m.top = s.npx.top ∧ m.st i = s.npx.st 0
      ∧ m.tag (s.npx.phys i) = s.npx.tag s.npx.top
      ∧ ∀ k, k ≠ s.npx.phys i → m.reg k = s.npx.reg k ∧ m.tag k = s.npx.tag k := by
  refine h.gives_stack _ mem_npxStackForms_fstSti i fun j free => ?_
  obtain ⟨replies, result⟩ := npxQuiet_runs (j := j) (data := 0) (free := free) (numeric_storeSt i false full)
  refine ⟨replies, ?_⟩
  rw [result]
  exact ⟨by simp, by simp [Npx.st, Npx.phys], by simp, fun k hk => ⟨by simp [hk], by simp [hk]⟩⟩

/-- FSTP ST(i). -/
theorem State.NpxReady.storeSt_copies_pops (i : BitVec 3) (full : s.npx.isEmpty 0 = false) :
    s.NpxLeaves (.fstpSti i) fun m => NpxReplies s.npx m 0 ∧ m.top = s.npx.top + 1 ∧ m.isEmpty 7 = true
      ∧ (i ≠ 0 → m.st (i - 1) = s.npx.st 0 ∧ m.tag (s.npx.phys i) = s.npx.tag s.npx.top)
      ∧ ∀ k, k ≠ s.npx.phys i → k ≠ s.npx.top → m.reg k = s.npx.reg k ∧ m.tag k = s.npx.tag k := by
  refine h.gives_stack _ mem_npxStackForms_fstpSti i fun j free => ?_
  obtain ⟨replies, result⟩ := npxQuiet_runs (j := j) (data := 0) (free := free) (numeric_storeSt i true full)
  refine ⟨replies, ?_⟩
  rw [result]
  have around : s.npx.top + 1#3 + 7#3 = s.npx.top := by bv_omega
  have same : s.npx.top + 1#3 + (i - 1#3) = s.npx.top + i := by bv_omega
  refine ⟨by simp, ?_, fun hi => ⟨?_, ?_⟩, fun k hk hk' => ⟨by simp [hk], by simp [hk, hk']⟩⟩
  · simp [Npx.isEmpty, Npx.phys, around]
  · simp [Npx.st, Npx.phys, same]
  · have other : ¬s.npx.phys i = s.npx.top := fun e => hi ((Npx.phys_eq_top s.npx i).1 e)
    simp [other]

/-- FABS and FCHS of a register that is not empty. -/
theorem State.NpxReady.setSign_sets {i : Instr} {x : BitVec 6} {k : BitVec 3} {op : NpxOp} {f : Bool → Bool}
    (hi : (i, x, k, op) ∈ npxFixedForms) (numeric : op.numeric = true) (hop : ∀ n data free, Npx.numeric op data free n = n.setSign f)
    (full : s.npx.isEmpty 0 = false) :
    s.NpxLeaves i fun m => NpxReplies s.npx m 0 ∧ m.top = s.npx.top
      ∧ m.st 0 = packReal (f (realNeg (s.npx.st 0))) (realField (s.npx.st 0)) (realSig (s.npx.st 0)) ∧ m.tw = s.npx.tw
      ∧ ∀ k, k ≠ s.npx.top → m.reg k = s.npx.reg k ∧ m.tag k = s.npx.tag k := by
  refine h.gives_fixed hi numeric fun j free => ?_
  obtain ⟨replies, result⟩ := npxQuiet_runs ((hop (s.npx.begin j) 0 free).trans (setSign_full full))
  refine ⟨replies, ?_⟩
  rw [result]
  exact putTop_settles op _

/-- And of an empty one. -/
theorem State.NpxReady.setSign_delivers {i : Instr} {x : BitVec 6} {k : BitVec 3} {op : NpxOp} {f : Bool → Bool}
    (hi : (i, x, k, op) ∈ npxFixedForms) (numeric : op.numeric = true) (hop : ∀ n data free, Npx.numeric op data free n = n.setSign f)
    (empty : s.npx.isEmpty 0 = true) :
    s.NpxLeaves i fun m => NpxDelivers s.npx m 0 false ⟨npxIndef, 1, 0⟩ :=
  h.gives_fixed hi numeric fun _ _ => npxDelivers_runs ((hop _ _ _).trans (setSign_empty empty))


/-- FINCSTP, FDECSTP and FNOP, which set the top alone. -/
theorem State.NpxReady.setTop_sets {i : Instr} {x : BitVec 6} {k : BitVec 3} {op : NpxOp} (t : BitVec 3 → BitVec 3)
    (hi : (i, x, k, op) ∈ npxFixedForms) (numeric : op.numeric = true)
    (hop : ∀ n data free, ∃ m, Npx.numeric op data free n = (m, 0) ∧ m.top = t n.top ∧ m.tw = n.tw ∧ m.r = n.r) :
    s.NpxLeaves i fun m => NpxReplies s.npx m 0 ∧ m.top = t s.npx.top ∧ m.tw = s.npx.tw ∧ m.r = s.npx.r := by
  refine h.gives_fixed hi numeric fun j free => ?_
  obtain ⟨m, run, top, tw, r⟩ := hop (s.npx.begin j) 0 free
  obtain ⟨replies, result⟩ := npxQuiet_runs run
  refine ⟨replies, ?_⟩
  rw [result]
  exact ⟨by simpa using top, by simpa using tw, by simpa using r⟩

/-- FXCH. -/
theorem State.NpxReady.exchange_exchanges (i : BitVec 3) :
    let n := s.npx
    let value (k : BitVec 3) : TempReal := if n.isEmpty k then npxIndef else n.st k
    let tag (k : BitVec 3) : BitVec 2 := if n.isEmpty k then 2 else n.tag (n.phys k)
    let e : BitVec 6 := if n.isEmpty 0 ∨ n.isEmpty i then 1 else 0
    s.NpxLeaves (.fxchSti i) fun m => NpxReplies n m e
      ∧ if unmasked n.cw e ≠ 0 then NpxStackKept n m
        else m.top = n.top ∧ m.st 0 = value i ∧ m.tag n.top = tag i ∧ m.st i = value 0 ∧ m.tag (n.phys i) = tag 0
          ∧ ∀ k, k ≠ n.phys i → k ≠ n.top → m.reg k = n.reg k ∧ m.tag k = n.tag k :=
  h.gives_stack _ mem_npxStackForms_fxchSti i fun _ _ => exchange_runs i

/-- FFREE. -/
theorem State.NpxReady.free_empties (i : BitVec 3) :
    s.NpxLeaves (.ffreeSti i) fun m => NpxReplies s.npx m 0 ∧ m.top = s.npx.top ∧ m.isEmpty i = true ∧ m.r = s.npx.r
      ∧ ∀ k, k ≠ s.npx.phys i → m.reg k = s.npx.reg k ∧ m.tag k = s.npx.tag k := by
  refine h.gives_stack _ mem_npxStackForms_ffreeSti i fun j free => ?_
  have run : (s.npx.begin j).numeric (.free i) 0 free = ((s.npx.begin j).setTag (s.npx.phys i) 3, 0) := by simp [Npx.numeric]
  obtain ⟨replies, result⟩ := npxQuiet_runs run
  refine ⟨replies, ?_⟩
  rw [result]
  exact ⟨by simp, by simp [Npx.isEmpty, Npx.phys], by simp, fun k hk => ⟨by simp, by simp [hk]⟩⟩

end

/-- Settles O44: each form by the operation it starts, run at its ESC. -/
theorem npxStackOperations : Obligations.NpxStackOperations := by
  unfold Obligations.NpxStackOperations
  intro s h gives n quiet same invalid
  refine ⟨?_, h.loadSt_pushes, fun i full => ⟨h.storeSt_copies i full, h.storeSt_copies_pops i full⟩, fun i empty => ⟨?_, ?_⟩, fun i => ?_,
    fun full => ⟨?_, ?_⟩, fun empty => ?_, ?_, ?_, h.free_empties, ?_⟩
  · simp only [List.forall_mem_cons]
    refine ⟨h.const_pushes (c := .zero) (x := 13) (k := 6) ?_, h.const_pushes (c := .one) (x := 13) (k := 0) ?_,
      h.const_pushes (c := .pi) (x := 13) (k := 3) ?_, h.const_pushes (c := .l2t) (x := 13) (k := 1) ?_,
      h.const_pushes (c := .l2e) (x := 13) (k := 2) ?_, h.const_pushes (c := .lg2) (x := 13) (k := 4) ?_,
      h.const_pushes (c := .ln2) (x := 13) (k := 5) ?_, fun _ none => absurd none List.not_mem_nil⟩ <;>
      simp [npxFixedForms, npxFixedFormsA]
  · exact h.gives_stack (P := fun m => NpxDelivers n m i false invalid) _ mem_npxStackForms_fstSti i fun j free => npxDelivers_runs (numeric_storeSt_empty i false empty)
  · exact h.gives_stack (P := fun m => NpxDelivers n m i true invalid) _ mem_npxStackForms_fstpSti i fun j free => npxDelivers_runs (numeric_storeSt_empty i true empty)
  · exact h.exchange_exchanges i
  · have set := h.setSign_sets (f := fun _ => false) mem_npxFixedForms_fabs rfl (fun _ _ _ => rfl) full
    rwa [packReal_false_fields] at set
  · have set := h.setSign_sets (f := fun b => !b) mem_npxFixedForms_fchs rfl (fun _ _ _ => rfl) full
    rwa [packReal_not_fields] at set
  · simp only [List.forall_mem_cons]
    exact ⟨h.setSign_delivers (f := fun _ => false) mem_npxFixedForms_fabs rfl (fun _ _ _ => rfl) empty,
      h.setSign_delivers (f := fun b => !b) mem_npxFixedForms_fchs rfl (fun _ _ _ => rfl) empty, fun _ none => absurd none List.not_mem_nil⟩
  · exact h.setTop_sets (· + 1) mem_npxFixedForms_fincstp rfl fun n _ _ => ⟨n.setTop (n.top + 1), rfl, by simp, rfl, rfl⟩
  · exact h.setTop_sets (· - 1) mem_npxFixedForms_fdecstp rfl fun n _ _ => ⟨n.setTop (n.top - 1), rfl, by simp, rfl, rfl⟩
  · exact h.setTop_sets id mem_npxFixedForms_fnop rfl fun n _ _ => ⟨n, rfl, rfl, rfl, rfl⟩

end Sys2Proof.Machine

/-! O46. The end of an operation and the arithmetic forms of the 8087 (47_npx_8087_state.md R318, R319, R337; 48_npx_8087_instructions.md
R360 to R380, R382). -/

namespace Sys2Proof.Machine

/-- `End` touches the six flags, IR and B alone. -/
theorem Npx.sw_finish_kept (n : Npx) (e : BitVec 6) : (Npx.finish (n, e)).sw &&& 0x7F40 = n.sw &&& 0x7F40 := by
  refine BitVec.eq_of_getLsbD_eq fun i hi => ?_
  rw [BitVec.getLsbD_and, BitVec.getLsbD_and, Npx.getLsbD_sw_finish]
  by_cases kept : i = 6 ∨ 8 ≤ i ∧ i < 15
  · rw [if_neg (by omega), BitVec.getLsbD_of_ge e i (by omega), decide_eq_false (show ¬i = 7 by omega)]
    simp
  · have outside : (0x7F40 : Word).getLsbD i = false := by
      obtain low | rfl | rfl : i < 6 ∨ i = 7 ∨ i = 15 := by omega
      · interval_cases i <;> rfl
      · rfl
      · rfl
    rw [outside, Bool.and_false, Bool.and_false]

/-! ## The operand of a register, R340 -/

theorem regOperand_of_ne {v : TempReal} (h : realClass v ≠ .denormal) : regOperand v = ⟨v, false⟩ := by rw [regOperand, if_neg h]

/-- A denormal counts as the number of its significand with exponent field 1. -/
theorem regOperand_denormal {v : TempReal} (h : realClass v = .denormal) :
    let o := regOperand v
    o.den = true ∧ realClass o.v = (if realSig v < 2 ^ 63 then .unnormal else .normal) ∧ realNeg o.v = realNeg v ∧ realSig o.v = realSig v
      ∧ realQ o.v = realQ v := by
  obtain ⟨field, -⟩ := realClass_denormal.1 h
  have neg := realNeg_packReal (realNeg v) (show 1 < 2 ^ 15 by decide) (realSig_lt v)
  have field' := realField_packReal (realNeg v) (show 1 < 2 ^ 15 by decide) (realSig_lt v)
  have sig := realSig_packReal (realNeg v) (show 1 < 2 ^ 15 by decide) (realSig_lt v)
  simp only [regOperand, if_pos h]
  refine ⟨trivial, ?_, neg, sig, ?_⟩
  · simp [realClass, field', sig]
  · simp [realQ, neg, sig, field', field]

section
variable {n : Npx} {j : NpxJob} {free : NpxFree} {data : TempReal}

/-! ## Answers -/

/-- Arithmetic on two registers answers to the destination. -/
theorem arithReg_runs {p : NpxOp} {op : NpxArith} {d k : BitVec 3} {pop : Bool}
    (hp : ∀ m : Npx, m.numeric p data free = m.arithReg free.real op d k pop) :
    NpxDelivers n ((n.begin j).runs p data free) d pop
      (if n.isEmpty d || n.isEmpty k then ⟨npxIndef, 1, 0⟩
        else arith n.cw free.real op false (regOperand (n.st d)) (regOperand (n.st k))) :=
  npxDelivers_runs (by rw [hp, Npx.arithReg]; simp [emptyAnswer, exI])

/-- Arithmetic on ST(0) and a memory operand. -/
theorem arithMem_runs (op : NpxArith) (f : NpxFmt) :
    NpxDelivers n ((n.begin j).runs (.arithMem op f) data free) 0 false
      (if n.isEmpty 0 then ⟨npxIndef, 1, 0⟩
        else arith n.cw free.real op f.isInt (regOperand (n.st 0)) (loadOperand free.real f data)) :=
  npxDelivers_runs (by simp [Npx.numeric, Npx.arithMem, emptyAnswer, exI])

/-- An operation on ST(0) alone. -/
theorem unary_runs {p : NpxOp} {f : Word → TempReal → NpxAnswer} (hp : ∀ m : Npx, m.numeric p data free = m.unary (f m.cw)) :
    NpxDelivers n ((n.begin j).runs p data free) 0 false (if n.isEmpty 0 then ⟨npxIndef, 1, 0⟩ else f n.cw (n.st 0)) :=
  npxDelivers_runs (by rw [hp, Npx.unary]; simp [emptyAnswer, exI])

/-- An operation on ST(0) and ST(1). -/
theorem binary_runs {p : NpxOp} {i : BitVec 3} {pop : Bool} {f : Word → TempReal → TempReal → NpxAnswer}
    (hp : ∀ m : Npx, m.numeric p data free = m.binary i pop (f m.cw)) :
    NpxDelivers n ((n.begin j).runs p data free) i pop
      (if n.isEmpty 0 || n.isEmpty 1 then ⟨npxIndef, 1, 0⟩ else f n.cw (n.st 0) (n.st 1)) :=
  npxDelivers_runs (by rw [hp, Npx.binary]; simp [emptyAnswer, exI])

end

theorem mem_npxFixedForms_fsqrt : (Instr.fsqrt, 15, 2, .sqrt) ∈ npxFixedForms := by simp [npxFixedForms, npxFixedFormsA]
theorem mem_npxFixedForms_frndint : (Instr.frndint, 15, 4, .rndint) ∈ npxFixedForms := by simp [npxFixedForms, npxFixedFormsA]
theorem mem_npxFixedForms_fscale : (Instr.fscale, 15, 5, .scale) ∈ npxFixedForms := by simp [npxFixedForms, npxFixedFormsA]

/-- An answer that may depend on a free value. -/
def NpxAnswers (n m : Npx) (d : BitVec 3) (pop none : Bool) (a : TempReal → NpxAnswer) : Prop :=
  ∃ fr, NpxDelivers n m d pop (if none then ⟨npxIndef, 1, 0⟩ else a fr)

/-- Settles O46: each form by its operation's answer. -/
theorem npxArithmeticForms : Obligations.NpxArithmeticForms := by
  unfold Obligations.NpxArithmeticForms
  refine ⟨fun n e => ⟨rfl, Npx.sw_finish_kept n e, npxReplies_finish (.refl n) e⟩, fun v => ⟨regOperand_of_ne, regOperand_denormal⟩,
    fun s h => ⟨?_, ?_, ?_, ?_, ?_, ?_⟩⟩
  · intro p hp op f hop rm mem
    have run := h.gives_memory (P := fun m => NpxAnswers s.npx m 0 false (s.npx.isEmpty 0) fun fr =>
        arith s.npx.cw fr op f.isInt (regOperand (s.npx.st 0)) (loadOperand fr f (BitVec.ofNat 80 (s.npxOperand f.bytes rm)))) p hp rm mem
    rw [hop] at run
    exact run rfl fun j free => ⟨free.real, arithMem_runs op f⟩
  · intro p hp k op hop
    have run := h.gives_stack (P := fun m => NpxAnswers s.npx m 0 false (s.npx.isEmpty 0 || s.npx.isEmpty k) fun fr =>
        arith s.npx.cw fr op false (regOperand (s.npx.st 0)) (regOperand (s.npx.st k))) p hp k
    rw [hop] at run
    exact run fun j free => ⟨free.real, arithReg_runs fun _ => rfl⟩
  · intro p hp k op pop hop
    have run := h.gives_stack (P := fun m => NpxAnswers s.npx m k pop (s.npx.isEmpty k || s.npx.isEmpty 0) fun fr =>
        arith s.npx.cw fr op false (regOperand (s.npx.st k)) (regOperand (s.npx.st 0))) p hp k
    rw [hop] at run
    exact run fun j free => ⟨free.real, arithReg_runs fun _ => rfl⟩
  · exact h.gives_fixed (P := fun m => NpxAnswers s.npx m 0 false (s.npx.isEmpty 0) fun fr =>
        sqrtAnswer s.npx.cw fr (regOperand (s.npx.st 0))) mem_npxFixedForms_fsqrt rfl
      fun j free => ⟨free.real, unary_runs (f := fun cw v => sqrtAnswer cw free.real (regOperand v)) fun _ => rfl⟩
  · exact h.gives_fixed (P := fun m => NpxAnswers s.npx m 0 false (s.npx.isEmpty 0) fun _ => rndintAnswer s.npx.cw (s.npx.st 0))
      mem_npxFixedForms_frndint rfl fun j free => ⟨free.real, unary_runs (f := rndintAnswer) fun _ => rfl⟩
  · exact h.gives_fixed (P := fun m => NpxAnswers s.npx m 0 false (s.npx.isEmpty 0 || s.npx.isEmpty 1) fun fr =>
        scaleAnswer s.npx.cw fr (s.npx.st 0) (s.npx.st 1)) mem_npxFixedForms_fscale rfl
      fun j free => ⟨free.real, binary_runs (f := fun cw => scaleAnswer cw free.real) fun _ => rfl⟩

end Sys2Proof.Machine

/-! SUPPORT. The exact values of the 8087's arithmetic (47_npx_8087_state.md R330, R335) as rational numbers: the number that (neg, mant, exp)
stands for, its exponent, its order, sum and product. -/

namespace Sys2Proof.Machine

/-- The number (−1)^neg × mant × 2^exp. -/
def Exact.toQ (x : Exact) : ℚ := x.signed * 2 ^ x.exp

theorem two_zpow_pos (e : ℤ) : (0 : ℚ) < 2 ^ e := zpow_pos (by norm_num) e

namespace Exact

/-! ## Sign and magnitude -/

theorem signed_eq (x : Exact) : (x.signed : ℚ) = (if x.neg then -1 else 1) * x.mant := by
  unfold signed
  split <;> simp

theorem toQ_eq (x : Exact) : x.toQ = (if x.neg then -1 else 1) * x.mant * 2 ^ x.exp := by rw [toQ, signed_eq]

theorem toQ_pos {x : Exact} (h : x.neg = false) : x.toQ = x.mant * 2 ^ x.exp := by simp [toQ_eq, h]
theorem toQ_neg {x : Exact} (h : x.neg = true) : x.toQ = -(x.mant * 2 ^ x.exp) := by simp [toQ_eq, h]

theorem abs_toQ (x : Exact) : |x.toQ| = x.mant * 2 ^ x.exp := by
  have := two_zpow_pos x.exp
  have nonneg : (0 : ℚ) ≤ x.mant * 2 ^ x.exp := by positivity
  cases h : x.neg
  · rw [toQ_pos h, abs_of_nonneg nonneg]
  · rw [toQ_neg h, abs_neg, abs_of_nonneg nonneg]

theorem toQ_eq_zero (x : Exact) : x.toQ = 0 ↔ x.mant = 0 := by
  rw [← abs_eq_zero, abs_toQ, mul_eq_zero, Nat.cast_eq_zero, or_iff_left (two_zpow_pos x.exp).ne']

theorem toQ_lt_zero {x : Exact} (h : x.mant ≠ 0) : x.toQ < 0 ↔ x.neg = true := by
  have := two_zpow_pos x.exp
  have : (0 : ℚ) < x.mant := by exact_mod_cast Nat.pos_of_ne_zero h
  have pos : (0 : ℚ) < x.mant * 2 ^ x.exp := by positivity
  cases n : x.neg
  · rw [toQ_pos n]
    simpa using pos.le
  · rw [toQ_neg n]
    simpa using pos

/-! ## The exponent -/

/-- A number of at least 2^e and less than 2^(e+1) has the exponent e. -/
theorem log_eq {q : ℚ} {e : ℤ} (low : 2 ^ e ≤ q) (high : q < 2 ^ (e + 1)) : Int.log 2 q = e := by
  have pos : 0 < q := (two_zpow_pos e).trans_le low
  apply le_antisymm
  · exact Int.lt_add_one_iff.1 ((Int.lt_zpow_iff_log_lt (by decide) pos).1 (by exact_mod_cast high))
  · exact (Int.zpow_le_iff_le_log (by decide) pos).1 (by exact_mod_cast low)

theorem zpow_exponent_le (x : Exact) (h : x.mant ≠ 0) : 2 ^ x.exponent ≤ |x.toQ| := by
  have low : 2 ^ x.mant.log2 ≤ x.mant := Nat.log2_self_le h
  have := two_zpow_pos x.exp
  rw [abs_toQ, exponent, add_comm, zpow_add₀ (by norm_num), zpow_natCast]
  gcongr
  exact_mod_cast low

theorem lt_zpow_exponent (x : Exact) : |x.toQ| < 2 ^ (x.exponent + 1) := by
  have high : x.mant < 2 ^ (x.mant.log2 + 1) := Nat.lt_log2_self
  have := two_zpow_pos x.exp
  rw [abs_toQ, exponent, show x.exp + (x.mant.log2 : ℤ) + 1 = ((x.mant.log2 + 1 : ℕ) : ℤ) + x.exp by push_cast; ring,
    zpow_add₀ (by norm_num), zpow_natCast]
  gcongr
  exact_mod_cast high

theorem log_toQ (x : Exact) (h : x.mant ≠ 0) : Int.log 2 |x.toQ| = x.exponent := log_eq (x.zpow_exponent_le h) x.lt_zpow_exponent

/-! ## Operations -/

theorem signed_ofInt (i e : ℤ) : (ofInt i e).signed = i := by
  unfold ofInt signed
  by_cases h : i < 0
  · simp [h, abs_of_neg h]
  · simp [h, abs_of_nonneg (not_lt.1 h)]

theorem toQ_ofInt (i e : ℤ) : (ofInt i e).toQ = i * 2 ^ e := by rw [toQ, signed_ofInt]; rfl

/-- A mantissa moved to a smaller exponent. -/
theorem zpow_shift {a b : ℤ} (h : a ≤ b) : (2 : ℚ) ^ b = 2 ^ (b - a).toNat * 2 ^ a := by
  rw [← zpow_natCast, Int.toNat_of_nonneg (by omega), ← zpow_add₀ (by norm_num)]
  congr 1
  omega

theorem toQ_add (x y : Exact) : (x.add y).toQ = x.toQ + y.toQ := by
  unfold add
  split
  next h =>
    rw [toQ_ofInt, toQ, toQ, zpow_shift h]
    push_cast
    ring
  next h =>
    rw [toQ_ofInt, toQ, toQ, zpow_shift (show y.exp ≤ x.exp by omega)]
    push_cast
    ring

theorem toQ_mul (x y : Exact) : (x.mul y).toQ = x.toQ * y.toQ := by
  unfold mul
  rw [toQ_eq, toQ_eq, toQ_eq]
  dsimp only
  rw [zpow_add₀ (by norm_num)]
  push_cast
  cases x.neg <;> cases y.neg <;> simp <;> ring

/-! ## Order -/

/-- The order of two integers is that of their multiples. -/
theorem compare_scaled (i j : ℤ) {u : ℚ} (h : 0 < u) :
    compare i j = if i * u < j * u then .lt else if j * u < i * u then .gt else .eq := by
  simp only [mul_lt_mul_iff_left₀ h, Int.cast_lt]
  obtain lt | eq | gt := lt_trichotomy i j
  · rw [if_pos lt, compare_lt_iff_lt.2 lt]
  · rw [if_neg (by omega), if_neg (by omega), compare_eq_iff_eq.2 eq]
  · rw [if_neg (by omega), if_pos gt, compare_gt_iff_gt.2 gt]

end Exact

/-- The model's order of two exact values is the order of their numbers. -/
theorem finiteOrder_eq (a b : Exact) : finiteOrder a b = if a.toQ < b.toQ then .lt else if b.toQ < a.toQ then .gt else .eq := by
  unfold finiteOrder
  split
  next h => rw [(Exact.toQ_eq_zero a).2 h.1, (Exact.toQ_eq_zero b).2 h.2]; rfl
  next =>
    split
    next h =>
      rw [Exact.compare_scaled _ _ (two_zpow_pos a.exp), Exact.toQ, Exact.toQ, Exact.zpow_shift h]
      push_cast
      simp only [mul_assoc]
    next h =>
      rw [Exact.compare_scaled _ _ (two_zpow_pos b.exp), Exact.toQ, Exact.toQ, Exact.zpow_shift (show b.exp ≤ a.exp by omega)]
      push_cast
      simp only [mul_assoc]

/-! ## Temporary reals -/

/-- The exact value of a temporary real is its number. -/
theorem toQ_realValue (v : TempReal) : (realValue v).toQ = realQ v := by
  rw [Exact.toQ_eq, realQ, realValue]
  dsimp only
  congr 2
  omega

theorem realQ_eq_zero (v : TempReal) : realQ v = 0 ↔ realSig v = 0 := by rw [← toQ_realValue, Exact.toQ_eq_zero]; rfl

theorem realQ_lt_zero {v : TempReal} (h : realSig v ≠ 0) : realQ v < 0 ↔ realNeg v = true := by
  rw [← toQ_realValue]
  exact Exact.toQ_lt_zero h

theorem realQ_pos {v : TempReal} (h : realSig v ≠ 0) : 0 < realQ v ↔ realNeg v = false := by
  rw [← Bool.not_eq_true, ← realQ_lt_zero h, not_lt, le_iff_lt_or_eq, or_iff_left]
  exact fun zero => h ((realQ_eq_zero v).1 zero.symm)

theorem realSig_ne_zero_of_normal {v : TempReal} (h : realClass v = .normal) : realSig v ≠ 0 := by
  obtain ⟨-, -, sig⟩ := realClass_normal.1 h
  omega

theorem realQ_of_zero {v : TempReal} (h : realClass v = .zero) : realQ v = 0 := (realQ_eq_zero v).2 (realClass_zero.1 h).2

end Sys2Proof.Machine

/-! O50. The 8087's comparisons and FXAM (48_npx_8087_instructions.md R386 to R393). -/

namespace Sys2Proof.Machine

/-! ## The order found, R386 -/

/-- What raises D in a comparison. -/
theorem comparesDenormal_iff (o : NpxOperand) :
    comparesDenormal o = true ↔ o.den = true ∨ (realClass o.v = .unnormal ∧ realSig o.v ≠ 0) := by
  simp [comparesDenormal]

/-- A denormal operand is D, which traps if DM is 0. -/
theorem unmasked_exD (cw : Word) (c : Bool) : unmasked cw (when c exD) ≠ 0 ↔ c = true ∧ cw.getLsbD 1 = false := by
  rw [unmasked_ne_zero]
  constructor
  · rintro ⟨k, hk, raised, mask⟩
    cases c
    · simp [when] at raised
    · obtain rfl : k = 1 := by
        simp only [when, exD] at raised
        interval_cases k <;> simp_all
      exact ⟨rfl, mask⟩
  · rintro ⟨rfl, mask⟩
    exact ⟨1, by decide, rfl, mask⟩

section
variable {cw : Word} {a b : NpxOperand}

/-- An unmasked D comes first. -/
theorem compareAnswer_trap (odd : (comparesDenormal a || comparesDenormal b) = true) (mask : cw.getLsbD 1 = false) :
    (compareAnswer cw a b).before = 2 := by
  unfold compareAnswer
  dsimp only
  rw [if_pos ((unmasked_exD cw _).2 ⟨odd, mask⟩), odd]
  rfl

/-- Otherwise the operands are compared. -/
theorem compareAnswer_go (h : ¬((comparesDenormal a || comparesDenormal b) = true ∧ cw.getLsbD 1 = false)) :
    compareAnswer cw a b
      = if realClass a.v = .nan ∨ realClass b.v = .nan then ⟨none, exI⟩
        else if realClass a.v = .infinity ∨ realClass b.v = .infinity then
          if affine cw then ⟨some (affineOrder a.v b.v), when (comparesDenormal a || comparesDenormal b) exD⟩
          else if realClass a.v = .infinity ∧ realClass b.v = .infinity then ⟨some .eq, when (comparesDenormal a || comparesDenormal b) exD⟩
          else ⟨none, exI ||| when (comparesDenormal a || comparesDenormal b) exD⟩
        else ⟨some (finiteOrder (realValue a.v) (realValue b.v)), when (comparesDenormal a || comparesDenormal b) exD⟩ := by
  unfold compareAnswer
  dsimp only
  rw [if_neg fun trap => h ((unmasked_exD cw _).1 trap)]

end

/-- Two infinities are ordered by their signs. -/
theorem affineOrder_both {a b : TempReal} (ha : realClass a = .infinity) (hb : realClass b = .infinity) :
    affineOrder a b = if realNeg a = realNeg b then .eq else if realNeg a then .lt else .gt := by
  unfold affineOrder
  dsimp only
  rw [if_pos ha, if_pos hb]
  cases realNeg a <;> cases realNeg b <;> rfl

theorem affineOrder_left {a b : TempReal} (ha : realClass a = .infinity) (hb : realClass b ≠ .infinity) :
    affineOrder a b = if realNeg a then .lt else .gt := by
  unfold affineOrder
  dsimp only
  rw [if_pos ha, if_neg hb]
  cases realNeg a <;> rfl

theorem affineOrder_right {a b : TempReal} (ha : realClass a ≠ .infinity) (hb : realClass b = .infinity) :
    affineOrder a b = if realNeg b then .gt else .lt := by
  unfold affineOrder
  dsimp only
  rw [if_neg ha, if_pos hb]
  cases realNeg b <;> rfl

/-! ## The condition code -/

/-- C3, C2, C0 of an order. -/
theorem orderBits_eq (o : Option Ordering) : orderBits o = match o with
    | some .gt => (false, false, false)
    | some .lt => (false, false, true)
    | some .eq => (true, false, false)
    | none => (true, true, true) := by
  cases o with
  | none => rfl
  | some o => cases o <;> rfl

/-- The condition code depends on three bits of SW. -/
theorem Npx.order_congr {n m : Npx} (h : ∀ i ∈ [14, 10, 8], m.sw.getLsbD i = n.sw.getLsbD i) : m.order = n.order := by
  rw [Npx.order, Npx.order, h 14 (by decide), h 10 (by decide), h 8 (by decide)]

@[simp] theorem Npx.order_setTop (t : BitVec 3) (n : Npx) : (n.setTop t).order = n.order :=
  Npx.order_congr fun i hi => by
    have outside : ¬(11 ≤ i ∧ i < 14) := by
      revert i
      decide
    rw [Npx.getLsbD_sw_setTop, if_neg outside]

@[simp] theorem Npx.order_popIf (c : Bool) (n : Npx) : (n.popIf c).order = n.order := by
  cases c
  · rfl
  · simp [Npx.popIf, Npx.pop]
    rfl

@[simp] theorem Npx.order_setCc (c3 c2 c1 c0 : Bool) (n : Npx) : (n.setCc c3 c2 c1 c0).order = (c3, c2, c0) := by
  rw [Npx.order, Npx.getLsbD_sw_setCc, Npx.getLsbD_sw_setCc, Npx.getLsbD_sw_setCc]
  rfl

@[simp] theorem Npx.order_finish (n : Npx) (e : BitVec 6) : (Npx.finish (n, e)).order = n.order :=
  Npx.order_congr fun i hi => by
    have high : 8 ≤ i ∧ i < 15 := by
      revert i
      decide
    rw [Npx.getLsbD_sw_finish, if_neg (by omega), BitVec.getLsbD_of_ge e i (by omega), decide_eq_false (show ¬i = 7 by omega)]
    simp

@[simp] theorem Npx.order_begin (j : NpxJob) (n : Npx) : (n.begin j).order = n.order :=
  Npx.order_congr fun i hi => by
    have high : i < 15 := by
      revert i
      decide
    rw [Npx.getLsbD_sw_begin, decide_eq_false (show ¬i = 15 by omega)]
    simp

/-! ## What a comparison leaves -/

/-- A comparison: its exceptions; unless one traps its pops and its condition code. -/
def NpxCompares (n m : Npx) (pops : Nat) (c : CompareAnswer) : Prop :=
  NpxReplies n m c.before
    ∧ if unmasked n.cw c.before ≠ 0 then NpxStackKept n m ∧ m.order = n.order
      else m.top = n.top + BitVec.ofNat 3 pops
        ∧ (∀ k : Nat, k < 8 → m.tag (n.phys (BitVec.ofNat 3 k)) = if k < pops then 3 else n.tag (n.phys (BitVec.ofNat 3 k)))
        ∧ m.order = match c.order with
          | some .gt => (false, false, false)
          | some .lt => (false, false, true)
          | some .eq => (true, false, false)
          | none => (true, true, true)

theorem Npx.compareWith_eq (n : Npx) (free : NpxFree) (c : CompareAnswer) (pops : Nat) :
    n.compareWith free c pops = n.reply c.before
      (((n.setCc (orderBits c.order).1 (orderBits c.order).2.1 (free.cc.getLsbD 9) (orderBits c.order).2.2).popIf (0 < pops)).popIf
        (1 < pops), 0) := rfl

/-- Up to two pops. -/
theorem Npx.pops_eq (n : Npx) {pops : Nat} (h : pops ≤ 2) :
    let m := (n.popIf (0 < pops)).popIf (1 < pops)
    m.r = n.r ∧ m.top = n.top + BitVec.ofNat 3 pops
      ∧ ∀ k : Nat, k < 8 → m.tag (n.phys (BitVec.ofNat 3 k)) = if k < pops then 3 else n.tag (n.phys (BitVec.ofNat 3 k)) := by
  have at' (a b : BitVec 3) : n.top + a = n.top + b ↔ a = b := by simp
  have atTop (a : BitVec 3) : n.top + a = n.top ↔ a = 0#3 := by simp
  obtain rfl | rfl | rfl : pops = 0 ∨ pops = 1 ∨ pops = 2 := by omega
  · exact ⟨rfl, by simp [Npx.popIf], fun k hk => by simp [Npx.popIf]⟩
  · refine ⟨rfl, by simp [Npx.popIf], fun k hk => ?_⟩
    interval_cases k <;> simp [Npx.popIf, Npx.phys]
  · refine ⟨rfl, ?_, fun k hk => ?_⟩
    · simp [Npx.popIf]
      bv_omega
    · interval_cases k <;> simp [Npx.popIf, Npx.phys]

section
variable {n : Npx} {j : NpxJob} {op : NpxOp} {data : TempReal} {free : NpxFree}

theorem compare_runs {c : CompareAnswer} {pops : Nat} (cc : op.definesCc = true) (two : pops ≤ 2)
    (h : (n.begin j).numeric op data free = (n.begin j).compareWith free c pops) :
    ((n.begin j).runs op data free).r = n.r ∧ NpxCompares n ((n.begin j).runs op data free) pops c := by
  have settle (m : Npx) : op.settleCc free m = m := by rw [NpxOp.settleCc, if_pos cc]
  rw [Npx.compareWith_eq] at h
  unfold NpxCompares
  by_cases trap : unmasked n.cw c.before ≠ 0
  · rw [if_pos trap]
    have stopped : (n.begin j).numeric op data free = (n.begin j, c.before) := by
      rw [h, Npx.reply, Npx.begin_cw, if_pos trap]
    obtain ⟨replies, kept⟩ := npxStopped_runs h trap
    refine ⟨kept.1, replies, kept, ?_⟩
    rw [Npx.runs, stopped, settle]
    simp
  · rw [if_neg trap]
    obtain ⟨replies, result⟩ := npxGoesOn_runs h trap
    rw [settle] at result
    obtain ⟨r, top, tags⟩ := ((n.begin j).setCc (orderBits c.order).1 (orderBits c.order).2.1 (free.cc.getLsbD 9) (orderBits c.order).2.2).pops_eq two
    refine ⟨?_, by simpa using replies, ?_, fun k hk => ?_, ?_⟩
    · rw [result]
      simpa using r
    · rw [result]
      simpa using top
    · rw [result]
      simpa [Npx.phys] using tags k hk
    · refine Eq.trans ?_ (orderBits_eq c.order)
      rw [result]
      simp

end

/-! ## FXAM, R393 -/

/-- C3, C2, C0 of a class. -/
def classBits : NpxClass → Bool × Bool × Bool
  | .unnormal => (false, false, false)
  | .nan => (false, false, true)
  | .normal => (false, true, false)
  | .infinity => (false, true, true)
  | .zero => (true, false, false)
  | .denormal => (true, true, false)

/-- FXAM of a register that is not empty sets them, and the sign in C1. -/
theorem Npx.examine_full {n : Npx} (free : NpxFree) (full : ¬n.isEmpty 0 = true) :
    let c := classBits (realClass (n.st 0))
    n.examine free = (n.setCc c.1 c.2.1 (realNeg (n.st 0)) c.2.2, 0) := by
  unfold Npx.examine
  rw [if_neg full]
  cases realClass (n.st 0) <;> rfl

/-- What FXAM leaves. -/
def NpxExamined (n m : Npx) : Prop :=
  NpxStackKept n m ∧ NpxReplies n m 0
    ∧ if n.isEmpty 0 then m.sw.getLsbD 14 = true ∧ m.sw.getLsbD 8 = true
      else m.sw.getLsbD 9 = realNeg (n.st 0) ∧ m.order = classBits (realClass (n.st 0))

theorem examine_runs {n : Npx} {j : NpxJob} {data : TempReal} {free : NpxFree} : NpxExamined n ((n.begin j).runs .examine data free) := by
  have code : ∃ c3 c2 c1 c0, (n.begin j).numeric .examine data free = ((n.begin j).setCc c3 c2 c1 c0, 0)
      ∧ if n.isEmpty 0 then c3 = true ∧ c0 = true else c1 = realNeg (n.st 0) ∧ (c3, c2, c0) = classBits (realClass (n.st 0)) := by
    by_cases empty : n.isEmpty 0
    · exact ⟨true, _, _, true, by rw [Npx.numeric, Npx.examine, Npx.isEmpty_begin, if_pos empty], by rw [if_pos empty]; exact ⟨rfl, rfl⟩⟩
    · have run := Npx.examine_full (n := n.begin j) free (by rwa [Npx.isEmpty_begin])
      rw [Npx.st_begin] at run
      exact ⟨_, _, _, _, run, by rw [if_neg empty]; exact ⟨rfl, rfl⟩⟩
  obtain ⟨c3, c2, c1, c0, run, meaning⟩ := code
  have result : (n.begin j).runs .examine data free = Npx.finish ((n.begin j).setCc c3 c2 c1 c0, 0) := by
    rw [Npx.runs, run]
    rfl
  have bit (i : Nat) (hi : 8 ≤ i ∧ i < 15) : (Npx.finish ((n.begin j).setCc c3 c2 c1 c0, 0)).sw.getLsbD i
      = ((n.begin j).setCc c3 c2 c1 c0).sw.getLsbD i := by
    rw [Npx.getLsbD_sw_finish, if_neg (by omega), BitVec.getLsbD_of_ge 0 i (by omega), decide_eq_false (show ¬i = 7 by omega)]
    simp
  refine ⟨?_, npxReplies_begin (npxReplies_runs run), ?_⟩
  · rw [result]
    exact ⟨by simp, by simp, by simp⟩
  · rw [result, bit 14 (by decide), bit 8 (by decide), bit 9 (by decide), Npx.order_finish, Npx.order_setCc]
    simp only [Npx.getLsbD_sw_setCc]
    exact meaning

/-- The comparisons with a register pop at most once. -/
theorem npxStackForms_pops : ∀ p ∈ npxStackForms, ∀ k l pops, p.2.2 k = .compareSt l pops → pops ≤ 2 := by
  have all : npxStackForms.map (fun p k => match p.2.2 k with | .compareSt _ pops => decide (pops ≤ 2) | _ => true)
      = npxStackForms.map fun _ _ => true := rfl
  intro p hp k l pops hop
  have one := congrFun (List.map_inj_left.1 all p hp) k
  rw [hop] at one
  exact of_decide_eq_true one

theorem mem_npxFixedForms_fcompp : (Instr.fcompp, 51, 1, .compareSt 1 2) ∈ npxFixedForms := by simp [npxFixedForms, npxFixedFormsA, npxFixedFormsB]
theorem mem_npxFixedForms_ftst : (Instr.ftst, 12, 4, .test) ∈ npxFixedForms := by simp [npxFixedForms, npxFixedFormsA]
theorem mem_npxFixedForms_fxam : (Instr.fxam, 12, 5, .examine) ∈ npxFixedForms := by simp [npxFixedForms, npxFixedFormsA]

/-- A comparison whose answer may depend on a free value. -/
def NpxCompared (n m : Npx) (pops : Nat) (none : Bool) (c : TempReal → CompareAnswer) : Prop :=
  m.r = n.r ∧ ∃ fr, NpxCompares n m pops (if none then ⟨Option.none, 1⟩ else c fr)

theorem npxCompared_runs {n : Npx} {j : NpxJob} {op : NpxOp} {data : TempReal} {free : NpxFree} {pops : Nat} {none : Bool}
    {c : TempReal → CompareAnswer} (cc : op.definesCc = true) (two : pops ≤ 2)
    (h : (n.begin j).numeric op data free = (n.begin j).compareWith free (if none then emptyCompare else c free.real) pops) :
    NpxCompared n ((n.begin j).runs op data free) pops none c := by
  obtain ⟨r, compares⟩ := compare_runs cc two h
  exact ⟨r, free.real, compares⟩

/-- Settles O50: the order of two operands, then each form by its operation. -/
theorem npxComparisons : Obligations.NpxComparisons := by
  unfold Obligations.NpxComparisons
  refine ⟨fun cw a b => ?_, fun s h => ⟨?_, ?_, ?_, ?_, ?_⟩⟩
  · intro c odd d
    have either : (comparesDenormal a || comparesDenormal b) = true ↔ odd a ∨ odd b := by
      rw [Bool.or_eq_true, comparesDenormal_iff, comparesDenormal_iff]
    refine ⟨comparesDenormal_iff a, fun hodd mask => compareAnswer_trap (either.2 hodd) mask, fun go => ?_⟩
    have answer := compareAnswer_go (cw := cw) (a := a) (b := b) fun trap => by
      obtain none | masked := go
      · exact none (either.1 trap.1)
      · rw [trap.2] at masked
        cases masked
    refine ⟨fun nan => ?_, fun ha hb => ⟨fun fa fb => ?_, fun closure inf => ?_, fun closure ia ib => ?_, fun closure ia fb => ?_,
      fun closure fa ib => ?_⟩⟩
    · exact answer.trans (if_pos nan)
    all_goals
      rw [if_neg (by tauto)] at answer
    · rw [if_neg (by tauto), finiteOrder_eq, toQ_realValue, toQ_realValue] at answer
      exact answer
    · rw [if_pos inf, affine, closure, if_neg Bool.false_ne_true] at answer
      exact answer
    · rw [if_pos (by tauto), affine, closure, if_pos rfl, affineOrder_both ia ib] at answer
      exact answer
    · rw [if_pos (by tauto), affine, closure, if_pos rfl, affineOrder_left ia fb] at answer
      exact answer
    · rw [if_pos (by tauto), affine, closure, if_pos rfl, affineOrder_right fa ib] at answer
      exact answer
  · intro p hp f pop hop rm mem
    have run := h.gives_memory (P := fun m => NpxCompared s.npx m pop.toNat (s.npx.isEmpty 0) fun fr =>
        compareAnswer s.npx.cw (regOperand (s.npx.st 0)) (loadOperand fr f (BitVec.ofNat 80 (s.npxOperand f.bytes rm)))) p hp rm mem
    rw [hop] at run
    exact run rfl fun j free => npxCompared_runs rfl ((Bool.toNat_le _).trans (by decide)) (by simp [Npx.numeric, NpxOp.loads])
  · intro p hp k pops hop
    have run := h.gives_stack (P := fun m => NpxCompared s.npx m pops (s.npx.isEmpty 0 || s.npx.isEmpty k) fun _ =>
        compareAnswer s.npx.cw (regOperand (s.npx.st 0)) (regOperand (s.npx.st k))) p hp k
    rw [hop] at run
    exact run fun j free => npxCompared_runs rfl (npxStackForms_pops p hp k k pops hop) (by simp [Npx.numeric])
  · exact h.gives_fixed (P := fun m => NpxCompared s.npx m 2 (s.npx.isEmpty 0 || s.npx.isEmpty 1) fun _ =>
        compareAnswer s.npx.cw (regOperand (s.npx.st 0)) (regOperand (s.npx.st 1))) mem_npxFixedForms_fcompp rfl
      fun j free => npxCompared_runs rfl le_rfl (by simp [Npx.numeric])
  · exact h.gives_fixed (P := fun m => NpxCompared s.npx m 0 (s.npx.isEmpty 0) fun _ =>
        compareAnswer s.npx.cw (regOperand (s.npx.st 0)) ⟨npxZero false, false⟩) mem_npxFixedForms_ftst rfl
      fun j free => npxCompared_runs rfl (by decide) (by simp [Npx.numeric])
  · obtain ⟨t, run, only, kept, replies, code⟩ := h.gives_fixed mem_npxFixedForms_fxam rfl fun _ _ => examine_runs
    refine ⟨t, run, only, kept, replies, ?_⟩
    revert code
    cases realClass (s.npx.st 0) <;> exact id

end Sys2Proof.Machine

/-! O49. The transcendental instructions of the 8087 (48_npx_8087_instructions.md R394 to R398). -/

namespace Sys2Proof.Machine

/-! ## The ranges, R394 to R398 -/

theorem finiteOrder_lt (a b : Exact) : finiteOrder a b = .lt ↔ a.toQ < b.toQ := by
  rw [finiteOrder_eq]
  split_ifs <;> simp_all

theorem finiteOrder_ne_gt (a b : Exact) : finiteOrder a b ≠ .gt ↔ a.toQ ≤ b.toQ := by
  rw [finiteOrder_eq]
  split_ifs with lt gt
  · simpa using lt.le
  · simpa using gt
  · simpa using gt

theorem validOperand_iff (v : TempReal) : validOperand v = true ↔ realClass v = .normal ∨ realClass v = .zero := by
  simp [validOperand]

section
variable {x y : TempReal}

/-- A normal is positive exactly if its sign bit is 0. -/
theorem normal_pos (h : realClass x = .normal) : realNeg x = false ↔ 0 < realQ x := (realQ_pos (realSig_ne_zero_of_normal h)).symm

theorem patanRange_iff :
    patanRange y x = true ↔ realClass x = .normal ∧ realClass y = .normal ∧ 0 < realQ y ∧ realQ y < realQ x := by
  simp only [patanRange, Bool.and_eq_true, beq_iff_eq, Bool.not_eq_true', decide_eq_true_eq, finiteOrder_lt, toQ_realValue]
  constructor
  · rintro ⟨⟨⟨⟨ny, nx⟩, sy⟩, -⟩, lt⟩
    exact ⟨nx, ny, (normal_pos ny).1 sy, lt⟩
  · rintro ⟨nx, ny, pos, lt⟩
    exact ⟨⟨⟨⟨ny, nx⟩, (normal_pos ny).2 pos⟩, (normal_pos nx).2 (pos.trans lt)⟩, lt⟩

theorem yl2xRange_iff :
    yl2xRange y x = true ↔ realClass x = .normal ∧ 0 < realQ x ∧ (realClass y = .normal ∨ realClass y = .zero) := by
  simp only [yl2xRange, Bool.and_eq_true, beq_iff_eq, Bool.not_eq_true', validOperand_iff, and_assoc]
  exact and_congr_right fun nx => and_congr_left' (normal_pos nx)

/-- A mantissa below a negative exponent as a fraction. -/
theorem Exact.abs_toQ_eq_div {v : Exact} (h : v.exp < 0) : |v.toQ| = v.mant / ((2 ^ (-v.exp).toNat : Nat) : ℚ) := by
  rw [Exact.abs_toQ, Nat.cast_pow, ← zpow_natCast, Int.toNat_of_nonneg (by omega), Nat.cast_ofNat, zpow_neg, div_inv_eq_mul]

theorem yl2xp1Range_iff :
    yl2xp1Range y x = true
      ↔ realClass x = .normal ∧ (realClass y = .normal ∨ realClass y = .zero) ∧ |realQ x| < 1 ∧ 1 < 2 * (1 - |realQ x|) ^ 2 := by
  simp only [yl2xp1Range, Bool.and_eq_true, beq_iff_eq, validOperand_iff, decide_eq_true_eq, and_assoc]
  refine and_congr_right fun nx => and_congr_right fun _ => ?_
  rw [← toQ_realValue]
  by_cases neg : (realValue x).exp < 0
  · have one : (0 : ℚ) < ((2 ^ (-(realValue x).exp).toNat : Nat) : ℚ) := by positivity
    rw [Exact.abs_toQ_eq_div neg, div_lt_one one, Nat.cast_lt]
    generalize 2 ^ (-(realValue x).exp).toNat = o at one ⊢
    refine and_iff_right neg |>.trans (and_congr_right fun lt => ?_)
    have square : 2 * (1 - ((realValue x).mant : ℚ) / o) ^ 2 = (2 * ((o - (realValue x).mant : Nat) * (o - (realValue x).mant : Nat))) / (o * o) := by
      rw [Nat.cast_sub lt.le]
      field_simp
    rw [square, one_lt_div (by positivity)]
    exact_mod_cast Iff.rfl
  · refine iff_of_false (fun h => neg h.1) fun h => ?_
    have big : (1 : ℚ) ≤ |(realValue x).toQ| := by
      rw [Exact.abs_toQ]
      have sig : (1 : ℚ) ≤ (realValue x).mant := by exact_mod_cast Nat.pos_of_ne_zero (realSig_ne_zero_of_normal nx)
      have scale : (1 : ℚ) ≤ 2 ^ (realValue x).exp := one_le_zpow₀ (by norm_num) (by omega)
      nlinarith
    linarith [h.1]

theorem f2xm1Range_iff (nonzero : realClass x ≠ .zero) :
    f2xm1Range x = true ↔ realClass x = .normal ∧ 0 < realQ x ∧ realQ x ≤ 1 / 2 := by
  have half : (⟨false, 1, -1⟩ : Exact).toQ = 1 / 2 := by
    rw [Exact.toQ_pos rfl]
    norm_num
  simp only [f2xm1Range, Bool.or_eq_true, Bool.and_eq_true, beq_iff_eq, Bool.not_eq_true', decide_eq_true_eq, finiteOrder_ne_gt, toQ_realValue,
    nonzero, false_or, half, and_assoc]
  exact and_congr_right fun nx => and_congr_left' (normal_pos nx)

theorem ptanRange_iff :
    ptanRange x = true ↔ (realClass x = .normal ∨ realClass x = .zero) ∧ (realClass x = .normal → 0 < realQ x)
      ∧ realQ x < realQ 0x3FFEC90FDAA22168C235 := by
  have quarter : packReal false 0x3FFE 0xC90FDAA22168C235 = 0x3FFEC90FDAA22168C235 := by decide
  simp only [ptanRange, Bool.or_eq_true, Bool.and_eq_true, beq_iff_eq, Bool.not_eq_true', decide_eq_true_eq, finiteOrder_lt, toQ_realValue,
    validOperand_iff, quarter, and_assoc]
  refine and_congr_right fun number => and_congr_left' ?_
  obtain normal | zero := number
  · simp [normal, normal_pos normal]
  · simp [zero]

end

/-! ## The answers -/

/-- What one of the functions gives: in range its value and flags of its list, else no flag. -/
def NpxResultOf (inRange : Prop) (allowed : BitVec 6) (f : NpxFn) (a b r : TempReal) (e : BitVec 6) : Prop :=
  e &&& ~~~allowed = 0 ∧ (inRange → r = npxFunction f a b) ∧ (¬inRange → e = 0)

theorem fnAnswer_eta (free : NpxFree) (range : Bool) (v : TempReal) (allowed : BitVec 6) :
    fnAnswer free range v allowed = ⟨(fnAnswer free range v allowed).value, 0, (fnAnswer free range v allowed).after⟩ := by
  cases range <;> rfl

theorem fnAnswer_before (free : NpxFree) (range : Bool) (v : TempReal) (allowed : BitVec 6) :
    (fnAnswer free range v allowed).before = 0 := by
  rw [fnAnswer_eta]

theorem fnAnswer_result {free : NpxFree} {range : Bool} {allowed : BitVec 6} {f : NpxFn} {a b : TempReal} {inRange : Prop}
    (h : range = true ↔ inRange) :
    NpxResultOf inRange allowed f a b (fnAnswer free range (npxFunction f a b) allowed).value
      (fnAnswer free range (npxFunction f a b) allowed).after := by
  have listed (e : BitVec 6) : e &&& allowed &&& ~~~allowed = 0 := by
    rw [BitVec.and_assoc]
    simp
  cases range
  · exact ⟨BitVec.zero_and, fun yes => absurd (h.2 yes) Bool.false_ne_true, fun _ => rfl⟩
  · exact ⟨listed _, fun _ => rfl, fun no => absurd (h.1 rfl) no⟩

/-- A function of ST(1) and ST(0) leaves its result in ST(1) and pops. -/
def NpxFunctionOfTwo (n m : Npx) (f : NpxFn) (inRange : Prop) (allowed : BitVec 6) : Prop :=
  ∃ r e, NpxResultOf inRange allowed f (n.st 1) (n.st 0) r e
    ∧ NpxDelivers n m 1 true (if n.isEmpty 0 ∨ n.isEmpty 1 then ⟨npxIndef, 1, 0⟩ else ⟨r, 0, e⟩)

/-- F2XM1 leaves its result in ST(0), a zero as it is. -/
def NpxF2xm1 (n m : Npx) : Prop :=
  ∃ r e, (if realClass (n.st 0) = .zero then r = n.st 0 ∧ e = 0
      else NpxResultOf (realClass (n.st 0) = .normal ∧ 0 < realQ (n.st 0) ∧ realQ (n.st 0) ≤ 1 / 2) 0x30 .f2xm1 (n.st 0) (n.st 0) r e)
    ∧ NpxDelivers n m 0 false (if n.isEmpty 0 then ⟨npxIndef, 1, 0⟩ else ⟨r, 0, e⟩)

/-- The angles of FPTAN. -/
def InTangentRange (x : TempReal) : Prop :=
  (realClass x = .normal ∨ realClass x = .zero) ∧ (realClass x = .normal → 0 < realQ x) ∧ realQ x < realQ 0x3FFEC90FDAA22168C235

/-- FPTAN replaces the angle and pushes. -/
def NpxTangent (n m : Npx) : Prop :=
  ∃ r q e, NpxResultOf (InTangentRange (n.st 0)) 0x20 .ptanY (n.st 0) (n.st 0) r e
    ∧ (InTangentRange (n.st 0) → q = npxFunction .ptanX (n.st 0) (n.st 0))
    ∧ if n.isEmpty 0 then NpxReplacesAndPushes n m 1 0 npxIndef npxIndef else NpxReplacesAndPushes n m 0 e r q

section
variable {n : Npx} {j : NpxJob} {free : NpxFree} {data : TempReal}

theorem functionOfTwo_runs {op : NpxOp} {f : NpxFn} {range : TempReal → TempReal → Bool} {allowed : BitVec 6} {inRange : Prop}
    (hop : ∀ m : Npx, m.numeric op data free = m.binary 1 true fun x y => fnAnswer free (range y x) (npxFunction f y x) allowed)
    (h : range (n.st 1) (n.st 0) = true ↔ inRange) : NpxFunctionOfTwo n ((n.begin j).runs op data free) f inRange allowed := by
  have delivers := binary_runs (n := n) (j := j) (f := fun _ x y => fnAnswer free (range y x) (npxFunction f y x) allowed) hop
  refine ⟨_, _, fnAnswer_result (free := free) h, ?_⟩
  rw [← fnAnswer_eta]
  simpa only [Bool.or_eq_true] using delivers

/-- F2XM1. -/
theorem f2xm1_runs : NpxF2xm1 n ((n.begin j).runs .f2xm1 data free) := by
  have delivers := unary_runs (n := n) (j := j) (data := data) (free := free) (p := .f2xm1) (f := fun _ => f2xm1Answer free) fun _ => rfl
  by_cases zero : realClass (n.st 0) = .zero
  · refine ⟨n.st 0, 0, by rw [if_pos zero]; exact ⟨rfl, rfl⟩, ?_⟩
    rwa [f2xm1Answer, if_pos zero] at delivers
  · refine ⟨_, _, by rw [if_neg zero]; exact fnAnswer_result (free := free) (f2xm1Range_iff zero), ?_⟩
    rw [← fnAnswer_eta]
    rwa [f2xm1Answer, if_neg zero] at delivers

/-- FPTAN. -/
theorem ptan_runs : NpxTangent n ((n.begin j).runs .ptan data free) := by
  refine ⟨_, if ptanRange (n.st 0) then npxFunction .ptanX (n.st 0) (n.st 0) else free.other, _,
    fnAnswer_result (free := free) ptanRange_iff, fun yes => if_pos (ptanRange_iff.2 yes), ?_⟩
  split
  next empty =>
    have empty : n.isEmpty 0#3 = true := empty
    exact npxReplacesAndPushes_runs (by simp [Npx.numeric, Npx.ptan, empty, emptyAnswer, exI])
  next full =>
    have full : n.isEmpty 0#3 = false := Bool.eq_false_iff.2 full
    exact npxReplacesAndPushes_runs (by simp [Npx.numeric, Npx.ptan, full, fnAnswer_before, exP])

end

theorem mem_npxFixedForms_fpatan : (Instr.fpatan, 14, 3, .patan) ∈ npxFixedForms := by simp [npxFixedForms, npxFixedFormsA]
theorem mem_npxFixedForms_fyl2x : (Instr.fyl2x, 14, 1, .yl2x) ∈ npxFixedForms := by simp [npxFixedForms, npxFixedFormsA]
theorem mem_npxFixedForms_fyl2xp1 : (Instr.fyl2xp1, 15, 1, .yl2xp1) ∈ npxFixedForms := by simp [npxFixedForms, npxFixedFormsA]
theorem mem_npxFixedForms_f2xm1 : (Instr.f2xm1, 14, 0, .f2xm1) ∈ npxFixedForms := by simp [npxFixedForms, npxFixedFormsA]
theorem mem_npxFixedForms_fptan : (Instr.fptan, 14, 2, .ptan) ∈ npxFixedForms := by simp [npxFixedForms, npxFixedFormsA]

/-- Settles O49: each function by its range and its operation. -/
theorem npxTranscendentals : Obligations.NpxTranscendentals := by
  unfold Obligations.NpxTranscendentals
  intro s h n x y normal number result two
  have pair {i : Instr} {a : BitVec 6} {b : BitVec 3} {op : NpxOp} (hi : (i, a, b, op) ∈ npxFixedForms) (numeric : op.numeric = true)
      {f : NpxFn} {inRange : Prop} {allowed : BitVec 6}
      (run : ∀ j free, NpxFunctionOfTwo s.npx ((s.npx.begin j).runs op 0 free) f inRange allowed) : two i f inRange allowed := by
    obtain ⟨t, run, only, r, e, result, delivers⟩ := h.gives_fixed (P := fun m => NpxFunctionOfTwo s.npx m f inRange allowed) hi numeric run
    exact ⟨t, run, only, r, e, result, delivers⟩
  refine ⟨pair mem_npxFixedForms_fpatan rfl fun _ _ => functionOfTwo_runs (fun _ => rfl) patanRange_iff,
    pair mem_npxFixedForms_fyl2x rfl fun _ _ => functionOfTwo_runs (fun _ => rfl) yl2xRange_iff,
    pair mem_npxFixedForms_fyl2xp1 rfl fun _ _ => functionOfTwo_runs (fun _ => rfl) yl2xp1Range_iff,
    h.gives_fixed (P := NpxF2xm1 s.npx) mem_npxFixedForms_f2xm1 rfl fun _ _ => f2xm1_runs,
    h.gives_fixed (P := NpxTangent s.npx) mem_npxFixedForms_fptan rfl fun _ _ => ptan_runs⟩

end Sys2Proof.Machine

/-! SUPPORT. What the 8087 stores in ordinary memory (47_npx_8087_state.md R312, R326): some bytes from an address on, read back as numbers. -/

namespace Sys2Proof.Machine

/-! ## Ranges of addresses -/

theorem mem_bytesFrom {k : Nat} {a : Phys} {b : Nat} : b ∈ bytesFrom k a ↔ ∃ j < k, (a.toNat + j) % 2 ^ 20 = b := by
  simp [bytesFrom]

theorem phys_add_succ (a : Phys) (i : Nat) : a + BitVec.ofNat 20 (i + 1) = a + 1 + BitVec.ofNat 20 i := by
  rw [Nat.add_comm, BitVec.ofNat_add, BitVec.add_assoc]
  rfl

/-- A range of addresses in two parts. -/
theorem bytesFrom_add (i j : Nat) (a : Phys) : bytesFrom (i + j) a = bytesFrom i a ++ bytesFrom j (a + BitVec.ofNat 20 i) := by
  induction i generalizing a with
  | zero => simp [bytesFrom]
  | succ i ih =>
    rw [show i + 1 + j = i + j + 1 by omega, bytesFrom_succ, bytesFrom_succ, ih, phys_add_succ]
    rfl

@[simp] theorem length_bytesFrom (k : Nat) (a : Phys) : (bytesFrom k a).length = k := by simp [bytesFrom]

theorem Memory.number_lt (m : Memory) (l : List Nat) : m.number l < 256 ^ l.length := by
  induction l with
  | nil => simp [Memory.number]
  | cons a l ih =>
    have := (m.read a).isLt
    rw [Memory.number, List.length_cons, Nat.pow_succ]
    omega

/-- A part of a number in memory. -/
theorem Memory.number_part (m : Memory) {i j k : Nat} (h : i + j ≤ k) (a : Phys) :
    m.number (bytesFrom j (a + BitVec.ofNat 20 i)) = m.number (bytesFrom k a) / 256 ^ i % 256 ^ j := by
  obtain ⟨l, rfl⟩ := Nat.exists_eq_add_of_le h
  have low := m.number_lt (bytesFrom i a)
  have mid := m.number_lt (bytesFrom j (a + BitVec.ofNat 20 i))
  rw [length_bytesFrom] at low mid
  rw [Nat.add_assoc, bytesFrom_add, bytesFrom_add, Memory.number_append, Memory.number_append, length_bytesFrom, length_bytesFrom,
    Nat.add_mul_div_left _ _ (Nat.pos_of_ne_zero (pow_ne_zero _ (by decide))), Nat.div_eq_of_lt low, Nat.zero_add, Nat.add_mul_mod_self_left,
    Nat.mod_eq_of_lt mid]

/-! ## Stores -/

/-- Memory with the bytes of a number stored from an address on. -/
def Memory.store (m : Memory) (k : Nat) (a : Phys) (v : Nat) : Memory :=
  match k with
  | 0 => m
  | k + 1 => Memory.store (m.write a.toNat (BitVec.ofNat 8 v)) k (a + 1) (v / 256)

/-- That is what the 8087 leaves of ordinary memory, and all it changes. -/
theorem npxWrite_plain {s : State} (h : s.PlainMemory) (k : Nat) (a : Phys) (v : Nat) :
    npxWrite k a v s = { s with mem := s.mem.store k a v } := by
  induction k generalizing a v s with
  | zero => rfl
  | succ k ih =>
    rw [npxWrite, busWrite8_plain h]
    exact ih (s := { s with mem := s.mem.write a.toNat (BitVec.ofNat 8 v) }) h _ _

namespace Memory

/-- The other bytes read as before. -/
theorem read_store_other (m : Memory) {k : Nat} {a : Phys} (v : Nat) {b : Nat} (h : b ∉ bytesFrom k a) : (m.store k a v).read b = m.read b := by
  induction k generalizing m a v with
  | zero => rfl
  | succ k ih =>
    rw [bytesFrom_succ, List.mem_cons, not_or] at h
    rw [store, ih _ _ h.2, Memory.read_write_other _ _ h.1]

/-- The bytes stored make the number. -/
theorem number_store {m : Memory} (h : m.wf = true) {k : Nat} (hk : k ≤ 2 ^ 20) (a : Phys) (v : Nat) :
    (m.store k a v).number (bytesFrom k a) = v % 256 ^ k := by
  induction k generalizing m a v with
  | zero => simp [bytesFrom, number, Nat.mod_one]
  | succ k ih =>
    have first : a.toNat ∉ bytesFrom k (a + 1) := by
      rw [mem_bytesFrom]
      rintro ⟨j, hj, e⟩
      have := a.isLt
      have one : (1 : Phys).toNat = 1 := rfl
      rw [BitVec.toNat_add, one] at e
      omega
    rw [bytesFrom_succ, number, store, read_store_other _ _ first, Memory.read_write_same h, ih (Memory.wf_write h _ _) (by omega),
      BitVec.toNat_ofNat, show 256 ^ (k + 1) = 256 * 256 ^ k from Nat.pow_succ', Nat.mod_mul]

/-- Only the low bytes of the number count. -/
theorem store_mod (m : Memory) (k : Nat) (a : Phys) (v : Nat) : m.store k a (v % 256 ^ k) = m.store k a v := by
  induction k generalizing m a v with
  | zero => rfl
  | succ k ih =>
    have byte : BitVec.ofNat 8 (v % 256 ^ (k + 1)) = BitVec.ofNat 8 v := by
      apply BitVec.eq_of_toNat_eq
      rw [BitVec.toNat_ofNat, BitVec.toNat_ofNat, Nat.pow_succ, Nat.mul_comm (256 ^ k)]
      exact Nat.mod_mul_right_mod v 256 (256 ^ k)
    have rest : v % 256 ^ (k + 1) / 256 = v / 256 % 256 ^ k := by
      rw [Nat.pow_succ, Nat.mul_comm (256 ^ k), Nat.mod_mul_right_div_self]
    rw [store, store, byte, rest, ih]

/-- Two stores, one after the other and side by side, are one. -/
theorem store_add (m : Memory) (i j : Nat) (a : Phys) (v : Nat) :
    m.store (i + j) a v = (m.store i a v).store j (a + BitVec.ofNat 20 i) (v / 256 ^ i) := by
  induction i generalizing m a v with
  | zero => simp [store]
  | succ i ih =>
    rw [show i + 1 + j = i + j + 1 by omega, store, store, ih, phys_add_succ, Nat.div_div_eq_div_mul, Nat.pow_succ, Nat.mul_comm (256 ^ i)]

theorem store_store (m : Memory) {i j k : Nat} (hk : i + j = k) (a : Phys) {v : Nat} (hv : v < 256 ^ i) (w : Nat) :
    (m.store i a v).store j (a + BitVec.ofNat 20 i) w = m.store k a (v + 256 ^ i * w) := by
  subst hk
  have pos : 0 < 256 ^ i := Nat.pos_of_ne_zero (pow_ne_zero _ (by decide))
  have low : m.store i a (v + 256 ^ i * w) = m.store i a v := by
    rw [← store_mod m i a (v + 256 ^ i * w), Nat.add_mul_mod_self_left, Nat.mod_eq_of_lt hv]
  rw [store_add, low, Nat.add_mul_div_left _ _ pos, Nat.div_eq_of_lt hv, Nat.zero_add]

end Memory

end Sys2Proof.Machine

/-! O53. The exception pointers and the images of FSTENV, FSAVE, FLDENV and FRSTOR (47_npx_8087_state.md R316 to R318, R324, R325;
48_npx_8087_instructions.md R415 to R418). -/

namespace Sys2Proof.Machine

/-! ## The exception pointers, R324 -/

/-- The 8087 points at an ESC, its opcode and its operand. -/
structure Npx.PointsAt (n : Npx) (ip : Phys) (opcode : BitVec 11) (operand : Phys) : Prop where
  xip  : n.xip = ip
  xopc : n.xopc = opcode
  xop  : n.xop = operand

theorem Npx.begin_points {j : NpxJob} (sets : j.op.setsPointers = true) (n : Npx) :
    (n.begin j).PointsAt j.ip j.opcode (j.addr.getD n.xop) := by
  unfold Npx.begin Npx.point
  rw [if_pos sets]
  dsimp only
  split <;> exact ⟨rfl, rfl, rfl⟩

theorem Npx.Works.pointsAt {n m : Npx} (h : n.Works m) {ip operand : Phys} {opcode : BitVec 11} (p : n.PointsAt ip opcode operand) :
    m.PointsAt ip opcode operand := by
  rw [h.rest]
  exact ⟨p.xip, p.xopc, p.xop⟩

/-- Running an operation leaves the pointers; FLDENV and FRSTOR, which load them, apart. -/
theorem npxRun_pointsAt {j : NpxJob} {s : State} {ip operand : Phys} {opcode : BitVec 11} (sets : j.op.setsPointers = true)
    (h : s.npx.PointsAt ip opcode operand) : (npxRun j s).npx.PointsAt ip opcode operand := by
  have drawn := npxRun_drawn j s
  unfold npxRun
  dsimp only
  generalize (if j.raced then drawReal (drawNpx s).2 else (j.data, (drawNpx s).2)) = p at drawn ⊢
  rw [← drawn] at h
  have finished {m : Npx} {e : BitVec 6} (k : p.2.npx.Works m) : (Npx.finish (m, e)).PointsAt ip opcode operand := by
    have points := k.pointsAt h
    exact ⟨points.xip, points.xopc, points.xop⟩
  cases op : j.op <;> rw [op] at sets
  case init | clex | stcw | stsw | save | stenv | ldenv | rstor => cases sets
  case store f pop =>
    dsimp only
    unfold npxStore
    dsimp only
    generalize (if p.2.npx.isEmpty 0 then ⟨fmtIndef (drawNpx s).1.real f, exI, 0⟩
      else storeAnswer p.2.npx.cw (drawNpx s).1.real f (p.2.npx.st 0)) = answer
    split
    · exact finished ((Npx.Works.refl _).then_freeCc _)
    · exact finished (((Npx.Works.refl _).then_popIf pop).then_freeCc _)
  case disi | eni | ldcw => exact ⟨h.xip, h.xopc, h.xop⟩
  all_goals exact finished ((Npx.works_numeric _ _ _).then_settleCc _ _)

theorem npxStart_pointsAt {j : NpxJob} (s : State) (sets : j.op.setsPointers = true) :
    (npxStart j s).npx.PointsAt j.ip j.opcode (j.addr.getD s.npx.xop) := by
  have begun := Npx.begin_points sets s.npx
  unfold npxStart
  dsimp only
  split
  · exact ⟨begun.xip, begun.xopc, begun.xop⟩
  · exact npxRun_pointsAt sets begun

theorem npxMemoryForms_setsPointers : ∀ p ∈ npxMemoryForms,
    p.2.2 ∉ [NpxOp.stenv, .save, .stcw, .stsw, .ldenv, .rstor] → p.2.2.setsPointers = true := by decide

theorem npxStackForms_setsPointers : ∀ p ∈ npxStackForms, ∀ k, (p.2.2 k).setsPointers = true := by
  have all : npxStackForms.map (fun p k => (p.2.2 k).setsPointers) = npxStackForms.map fun _ _ => true := rfl
  exact fun p hp k => congrFun (List.map_inj_left.1 all p hp) k

theorem npxFixedForms_setsPointers : ∀ p ∈ npxFixedForms, p.2.2.2 ≠ .clex → p.2.2.2 ≠ .init → p.2.2.2.setsPointers = true := by decide

/-! ## Masks -/

/-- A word composed of two parts, seen through the mask of the first. -/
theorem composed_and (a b : Word) {m m' : Word} (apart : m' &&& m = 0) : (a &&& m ||| b &&& m') &&& m = a &&& m := by
  refine BitVec.eq_of_getLsbD_eq fun i _ => ?_
  have bit := congrArg (BitVec.getLsbD · i) apart
  simp only [BitVec.getLsbD_and, BitVec.getLsbD_or] at bit ⊢
  revert bit
  cases m.getLsbD i <;> cases m'.getLsbD i <;> simp

/-! ## The environment image, R325 -/

/-- A word of an image. -/
def imageWord (m : Memory) (a : Phys) (k : Nat) : Word := BitVec.ofNat 16 (m.number (bytesFrom 2 (a + BitVec.ofNat 20 (2 * k))))

theorem toNat_imageWord (m : Memory) (a : Phys) (k : Nat) :
    (imageWord m a k).toNat = m.number (bytesFrom 2 (a + BitVec.ofNat 20 (2 * k))) := by
  have lt := m.number_lt (bytesFrom 2 (a + BitVec.ofNat 20 (2 * k)))
  rw [length_bytesFrom] at lt
  exact BitVec.toNat_ofNat _ _ |>.trans (Nat.mod_eq_of_lt lt)

/-- The environment image of `n` at an address. -/
structure Npx.EnvironmentAt (n : Npx) (a : Phys) (m : Memory) : Prop where
  cw : imageWord m a 0 &&& 0x1FBF = n.cw &&& 0x1FBF
  sw : imageWord m a 1 &&& 0xFFBF = n.sw &&& 0xFFBF
  tw : imageWord m a 2 = n.tw
  ip : imageWord m a 3 = n.xip.setWidth 16
  opcode : imageWord m a 4 = n.xip.extractLsb' 16 4 ++ (0 : BitVec 1) ++ n.xopc
  operand : imageWord m a 5 = n.xop.setWidth 16
  last : imageWord m a 6 = n.xop.extractLsb' 16 4 ++ (0 : BitVec 12)

theorem toNat_append_eq {v w : Nat} (x : BitVec v) (y : BitVec w) : (x ++ y).toNat = x.toNat * 2 ^ w + y.toNat := by
  rw [BitVec.toNat_append, Nat.shiftLeft_eq, mul_comm, ← Nat.two_pow_add_eq_or_of_lt y.isLt]

/-- The digits of seven words. -/
theorem sevenWords {w0 w1 w2 w3 w4 w5 w6 : Nat} (h0 : w0 < 2 ^ 16) (h1 : w1 < 2 ^ 16) (h2 : w2 < 2 ^ 16) (h3 : w3 < 2 ^ 16) (h4 : w4 < 2 ^ 16)
    (h5 : w5 < 2 ^ 16) (h6 : w6 < 2 ^ 16) :
    let v := w0 + w1 * 2 ^ 16 + w2 * 2 ^ 32 + w3 * 2 ^ 48 + w4 * 2 ^ 64 + w5 * 2 ^ 80 + w6 * 2 ^ 96
    v / 1 % 2 ^ 16 = w0 ∧ v / 2 ^ 16 % 2 ^ 16 = w1 ∧ v / 2 ^ 32 % 2 ^ 16 = w2 ∧ v / 2 ^ 48 % 2 ^ 16 = w3 ∧ v / 2 ^ 64 % 2 ^ 16 = w4
      ∧ v / 2 ^ 80 % 2 ^ 16 = w5 ∧ v / 2 ^ 96 % 2 ^ 16 = w6 := by
  intro v
  refine ⟨?_, ?_, ?_, ?_, ?_, ?_, ?_⟩ <;> omega

theorem Npx.env_eq (free : NpxFree) (n : Npx) : n.env free
    = (storedCw free n.cw).toNat + (storedSw free n.sw).toNat * 2 ^ 16 + n.tw.toNat * 2 ^ 32 + n.xip.toNat % 2 ^ 16 * 2 ^ 48
      + (n.xip.toNat / 2 ^ 16 * 2 ^ 12 + n.xopc.toNat) * 2 ^ 64 + n.xop.toNat % 2 ^ 16 * 2 ^ 80 + n.xop.toNat / 2 ^ 16 * 2 ^ 12 * 2 ^ 96 := rfl

theorem Npx.env_lt (free : NpxFree) (n : Npx) : n.env free < 256 ^ 14 := by
  have := (storedCw free n.cw).isLt
  have := (storedSw free n.sw).isLt
  have := n.tw.isLt
  have := n.xip.isLt
  have := n.xop.isLt
  have := n.xopc.isLt
  rw [Npx.env_eq]
  omega

theorem Npx.environmentAt {n : Npx} {free : NpxFree} {a : Phys} {m : Memory} (h : m.number (bytesFrom 14 a) = n.env free) :
    n.EnvironmentAt a m := by
  have word (k : Nat) (hk : k < 7) {d : Nat} (hd : 256 ^ (2 * k) = d) {v : Word} (hv : n.env free / d % 2 ^ 16 = v.toNat) :
      imageWord m a k = v := by
    apply BitVec.eq_of_toNat_eq
    rw [toNat_imageWord, m.number_part (i := 2 * k) (j := 2) (k := 14) (by omega), h, hd]
    exact hv
  have cwLt := (storedCw free n.cw).isLt
  have swLt := (storedSw free n.sw).isLt
  have twLt := n.tw.isLt
  have ipLt := n.xip.isLt
  have opcLt := n.xopc.isLt
  have opLt := n.xop.isLt
  have zero1 : (0 : BitVec 1).toNat = 0 := rfl
  have zero12 : (0 : BitVec 12).toNat = 0 := rfl
  obtain ⟨w0, w1, w2, w3, w4, w5, w6⟩ := sevenWords (w0 := (storedCw free n.cw).toNat) (w1 := (storedSw free n.sw).toNat) (w2 := n.tw.toNat)
    (w3 := n.xip.toNat % 2 ^ 16) (w4 := n.xip.toNat / 2 ^ 16 * 2 ^ 12 + n.xopc.toNat) (w5 := n.xop.toNat % 2 ^ 16)
    (w6 := n.xop.toNat / 2 ^ 16 * 2 ^ 12) (by omega) (by omega) (by omega) (by omega) (by omega) (by omega) (by omega)
  rw [← Npx.env_eq] at w0 w1 w2 w3 w4 w5 w6
  refine ⟨?_, ?_, word 2 (by decide) rfl w2, word 3 (by decide) rfl (w3.trans ?_), word 4 (by decide) rfl (w4.trans ?_),
    word 5 (by decide) rfl (w5.trans ?_), word 6 (by decide) rfl (w6.trans ?_)⟩
  · rw [word 0 (by decide) rfl w0, storedCw, composed_and _ _ (by decide)]
  · rw [word 1 (by decide) rfl w1, storedSw, composed_and _ _ (by decide)]
  · rw [BitVec.toNat_setWidth]
  · rw [toNat_append_eq, toNat_append_eq, BitVec.extractLsb'_toNat, Nat.shiftRight_eq_div_pow, zero1]
    omega
  · rw [BitVec.toNat_setWidth]
  · rw [toNat_append_eq, BitVec.extractLsb'_toNat, Nat.shiftRight_eq_div_pow, zero12]
    omega

/-! ## The registers in stack order -/

theorem Npx.stack_lt (n : Npx) (left : Nat) (i : BitVec 3) : n.stack left i < (2 ^ 80) ^ left := by
  induction left generalizing i with
  | zero => simp [Npx.stack]
  | succ left ih =>
    have first := (n.st i).isLt
    have rest := ih (i + 1)
    rw [Npx.stack, show (2 ^ 80) ^ (left + 1) = 2 ^ 80 * (2 ^ 80) ^ left from Nat.pow_succ']
    generalize (2 ^ 80) ^ left = bound at rest ⊢
    omega

theorem three_add_succ (i : BitVec 3) (k : Nat) : i + BitVec.ofNat 3 (k + 1) = i + 1 + BitVec.ofNat 3 k := by
  rw [Nat.add_comm, BitVec.ofNat_add, BitVec.add_assoc]
  rfl

/-- Ten bytes of it are a register. -/
theorem Npx.stack_part (n : Npx) {left : Nat} (i : BitVec 3) {k : Nat} (hk : k < left) :
    n.stack left i / (2 ^ 80) ^ k % 2 ^ 80 = (n.st (i + BitVec.ofNat 3 k)).toNat := by
  induction left generalizing i k with
  | zero => omega
  | succ left ih =>
    have first := (n.st i).isLt
    rw [Npx.stack]
    cases k with
    | zero =>
      rw [pow_zero, Nat.div_one, Nat.add_mul_mod_self_left, Nat.mod_eq_of_lt first]
      simp
    | succ k =>
      have low : ((n.st i).toNat + 2 ^ 80 * n.stack left (i + 1)) / 2 ^ 80 = n.stack left (i + 1) := by omega
      rw [show (2 ^ 80) ^ (k + 1) = 2 ^ 80 * (2 ^ 80) ^ k from Nat.pow_succ', ← Nat.div_div_eq_div_mul, low, ih (i + 1) (by omega), three_add_succ]

theorem Npx.loadStack_top (n : Npx) (left : Nat) (i : BitVec 3) (img : Nat) : (n.loadStack left i img).top = n.top := by
  rw [Npx.loadStack_fields]
  rfl

theorem Npx.reg_set (n : Npx) (k j : BitVec 3) (v : TempReal) :
    ({ n with r := n.r.set k.toNat v k.isLt } : Npx).reg j = if j = k then v else n.reg j := Npx.reg_put k v 0 n j

/-- Loading the registers leaves those that are not named. -/
theorem Npx.loadStack_reg_other (n : Npx) (left : Nat) (i : BitVec 3) (img : Nat) (j : BitVec 3)
    (h : ∀ k < left, j ≠ n.phys (i + BitVec.ofNat 3 k)) : (n.loadStack left i img).reg j = n.reg j := by
  induction left generalizing n i img with
  | zero => rfl
  | succ left ih =>
    have here : j ≠ n.phys i := by simpa using h 0 (by omega)
    rw [Npx.loadStack]
    rw [ih, Npx.reg_set, if_neg here]
    intro k hk
    have there := h (k + 1) (by omega)
    rw [three_add_succ] at there
    exact there

/-- Each register named gets its ten bytes. -/
theorem Npx.loadStack_reg (n : Npx) {left : Nat} (few : left ≤ 8) (i : BitVec 3) (img : Nat) {k : Nat} (hk : k < left) :
    (n.loadStack left i img).reg (n.phys (i + BitVec.ofNat 3 k)) = BitVec.ofNat 80 (img / (2 ^ 80) ^ k) := by
  induction left generalizing n i img k with
  | zero => omega
  | succ left ih =>
    rw [Npx.loadStack]
    cases k with
    | zero =>
      rw [Npx.loadStack_reg_other, Npx.reg_set, if_pos (by simp), pow_zero, Nat.div_one]
      intro l hl e
      have same : n.top + (i + BitVec.ofNat 3 0) = n.top + (i + 1 + BitVec.ofNat 3 l) := e
      rw [← three_add_succ, BitVec.add_right_inj, BitVec.add_right_inj] at same
      have value := congrArg BitVec.toNat same
      simp only [BitVec.toNat_ofNat] at value
      omega
    | succ k =>
      rw [three_add_succ, show (2 ^ 80) ^ (k + 1) = 2 ^ 80 * (2 ^ 80) ^ k from Nat.pow_succ', ← Nat.div_div_eq_div_mul]
      exact ih { n with r := n.r.set (n.phys i).toNat (BitVec.ofNat 80 img) (n.phys i).isLt } (by omega) (i + 1) (img / 2 ^ 80) (by omega)

end Sys2Proof.Machine

/-! O53, continued: what FSTENV, FSAVE, FLDENV and FRSTOR do on ordinary memory. -/

namespace Sys2Proof.Machine

theorem mem_npxMemoryForms_fstenv : (Instr.fstenv, 14, .stenv) ∈ npxMemoryForms := by
  simp [npxMemoryForms, npxMemoryFormsA, npxMemoryFormsB]
theorem mem_npxMemoryForms_fsave : (Instr.fsave, 46, .save) ∈ npxMemoryForms := by
  simp [npxMemoryForms, npxMemoryFormsA, npxMemoryFormsB]
theorem mem_npxMemoryForms_fldenv : (Instr.fldenv, 12, .ldenv) ∈ npxMemoryForms := by
  simp [npxMemoryForms, npxMemoryFormsA, npxMemoryFormsB]
theorem mem_npxMemoryForms_frstor : (Instr.frstor, 44, .rstor) ∈ npxMemoryForms := by
  simp [npxMemoryForms, npxMemoryFormsA, npxMemoryFormsB]

/-! ## Stores -/

/-- The operations of the control unit that leave the pointers start without a trace. -/
theorem Npx.begin_control {j : NpxJob} (control : j.op.noWait = true) (keeps : j.op.setsPointers = false) (n : Npx) : n.begin j = n := by
  rw [Npx.begin, Npx.point, keeps, if_neg Bool.false_ne_true, control]
  rfl

section
variable {j : NpxJob} (alone : j.raced = false) (s : State)
include alone

theorem npxRun_stenv (op : j.op = .stenv) :
    npxRun j s = npxStoreEnv false (j.addr.getD 0) (drawNpx s).1 { s with fresh := s.fresh + 5 } := by
  unfold npxRun
  rw [alone, op]
  dsimp only
  rw [if_neg Bool.false_ne_true, drawNpx_snd]

theorem npxRun_save (op : j.op = .save) :
    npxRun j s = npxSave false (j.addr.getD 0) (drawNpx s).1 { s with fresh := s.fresh + 5 } := by
  unfold npxRun
  rw [alone, op]
  dsimp only
  rw [if_neg Bool.false_ne_true, drawNpx_snd]

theorem npxRun_ldenv (op : j.op = .ldenv) : npxRun j s = npxLoadEnv j.data (j.addr.getD 0) { s with fresh := s.fresh + 5 } := by
  unfold npxRun
  rw [alone, op]
  dsimp only
  rw [if_neg Bool.false_ne_true, drawNpx_snd]

theorem npxRun_rstor (op : j.op = .rstor) : npxRun j s = npxRestore j.data (j.addr.getD 0) { s with fresh := s.fresh + 5 } := by
  unfold npxRun
  rw [alone, op]
  dsimp only
  rw [if_neg Bool.false_ne_true, drawNpx_snd]

end

section
variable {s : State} (h : s.PlainMemory) (a : Phys) (free : NpxFree)
include h

theorem npxStoreEnv_plain : npxStoreEnv false a free s
    = { s with npx := { s.npx with cw := s.npx.cw ||| 0x003F }, mem := s.mem.store 14 a (s.npx.env free) } := by
  rw [npxStoreEnv, npxPut, if_neg Bool.false_ne_true, npxWrite_plain h]
  rfl

theorem npxSave_plain : npxSave false a free s
    = { s with npx := s.npx.afterInit free, mem := s.mem.store 94 a (s.npx.env free + 256 ^ 14 * s.npx.stack 8 0) } := by
  rw [npxSave_eq, npxPut, npxPut, if_neg Bool.false_ne_true, if_neg Bool.false_ne_true, npxWrite_plain h,
    npxWrite_plain (s := { s with mem := s.mem.store 14 a (s.npx.env free) }) h]
  show State.setNpx _ { s with mem := (s.mem.store 14 a (s.npx.env free)).store 80 (a + BitVec.ofNat 20 14) (s.npx.stack 8 0) } = _
  rw [s.mem.store_store (k := 94) rfl a (Npx.env_lt free s.npx)]
  dsimp only [State.setNpx]

end

theorem State.setNpx_self (s : State) : s.setNpx s.npx = s := rfl

section
variable {s : State} {rm : Rm} (h : s.NpxStopped) (mem : rm.wellFormedMem = true)
include h mem

/-- FSTENV stores the environment and masks every exception. -/
theorem exec_fstenv : ∃ free, exec (.fstenv rm) s = .next { s with
    npx := { s.npx with cw := s.npx.cw ||| 0x003F }
    mem := s.mem.store 14 (phys (eaSeg s rm) (eaOff s rm)) (s.npx.env free)
    fresh := s.fresh + 5 } := by
  rw [exec_npxMemoryForms_starts h _ mem_npxMemoryForms_fstenv rm mem (.inr rfl), npxStart_atOnce (.inr rfl), Npx.begin_control rfl rfl,
    State.setNpx_self, npxRun_stenv rfl _ rfl, npxStoreEnv_plain (s := { s with fresh := s.fresh + 5 }) h.1]
  exact ⟨_, rfl⟩

/-- FSAVE stores the environment and the registers, and leaves the 8087 as FINIT does. -/
theorem exec_fsave : ∃ free, exec (.fsave rm) s = .next { s with
    npx := s.npx.afterInit free
    mem := s.mem.store 94 (phys (eaSeg s rm) (eaOff s rm)) (s.npx.env free + 256 ^ 14 * s.npx.stack 8 0)
    fresh := s.fresh + 5 } := by
  rw [exec_npxMemoryForms_starts h _ mem_npxMemoryForms_fsave rm mem (.inr rfl), npxStart_atOnce (.inr rfl), Npx.begin_control rfl rfl,
    State.setNpx_self, npxRun_save rfl _ rfl, npxSave_plain (s := { s with fresh := s.fresh + 5 }) h.1]
  exact ⟨_, rfl⟩

end

/-! ## Loads -/

/-- The end of a load: an unmasked flag sets IR, and B is then IR. -/
theorem Npx.getLsbD_sw_react (n : Npx) (i : Nat) :
    n.react.sw.getLsbD i = if i = 15 then decide (unmasked n.cw (n.sw.setWidth 6) ≠ 0) || n.sw.getLsbD 7
      else n.sw.getLsbD i || (decide (i = 7) && decide (unmasked n.cw (n.sw.setWidth 6) ≠ 0)) := by
  by_cases hi : i < 16
  · unfold Npx.react
    dsimp only
    split
    next trap =>
      rw [decide_eq_true trap]
      interval_cases i <;> simp
    next quiet =>
      rw [decide_eq_false quiet]
      split
      next request =>
        rw [request]
        interval_cases i <;> simp
      next none =>
        rw [Bool.eq_false_iff.2 none]
        interval_cases i <;> simp
  · rw [BitVec.getLsbD_of_ge _ _ (by omega), if_neg (by omega), BitVec.getLsbD_of_ge n.sw _ (by omega), decide_eq_false (show ¬i = 7 by omega)]
    rfl

theorem getLsbD_loadedSw (old new : Word) (i : Nat) : (loadedSw old new).getLsbD i = if i = 6 then old.getLsbD i else new.getLsbD i := by
  by_cases hi : i < 16
  · unfold loadedSw
    interval_cases i <;> simp
  · rw [BitVec.getLsbD_of_ge _ _ (by omega), BitVec.getLsbD_of_ge new _ (by omega), if_neg (by omega)]

/-- What an 8087 holds once it has loaded an environment: `n` before, `cw` and `image` the words loaded. -/
structure Npx.LoadedFrom (n : Npx) (cw : Word) (image : Nat → Word) (m : Npx) : Prop where
  cw : m.cw &&& 0x1FBF = cw &&& 0x1FBF
  reserved : m.cw &&& 0xE040 = n.cw &&& 0xE040
  sw : m.sw &&& 0x7F3F = image 1 &&& 0x7F3F
  request : m.sw.getLsbD 7 = true ↔ (image 1).getLsbD 7 = true ∨ ∃ k < 6, (image 1).getLsbD k = true ∧ m.cw.getLsbD k = false
  busy : m.sw.getLsbD 15 = m.sw.getLsbD 7
  tw : m.tw = image 2
  xip : m.xip = (image 4).extractLsb' 12 4 ++ image 3
  xopc : m.xopc = (image 4).setWidth 11
  xop : m.xop = (image 6).extractLsb' 12 4 ++ image 5

/-- An address from its two words. -/
theorem address_of_words (low high : Word) : BitVec.ofNat 20 (low.toNat + high.toNat / 2 ^ 12 * 2 ^ 16) = high.extractLsb' 12 4 ++ low := by
  have := low.isLt
  have := high.isLt
  apply BitVec.eq_of_toNat_eq
  rw [toNat_append_eq, BitVec.extractLsb'_toNat, Nat.shiftRight_eq_div_pow, BitVec.toNat_ofNat]
  omega

theorem Npx.loadedFrom_react {n m : Npx} {img : Nat} {cw : Word} {image : Nat → Word} (kept : m.cw = n.cw)
    (first : BitVec.ofNat 16 img = cw) (words : ∀ k, 1 ≤ k → k < 7 → img / 2 ^ (16 * k) % 2 ^ 16 = (image k).toNat) (r : Vector TempReal 8) :
    n.LoadedFrom cw image ({ m.loadEnv img with r := r } : Npx).react := by
  have word (k : Nat) (low : 1 ≤ k) (high : k < 7) : BitVec.ofNat 16 (img / 2 ^ (16 * k) % 2 ^ 16) = image k := by
    rw [words k low high, BitVec.ofNat_toNat, BitVec.setWidth_eq]
  have loadedCwEq : ({ m.loadEnv img with r := r } : Npx).react.cw = loadedCw n.cw cw := by
    rw [← first, ← kept]
    show loadedCw m.cw (BitVec.ofNat 16 (img / 2 ^ (16 * 0) % 2 ^ 16)) = _
    congr 1
    apply BitVec.eq_of_toNat_eq
    simp
  have loadedSwEq : ({ m.loadEnv img with r := r } : Npx).sw = loadedSw m.sw (image 1) := by rw [← word 1 le_rfl (by decide)]; rfl
  have plain (i : Nat) (h6 : i ≠ 6) (h7 : i ≠ 7) (h15 : i ≠ 15) :
      ({ m.loadEnv img with r := r } : Npx).react.sw.getLsbD i = (image 1).getLsbD i := by
    rw [Npx.getLsbD_sw_react, if_neg h15, loadedSwEq, getLsbD_loadedSw, if_neg h6, decide_eq_false h7]
    simp
  refine ⟨?_, ?_, ?_, ?_, Npx.busy_react _, word 2 (by decide) (by decide), ?_, ?_, ?_⟩
  · rw [loadedCwEq, loadedCw, composed_and _ _ (by decide)]
  · rw [loadedCwEq, loadedCw, BitVec.or_comm, composed_and _ _ (by decide)]
  · refine BitVec.eq_of_getLsbD_eq fun i hi => ?_
    rw [BitVec.getLsbD_and, BitVec.getLsbD_and]
    by_cases special : i = 6 ∨ i = 7 ∨ i = 15
    · have outside : (0x7F3F : Word).getLsbD i = false := by
        obtain rfl | rfl | rfl := special <;> rfl
      rw [outside, Bool.and_false, Bool.and_false]
    · rw [plain i (by omega) (by omega) (by omega)]
  · have low (k : Nat) (hk : k < 6) :
        ((({ m.loadEnv img with r := r } : Npx).sw.setWidth 6 : BitVec 6)).getLsbD k = (image 1).getLsbD k := by
      rw [BitVec.getLsbD_setWidth, loadedSwEq, getLsbD_loadedSw, if_neg (by omega), decide_eq_true hk, Bool.true_and]
    have seven : ({ m.loadEnv img with r := r } : Npx).sw.getLsbD 7 = (image 1).getLsbD 7 := by
      rw [loadedSwEq, getLsbD_loadedSw, if_neg (by decide)]
    rw [Npx.getLsbD_sw_react, if_neg (by decide), seven, Bool.or_eq_true, Bool.and_eq_true, decide_eq_true_eq, decide_eq_true_eq, unmasked_ne_zero]
    refine or_congr Iff.rfl ((and_iff_right rfl).trans (exists_congr fun k => and_congr_right fun hk => and_congr_left' ?_))
    rw [low k hk]
  · show BitVec.ofNat 20 (img / 2 ^ (16 * 3) % 2 ^ 16 + img / 2 ^ (16 * 4) % 2 ^ 16 / 2 ^ 12 * 2 ^ 16) = _
    rw [words 3 (by decide) (by decide), words 4 (by decide) (by decide)]
    exact address_of_words _ _
  · show BitVec.ofNat 11 (img / 2 ^ (16 * 4) % 2 ^ 16) = _
    rw [words 4 (by decide) (by decide), BitVec.ofNat_toNat]
  · show BitVec.ofNat 20 (img / 2 ^ (16 * 5) % 2 ^ 16 + img / 2 ^ (16 * 6) % 2 ^ 16 / 2 ^ 12 * 2 ^ 16) = _
    rw [words 5 (by decide) (by decide), words 6 (by decide) (by decide)]
    exact address_of_words _ _

/-! ## FLDENV and FRSTOR on ordinary memory -/

/-- The environment image that a load finds: its first word as the CPU read it, the rest from memory. -/
def loadedImage (s : State) (rm : Rm) : Nat :=
  (BitVec.ofNat 80 (s.npxOperand 2 rm)).toNat % 2 ^ 16 + 2 ^ 16 * s.mem.number (bytesFrom 12 (phys (eaSeg s rm) (eaOff s rm) + 2))

theorem npxLoadEnv_plain {s : State} (h : s.PlainMemory) (first : TempReal) (a : Phys) :
    npxLoadEnv first a s = s.setNpx (s.npx.loadEnv (first.toNat % 2 ^ 16 + 2 ^ 16 * s.mem.number (bytesFrom 12 (a + 2)))).react := by
  rw [npxLoadEnv, npxReadEnv, npxRead_plain h]

theorem npxRestore_plain {s : State} (h : s.PlainMemory) (first : TempReal) (a : Phys) :
    npxRestore first a s
      = s.setNpx ((s.npx.loadEnv (first.toNat % 2 ^ 16 + 2 ^ 16 * s.mem.number (bytesFrom 12 (a + 2)))).loadStack 8 0
          (s.mem.number (bytesFrom 80 (a + 14)))).react := by
  rw [npxRestore, npxReadEnv, npxRead_plain h]
  dsimp only
  rw [npxRead_plain h]

/-- An operation that begins leaves the memory ordinary. -/
theorem State.PlainMemory.begin {s : State} (h : s.PlainMemory) (j : NpxJob) (f : Nat) :
    ({ s with npx := s.npx.begin j, fresh := f } : State).PlainMemory := by
  obtain ⟨regions, pcb, iop, running, turns⟩ := h
  exact ⟨regions, pcb, iop, (Npx.begin_running j s.npx).trans running, turns⟩

section
variable {s : State} {rm : Rm} (h : s.NpxStopped) (mem : rm.wellFormedMem = true) (idle : s.npx.busy = false)
include h mem idle

theorem exec_fldenv : ∃ j, exec (.fldenv rm) s = .next { s with
    npx := ((s.npx.begin j).loadEnv (loadedImage s rm)).react, fresh := s.fresh + 5 } := by
  have start := exec_npxMemoryForms_starts h _ mem_npxMemoryForms_fldenv rm mem (.inl idle)
  rw [npxStart_atOnce (.inr rfl), npxRun_ldenv rfl _ rfl] at start
  generalize hj : s.escJob _ _ _ _ = j at start
  have data : j.data = BitVec.ofNat 80 (s.npxOperand 2 rm) := by rw [← hj]; rfl
  have addr : j.addr.getD 0 = phys (eaSeg s rm) (eaOff s rm) := by rw [← hj]; rfl
  have load := npxLoadEnv_plain (h.1.begin j (s.fresh + 5)) j.data (j.addr.getD 0)
  rw [data, addr] at start load
  exact ⟨j, start.trans (congrArg _ load)⟩

theorem exec_frstor : ∃ j, exec (.frstor rm) s = .next { s with
    npx := (((s.npx.begin j).loadEnv (loadedImage s rm)).loadStack 8 0
      (s.mem.number (bytesFrom 80 (phys (eaSeg s rm) (eaOff s rm) + 14)))).react
    fresh := s.fresh + 5 } := by
  have start := exec_npxMemoryForms_starts h _ mem_npxMemoryForms_frstor rm mem (.inl idle)
  rw [npxStart_atOnce (.inr rfl), npxRun_rstor rfl _ rfl] at start
  generalize hj : s.escJob _ _ _ _ = j at start
  have data : j.data = BitVec.ofNat 80 (s.npxOperand 2 rm) := by rw [← hj]; rfl
  have addr : j.addr.getD 0 = phys (eaSeg s rm) (eaOff s rm) := by rw [← hj]; rfl
  have load := npxRestore_plain (h.1.begin j (s.fresh + 5)) j.data (j.addr.getD 0)
  rw [data, addr] at start load
  exact ⟨j, start.trans (congrArg _ load)⟩

end

/-- The words of the image found: the first as the CPU read it. -/
theorem ofNat_loadedImage (s : State) (rm : Rm) : BitVec.ofNat 16 (loadedImage s rm) = BitVec.ofNat 16 (s.npxOperand 2 rm) := by
  apply BitVec.eq_of_toNat_eq
  rw [loadedImage, BitVec.toNat_ofNat, BitVec.toNat_ofNat, BitVec.toNat_ofNat]
  omega

/-- The others from memory. -/
theorem loadedImage_word (s : State) (rm : Rm) (k : Nat) (low : 1 ≤ k) (high : k < 7) :
    loadedImage s rm / 2 ^ (16 * k) % 2 ^ 16 = (imageWord s.mem (phys (eaSeg s rm) (eaOff s rm)) k).toNat := by
  obtain ⟨l, rfl⟩ := Nat.exists_eq_add_of_le low
  have place : phys (eaSeg s rm) (eaOff s rm) + BitVec.ofNat 20 (2 * (1 + l)) = phys (eaSeg s rm) (eaOff s rm) + 2 + BitVec.ofNat 20 (2 * l) := by
    rw [show 2 * (1 + l) = 2 + 2 * l by omega, BitVec.ofNat_add, BitVec.add_assoc]
    rfl
  rw [toNat_imageWord, place, s.mem.number_part (i := 2 * l) (j := 2) (k := 12) (by omega), loadedImage]
  generalize s.mem.number _ = rest
  generalize (BitVec.ofNat 80 _).toNat = first
  have skip : (first % 2 ^ 16 + 2 ^ 16 * rest) / 2 ^ 16 = rest := by omega
  rw [show 2 ^ (16 * (1 + l)) = 2 ^ 16 * 256 ^ (2 * l) by rw [show 256 = 2 ^ 8 from rfl, ← pow_mul, ← pow_add]; ring_nf,
    ← Nat.div_div_eq_div_mul, skip]
  rfl

theorem Npx.top_react (n : Npx) : n.react.top = n.top :=
  Npx.top_congr fun i h h' => by
    rw [Npx.getLsbD_sw_react, if_neg (by omega), decide_eq_false (show ¬i = 7 by omega)]
    simp

theorem Npx.reg_react (n : Npx) (k : BitVec 3) : n.react.reg k = n.reg k := rfl

/-- The registers that FRSTOR loads. -/
theorem Npx.st_restored (n : Npx) (img : Nat) {k : Nat} (hk : k < 8) :
    (n.loadStack 8 0 img).react.st (BitVec.ofNat 3 k) = BitVec.ofNat 80 (img / (2 ^ 80) ^ k) := by
  have loaded := n.loadStack_reg le_rfl 0 img hk
  rw [Npx.st, Npx.reg_react, Npx.phys, Npx.top_react, Npx.loadStack_top]
  rw [Npx.phys, show 0 + BitVec.ofNat 3 k = BitVec.ofNat 3 k by simp] at loaded
  exact loaded

/-- The ten bytes of a register in an image. -/
theorem Memory.number_register (m : Memory) (a : Phys) {k : Nat} (hk : k < 8) :
    m.number (bytesFrom 10 (a + BitVec.ofNat 20 (14 + 10 * k))) = m.number (bytesFrom 80 (a + 14)) / (2 ^ 80) ^ k % 2 ^ 80 := by
  have place : a + BitVec.ofNat 20 (14 + 10 * k) = a + 14 + BitVec.ofNat 20 (10 * k) := by
    rw [BitVec.ofNat_add, BitVec.add_assoc]
    rfl
  rw [place, m.number_part (i := 10 * k) (j := 10) (k := 80) (by omega), show 256 ^ (10 * k) = (2 ^ 80) ^ k by
    rw [pow_mul]; rfl]
  rfl

end Sys2Proof.Machine

/-! O53, the obligation. -/

namespace Sys2Proof.Machine

/-! ## FRSTOR after FSAVE -/

/-- The image that FSAVE leaves of `n`. -/
structure Npx.SavedAt (n : Npx) (a : Phys) (m : Memory) : Prop where
  environment : n.EnvironmentAt a m
  register : ∀ k : Nat, k < 8 → m.number (bytesFrom 10 (a + BitVec.ofNat 20 (14 + 10 * k))) = (n.st (BitVec.ofNat 3 k)).toNat

theorem Npx.savedAt_of_number {n : Npx} {free : NpxFree} {a : Phys} {m : Memory}
    (h : m.number (bytesFrom 94 a) = n.env free + 256 ^ 14 * n.stack 8 0) : n.SavedAt a m := by
  have env := n.env_lt free
  have stack := n.stack_lt 8 0
  have first := m.number_part (i := 0) (j := 14) (k := 94) (by decide) a
  have second := m.number_part (i := 14) (j := 80) (k := 94) (by decide) a
  rw [h] at first second
  refine ⟨Npx.environmentAt (free := free) ?_, fun k hk => ?_⟩
  · rw [show a + BitVec.ofNat 20 0 = a by simp] at first
    rw [first]
    omega
  · have regs : m.number (bytesFrom 80 (a + 14)) = n.stack 8 0 := second.trans (by omega)
    have part := n.stack_part 0 hk
    rw [show 0 + BitVec.ofNat 3 k = BitVec.ofNat 3 k by simp] at part
    rw [m.number_register a hk, regs, part]

/-- The word that the CPU's dummy read gets is the first of the image, unless the segment ends within it on the 8086. -/
theorem npxOperand_two {s : State} {rm : Rm} (whole : s.is186 = true ∨ eaOff s rm ≠ 0xFFFF) :
    s.npxOperand 2 rm = s.mem.number (bytesFrom 2 (phys (eaSeg s rm) (eaOff s rm))) := by
  have off := (eaOff s rm).isLt
  have next : (nextByte s.is186 (eaSeg s rm) (eaOff s rm)).toNat = ((phys (eaSeg s rm) (eaOff s rm)).toNat + 1) % 2 ^ 20 := by
    rw [toNat_nextByte, toNat_phys]
    split
    · omega
    · obtain part | inside := whole
      · contradiction
      · have below : (eaOff s rm).toNat ≠ 0xFFFF := fun e => inside (BitVec.eq_of_toNat_eq e)
        omega
  have bytes : bytesFrom 2 (phys (eaSeg s rm) (eaOff s rm)) = s.rmBytes .word rm := by
    rw [State.rmBytes, operandBytes, next]
    have := (phys (eaSeg s rm) (eaOff s rm)).isLt
    show [((phys (eaSeg s rm) (eaOff s rm)).toNat + 0) % 2 ^ 20, _] = _
    rw [Nat.add_zero, Nat.mod_eq_of_lt this]
  rw [bytes, State.npxOperand, if_neg (by decide), show bytesFrom (2 - 2) _ = [] from rfl, List.append_nil]

/-- After FINIT the 8087 is idle. -/
theorem Npx.busy_afterInit (free : NpxFree) (n : Npx) : (n.afterInit free).busy = false := by
  rw [Npx.busy, Npx.afterInit, Npx.freeCc, Npx.getLsbD_sw_setCc, if_neg (by decide), if_neg (by decide), if_neg (by decide), if_neg (by decide)]
  exact BitVec.getLsbD_zero

/-- Initialization leaves only the condition code open. -/
theorem Npx.sw_afterInit (free : NpxFree) (n : Npx) : (n.afterInit free).sw &&& 0xB8FF = 0 := by
  refine BitVec.eq_of_getLsbD_eq fun i hi => ?_
  rw [BitVec.getLsbD_and, Npx.afterInit, Npx.freeCc, Npx.getLsbD_sw_setCc]
  interval_cases i <;> simp

theorem composed_masks {a b m m' : Word} (h : a &&& m = b &&& m) (sub : m' &&& m = m') : a &&& m' = b &&& m' := by
  rw [← sub, BitVec.and_comm m' m, ← BitVec.and_assoc, h, BitVec.and_assoc]

/-- The registers by their numbers, from those by the stack. -/
theorem Npx.r_of_st {n m : Npx} (top : m.top = n.top) (h : ∀ k : Nat, k < 8 → m.st (BitVec.ofNat 3 k) = n.st (BitVec.ofNat 3 k)) : m.r = n.r := by
  refine Vector.ext fun i hi => ?_
  have there := h (BitVec.ofNat 3 i - n.top).toNat (BitVec.isLt _)
  rw [BitVec.ofNat_toNat, BitVec.setWidth_eq, Npx.st_eq, Npx.st_eq, top, show n.top + (BitVec.ofNat 3 i - n.top) = BitVec.ofNat 3 i by bv_omega] at there
  have index : (BitVec.ofNat 3 i).toNat = i := by
    rw [BitVec.toNat_ofNat]
    omega
  simpa only [Npx.reg, index] using there

/-- The top is a field of the bits that a load takes from the image. -/
theorem Npx.top_of_masked {n m : Npx} (h : m.sw &&& 0x7F3F = n.sw &&& 0x7F3F) : m.top = n.top :=
  Npx.top_congr fun i low high => by
    have bit := congrArg (BitVec.getLsbD · i) h
    have inside : (0x7F3F : Word).getLsbD i = true := by interval_cases i <;> rfl
    simpa only [BitVec.getLsbD_and, inside, Bool.and_true] using bit

theorem extract_high (x : Phys) : (x.extractLsb' 16 4).toNat = x.toNat / 2 ^ 16 := by
  have := x.isLt
  rw [BitVec.extractLsb'_toNat, Nat.shiftRight_eq_div_pow]
  omega

/-- An address from the word with its high bits and the word with its low ones. -/
theorem address_of_parts (x : Phys) {high : Word} (h : high.toNat / 2 ^ 12 = x.toNat / 2 ^ 16) : high.extractLsb' 12 4 ++ x.setWidth 16 = x := by
  have := x.isLt
  apply BitVec.eq_of_toNat_eq
  rw [toNat_append_eq, BitVec.extractLsb'_toNat, Nat.shiftRight_eq_div_pow, h, BitVec.toNat_setWidth]
  omega

/-- An 8087 that loads the image of `n`, registers and all, holds what `n` held. -/
theorem Npx.LoadedFrom.restores {n p m : Npx} {a : Phys} {mem : Memory} (saved : n.SavedAt a mem)
    (h : p.LoadedFrom (imageWord mem a 0) (imageWord mem a) m)
    (registers : ∀ k : Nat, k < 8 → m.st (BitVec.ofNat 3 k) = BitVec.ofNat 80 (mem.number (bytesFrom 10 (a + BitVec.ofNat 20 (14 + 10 * k))))) :
    (m.xip = n.xip ∧ m.xop = n.xop ∧ m.xopc = n.xopc ∧ m.r = n.r)
      ∧ m.cw &&& 0x1FBF = n.cw &&& 0x1FBF ∧ m.sw &&& 0x7F3F = n.sw &&& 0x7F3F ∧ m.tw = n.tw := by
  obtain ⟨env, regs⟩ := saved
  have sw : m.sw &&& 0x7F3F = n.sw &&& 0x7F3F := h.sw.trans (composed_masks env.sw (by decide))
  have xip := h.xip
  have xop := h.xop
  have xopc := h.xopc
  rw [env.opcode, env.ip] at xip
  rw [env.last, env.operand] at xop
  rw [env.opcode] at xopc
  refine ⟨⟨xip.trans ?_, xop.trans ?_, xopc.trans ?_, Npx.r_of_st (Npx.top_of_masked sw) fun k hk => ?_⟩, h.cw.trans env.cw, sw, h.tw.trans env.tw⟩
  · exact address_of_parts n.xip (by rw [toNat_append_eq, toNat_append_eq, extract_high]; omega)
  · exact address_of_parts n.xop (by rw [toNat_append_eq, extract_high]; omega)
  · apply BitVec.eq_of_toNat_eq
    have := n.xopc.isLt
    rw [BitVec.toNat_setWidth, toNat_append_eq, toNat_append_eq]
    omega
  · rw [registers k hk, regs k hk, BitVec.ofNat_toNat, BitVec.setWidth_eq]

/-! ## The obligation -/

section
variable {s : State} {rm : Rm} (h : s.NpxStopped) (mem : rm.wellFormedMem = true) (idle : s.npx.busy = false)
include h mem idle

/-- FLDENV loads the environment from memory. -/
theorem fldenv_loads : s.NpxLeaves (.fldenv rm) fun m =>
    s.npx.LoadedFrom (BitVec.ofNat 16 (s.npxOperand 2 rm)) (imageWord s.mem (phys (eaSeg s rm) (eaOff s rm))) m ∧ m.r = s.npx.r := by
  obtain ⟨j, run⟩ := exec_fldenv h mem idle
  exact ⟨_, run, rfl, Npx.loadedFrom_react (Npx.begin_cw j s.npx) (ofNat_loadedImage s rm) (loadedImage_word s rm) (s.npx.begin j).r, Npx.begin_r j s.npx⟩

/-- FRSTOR loads the environment and the registers. -/
theorem frstor_loads : s.NpxLeaves (.frstor rm) fun m =>
    s.npx.LoadedFrom (BitVec.ofNat 16 (s.npxOperand 2 rm)) (imageWord s.mem (phys (eaSeg s rm) (eaOff s rm))) m
      ∧ ∀ k : Nat, k < 8 → m.st (BitVec.ofNat 3 k)
          = BitVec.ofNat 80 (s.mem.number (bytesFrom 10 (phys (eaSeg s rm) (eaOff s rm) + BitVec.ofNat 20 (14 + 10 * k)))) := by
  obtain ⟨j, run⟩ := exec_frstor h mem idle
  refine ⟨_, run, rfl, ?_, fun k hk => ?_⟩
  · dsimp only
    rw [Npx.loadStack_fields]
    exact Npx.loadedFrom_react (Npx.begin_cw j s.npx) (ofNat_loadedImage s rm) (loadedImage_word s rm) _
  · rw [s.mem.number_register _ hk]
    refine (Npx.st_restored _ _ hk).trans (BitVec.eq_of_toNat_eq ?_)
    rw [BitVec.toNat_ofNat, BitVec.toNat_ofNat, Nat.mod_mod]

end

section
variable {s : State} {rm : Rm} (h : s.NpxStopped) (ordinary : s.Ordinary) (mem : rm.wellFormedMem = true)
include h ordinary mem

/-- FSTENV stores the environment image. -/
theorem fstenv_stores : ∃ t, exec (.fstenv rm) s = .next t ∧ t = { s with npx := t.npx, mem := t.mem, fresh := t.fresh }
    ∧ t.npx = { s.npx with cw := s.npx.cw ||| 0x003F } ∧ s.npx.EnvironmentAt (phys (eaSeg s rm) (eaOff s rm)) t.mem
    ∧ MemoryKeptOutside (bytesFrom 14 (phys (eaSeg s rm) (eaOff s rm))) s t := by
  obtain ⟨free, run⟩ := exec_fstenv h mem
  refine ⟨_, run, rfl, rfl, Npx.environmentAt (free := free) ?_, fun b hb _ => Memory.read_store_other _ _ hb⟩
  dsimp only
  rw [Memory.number_store ordinary.2 (by decide), Nat.mod_eq_of_lt (s.npx.env_lt free)]

/-- FSAVE stores the environment image and the registers. -/
theorem fsave_stores : ∃ t free, exec (.fsave rm) s = .next t ∧ t = { s with npx := t.npx, mem := t.mem, fresh := t.fresh }
    ∧ t.npx = s.npx.afterInit free ∧ s.npx.SavedAt (phys (eaSeg s rm) (eaOff s rm)) t.mem
    ∧ MemoryKeptOutside (bytesFrom 94 (phys (eaSeg s rm) (eaOff s rm))) s t := by
  obtain ⟨free, run⟩ := exec_fsave h mem
  have number := Memory.number_store ordinary.2 (k := 94) (by decide) (phys (eaSeg s rm) (eaOff s rm))
    (s.npx.env free + 256 ^ 14 * s.npx.stack 8 0)
  have other (b : Nat) (hb : b ∉ bytesFrom 94 (phys (eaSeg s rm) (eaOff s rm))) :=
    s.mem.read_store_other (s.npx.env free + 256 ^ 14 * s.npx.stack 8 0) hb
  generalize s.mem.store 94 _ _ = m at run number other
  refine ⟨_, free, run, rfl, rfl, Npx.savedAt_of_number (free := free) ?_, fun b hb _ => other b hb⟩
  have env := s.npx.env_lt free
  have stack := s.npx.stack_lt 8 0
  refine number.trans (Nat.mod_eq_of_lt ?_)
  omega

end

/-- After a store of the 8087 the machine is as ready for it as before. -/
theorem State.NpxStopped.stored {s t : State} (h : s.NpxStopped) (only : t = { s with npx := t.npx, mem := t.mem, fresh := t.fresh })
    (stopped : t.npx.running = none) : t.NpxStopped := by
  obtain ⟨⟨regions, pcb, iop, -, turns⟩, there, reloc⟩ := h
  rw [only]
  exact ⟨⟨regions, pcb, iop, stopped, turns⟩, there, reloc⟩

/-- And its operands are where they were. -/
theorem operand_stored {s t : State} (only : t = { s with npx := t.npx, mem := t.mem, fresh := t.fresh }) (rm : Rm) :
    eaSeg t rm = eaSeg s rm ∧ eaOff t rm = eaOff s rm ∧ t.is186 = s.is186 := by
  rw [only]
  refine ⟨rfl, ?_, rfl⟩
  cases rm <;> rfl

/-- Settles O53: the pointers by what begins an operation, the images by what is stored and loaded. -/
theorem npxImages : Obligations.NpxImages := by
  unfold Obligations.NpxImages
  intro s h ordinary n points
  have pointed {i : Instr} {op : NpxOp} {a : Option Phys} {data : Nat} (sets : op.setsPointers = true)
      (start : n.busy = false ∨ op.noWait = true → exec i s = .next (npxStart (s.escJob i op a data) s)) : points i op a := by
    intro may
    have at' := npxStart_pointsAt (j := s.escJob i op a data) s sets
    exact ⟨_, start may, at'.xip, at'.xopc, at'.xop⟩
  refine ⟨fun p hp sets rm mem => pointed (npxMemoryForms_setsPointers p hp sets) (exec_npxMemoryForms_starts h p hp rm mem),
    fun p hp k => pointed (npxStackForms_setsPointers p hp k) (exec_npxStackForms_starts h p hp k),
    fun p hp clex init => pointed (npxFixedForms_setsPointers p hp clex init) (exec_npxFixedForms_starts h p hp), fun rm mem => ?_⟩
  intro a image kept environment loaded
  have loads {m : Npx} (l : n.LoadedFrom (BitVec.ofNat 16 (s.npxOperand 2 rm)) (imageWord s.mem a) m) : loaded m :=
    ⟨l.cw, l.reserved, l.sw, ⟨l.request, l.busy⟩, l.tw, l.xip, l.xopc, l.xop⟩
  have env {m : Memory} (e : n.EnvironmentAt a m) : environment m := ⟨e.cw, e.sw, e.tw, e.ip, e.opcode, e.operand, e.last⟩
  refine ⟨?_, ?_, fun idle => ?_, fun idle => ?_⟩
  · obtain ⟨t, run, only, npx, image, kept⟩ := fstenv_stores h ordinary mem
    refine ⟨t, run, env image, kept, ?_, ?_, ?_, ?_, only⟩ <;> rw [npx]
    exact ⟨rfl, rfl, rfl, rfl⟩
  · obtain ⟨t, free, run, only, npx, saved, kept⟩ := fsave_stores h ordinary mem
    refine ⟨t, run, env saved.environment, kept, saved.register, ?_, ?_, ?_, ?_, only, fun whole => ?_⟩
    · rw [npx]
      exact ⟨rfl, rfl, rfl, rfl⟩
    · rw [npx]
      rfl
    · rw [npx]
      exact Npx.sw_afterInit free n
    · rw [npx]
      rfl
    · have stopped := h.stored only (by rw [npx]; rfl)
      obtain ⟨seg, off, part⟩ := operand_stored only rm
      obtain ⟨u, restored, -, l, registers⟩ := frstor_loads stopped mem (by rw [npx]; exact Npx.busy_afterInit free n)
      rw [npxOperand_two (by rwa [part, off]), seg, off] at l
      rw [seg, off] at registers
      have first : imageWord t.mem a 0 = BitVec.ofNat 16 (t.mem.number (bytesFrom 2 a)) := by simp [imageWord]
      rw [← first] at l
      exact ⟨u, restored, l.restores saved registers⟩
  · obtain ⟨t, run, only, l, r⟩ := fldenv_loads h mem idle
    exact ⟨t, run, only, loads l, r⟩
  · obtain ⟨t, run, only, l, registers⟩ := frstor_loads h mem idle
    exact ⟨t, run, only, loads l, registers⟩

end Sys2Proof.Machine

/-! O51. The loads of the 8087 from memory (47_npx_8087_state.md R329 to R331; 48_npx_8087_instructions.md R351, R355, R358). -/

namespace Sys2Proof.Machine

/-! ## Integers -/

/-- An integer of at most 64 bits as a normal temporary real. -/
theorem toReal_int (neg : Bool) {m : Nat} (pos : m ≠ 0) (small : m < 2 ^ 64) :
    Exact.toReal ⟨neg, m, 0⟩ = packReal neg (16383 + m.log2) (m * 2 ^ (63 - m.log2)) := by
  have log : m.log2 < 64 := (Nat.log2_lt pos).2 small
  have field : ((0 : ℤ) + (m.log2 : ℤ) + 16383).toNat = 16383 + m.log2 := by omega
  have shift : ((0 : ℤ) - (0 + (m.log2 : ℤ) - 63)).toNat = 63 - m.log2 := by omega
  rw [Exact.toReal, if_neg pos, Exact.round, if_pos (by rw [Exact.exponent]; dsimp only; omega), Exact.exponent]
  dsimp only
  rw [field, shift, Nat.shiftLeft_eq]

/-- The significand is normalized. -/
theorem normalized_bounds {m : Nat} (pos : m ≠ 0) (small : m < 2 ^ 64) : 2 ^ 63 ≤ m * 2 ^ (63 - m.log2) ∧ m * 2 ^ (63 - m.log2) < 2 ^ 64 := by
  have log : m.log2 < 64 := (Nat.log2_lt pos).2 small
  have low : 2 ^ m.log2 ≤ m := Nat.log2_self_le pos
  have high : m < 2 ^ (m.log2 + 1) := Nat.lt_log2_self
  constructor
  · calc 2 ^ 63 = 2 ^ m.log2 * 2 ^ (63 - m.log2) := by rw [← pow_add, Nat.add_sub_cancel' (by omega)]
      _ ≤ m * 2 ^ (63 - m.log2) := Nat.mul_le_mul_right _ low
  · calc m * 2 ^ (63 - m.log2) < 2 ^ (m.log2 + 1) * 2 ^ (63 - m.log2) := Nat.mul_lt_mul_of_pos_right high (by positivity)
      _ = 2 ^ 64 := by rw [← pow_add, show m.log2 + 1 + (63 - m.log2) = 64 by omega]

/-- The fields of an integer that was loaded. -/
structure IsInteger (neg : Bool) (m : Nat) (v : TempReal) : Prop where
  normal : realClass v = .normal
  sign : realNeg v = neg
  low : 16383 ≤ realField v
  high : realField v ≤ 16383 + 63
  sig : realSig v = m * 2 ^ (16383 + 63 - realField v)

theorem isInteger_toReal (neg : Bool) {m : Nat} (pos : m ≠ 0) (small : m < 2 ^ 64) : IsInteger neg m (Exact.toReal ⟨neg, m, 0⟩) := by
  have log : m.log2 < 64 := (Nat.log2_lt pos).2 small
  obtain ⟨low, high⟩ := normalized_bounds pos small
  rw [toReal_int neg pos small]
  have field := realField_packReal neg (show 16383 + m.log2 < 2 ^ 15 by omega) high
  have sig := realSig_packReal neg (show 16383 + m.log2 < 2 ^ 15 by omega) high
  refine ⟨realClass_normal.2 ⟨?_, ?_, ?_⟩, realNeg_packReal neg (by omega) high, ?_, ?_, ?_⟩
  · omega
  · omega
  · omega
  · omega
  · omega
  · rw [sig, field, show 16383 + 63 - (16383 + m.log2) = 63 - m.log2 by omega]

/-- Its number. -/
theorem IsInteger.abs_realQ {neg : Bool} {m : Nat} {v : TempReal} (h : IsInteger neg m v) : |realQ v| = m := by
  obtain ⟨-, -, low, high, sig⟩ := h
  rw [← toQ_realValue, Exact.abs_toQ, realValue]
  dsimp only
  rw [sig, Nat.cast_mul, Nat.cast_pow, Nat.cast_ofNat, ← zpow_natCast, mul_assoc, ← zpow_add₀ (by norm_num)]
  rw [show ((16383 + 63 - realField v : ℕ) : ℤ) + (((max (realField v) 1 : ℕ) : ℤ) - 16383 - 63) = 0 by omega, zpow_zero, mul_one]

/-- FILD: a two's complement integer of 16, 32 or 64 bits. -/
theorem fromInt_spec : ∀ bits ∈ [16, 32, 64], ∀ d : TempReal,
    ((BitVec.ofNat bits d.toNat).toInt = 0 → fromInt bits d = 0)
      ∧ ((BitVec.ofNat bits d.toNat).toInt ≠ 0 →
        IsInteger (decide ((BitVec.ofNat bits d.toNat).toInt < 0)) (BitVec.ofNat bits d.toNat).toInt.natAbs (fromInt bits d)) := by
  intro bits hbits d
  have range : bits ≤ 64 ∧ 1 ≤ bits := by
    simp only [List.mem_cons, List.not_mem_nil, or_false] at hbits
    omega
  have half : 2 ^ bits = 2 * 2 ^ (bits - 1) := by rw [← Nat.pow_succ', Nat.succ_eq_add_one, Nat.sub_add_cancel range.2]
  have top : 2 ^ bits ≤ 2 ^ 64 := Nat.pow_le_pow_right (by decide) range.1
  have lt : d.toNat % 2 ^ bits < 2 ^ bits := Nat.mod_lt _ (by positivity)
  rw [BitVec.toInt_eq_toNat_cond, BitVec.toNat_ofNat, fromInt]
  generalize d.toNat % 2 ^ bits = u at lt ⊢
  rw [half] at lt top ⊢
  generalize 2 ^ (bits - 1) = h at lt top ⊢
  by_cases nonneg : u < h
  · rw [if_pos nonneg, if_pos (by omega)]
    refine ⟨fun zero => ?_, fun nonzero => ?_⟩
    · obtain rfl : u = 0 := by omega
      rfl
    · rw [decide_eq_false (by omega), Int.natAbs_natCast]
      exact isInteger_toReal false (by omega) (by omega)
  · rw [if_neg nonneg, if_neg (by omega)]
    refine ⟨fun zero => by omega, fun nonzero => ?_⟩
    rw [decide_eq_true (by omega), show ((u : ℤ) - ((2 * h : ℕ) : ℤ)).natAbs = 2 * h - u by omega]
    exact isInteger_toReal true (by omega) (by omega)

/-! ## Packed decimals -/

/-- The digits, if each is 0 to 9. -/
theorem bcdDigits_eq (u k : Nat) (h : ∀ i < k, u / 16 ^ i % 16 < 10) :
    bcdDigits u k = some (((List.range k).map fun i => u / 16 ^ i % 16 * 10 ^ i).sum) := by
  induction k generalizing u with
  | zero => rfl
  | succ k ih =>
    have first : u % 16 < 10 := by simpa using h 0 (by omega)
    have rest := ih (u / 16) fun i hi => by
      have digit := h (i + 1) (by omega)
      rwa [Nat.pow_succ', ← Nat.div_div_eq_div_mul] at digit
    rw [bcdDigits, if_pos first, rest, Option.map_some, List.range_succ_eq_map, List.map_cons, List.map_map, List.sum_cons]
    have shifted : (List.range k).map ((fun i => u / 16 ^ i % 16 * 10 ^ i) ∘ Nat.succ)
        = (List.range k).map fun i => 10 * (u / 16 / 16 ^ i % 16 * 10 ^ i) := by
      refine List.map_congr_left fun i _ => ?_
      rw [Function.comp_apply, Nat.succ_eq_add_one, Nat.pow_succ', Nat.pow_succ', ← Nat.div_div_eq_div_mul]
      ring
    rw [shifted, List.sum_map_mul_left]
    simp [Nat.add_comm]

/-- A number of `k` decimal digits. -/
theorem digits_sum_lt (u k : Nat) (h : ∀ i < k, u / 16 ^ i % 16 < 10) : ((List.range k).map fun i => u / 16 ^ i % 16 * 10 ^ i).sum < 10 ^ k := by
  induction k with
  | zero => simp
  | succ k ih =>
    have digit := h k (by omega)
    have rest := ih fun i hi => h i (by omega)
    rw [List.range_succ, List.map_append, List.sum_append, List.map_singleton, List.sum_singleton, Nat.pow_succ]
    nlinarith [Nat.mul_le_mul_right (10 ^ k) (Nat.lt_succ_iff.1 digit)]

/-- FBLD of a packed decimal with digits 0 to 9. -/
theorem fromBcd_spec (fr d : TempReal) (h : ∀ k < 18, d.toNat / 16 ^ k % 16 < 10) :
    realClass (fromBcd fr d) ∈ [.normal, .zero] ∧ realNeg (fromBcd fr d) = d.getLsbD 79
      ∧ |realQ (fromBcd fr d)| = ((((List.range 18).map fun k => d.toNat / 16 ^ k % 16 * 10 ^ k).sum : ℕ) : ℚ) := by
  have small := digits_sum_lt d.toNat 18 h
  rw [fromBcd, bcdDigits_eq d.toNat 18 h]
  dsimp only
  generalize ((List.range 18).map fun k => d.toNat / 16 ^ k % 16 * 10 ^ k).sum = m at small ⊢
  by_cases zero : m = 0
  · subst zero
    have fields := realField_packReal (realNeg d) (field := 0) (sig := 0) (by decide) (by decide)
    have sig := realSig_packReal (realNeg d) (field := 0) (sig := 0) (by decide) (by decide)
    have isZero : realClass (packReal (realNeg d) 0 0) = .zero := realClass_zero.2 ⟨fields, sig⟩
    rw [Exact.toReal, if_pos rfl, npxZero]
    exact ⟨by simp [isZero], realNeg_packReal _ (by decide) (by decide), by rw [realQ_of_zero isZero]; simp⟩
  · have int := isInteger_toReal (realNeg d) zero (by omega)
    exact ⟨by simp [int.normal], int.sign, int.abs_realQ⟩

/-! ## Short and long reals, R329, R331 -/

/-- The formats of a short and of a long real: the widths of exponent and fraction, the bias. -/
structure IsRealFormat (e f : Nat) : Prop where
  low : 2 ≤ e
  high : e ≤ 11
  fraction : f ≤ 62

theorem isRealFormat_short : IsRealFormat 8 23 := ⟨by decide, by decide, by decide⟩
theorem isRealFormat_long : IsRealFormat 11 52 := ⟨by decide, by decide, by decide⟩

namespace IsRealFormat

variable {e f : Nat} (h : IsRealFormat e f)
include h

theorem pow_eq : 2 ^ e = 2 * 2 ^ (e - 1) := by
  have := h.low
  rw [← Nat.pow_succ', Nat.succ_eq_add_one, Nat.sub_add_cancel (by omega)]

theorem half_bounds : 2 ≤ 2 ^ (e - 1) ∧ 2 ^ (e - 1) ≤ 2 ^ 10 :=
  ⟨Nat.le_self_pow (by have := h.low; omega) 2, Nat.pow_le_pow_right (by decide) (by have := h.high; omega)⟩

/-- A fraction moved to its place in the significand. -/
theorem frac_lt {frac : Nat} (lt : frac < 2 ^ f) : frac * 2 ^ (63 - f) < 2 ^ 63 := by
  have := h.fraction
  calc frac * 2 ^ (63 - f) < 2 ^ f * 2 ^ (63 - f) := Nat.mul_lt_mul_of_pos_right lt (by positivity)
    _ = 2 ^ 63 := by rw [← pow_add, Nat.add_sub_cancel' (by omega)]

end IsRealFormat

/-- A magnitude moved to its place in the significand. -/
theorem cast_placed {f : Nat} (hf : f ≤ 63) (n : Nat) (i : ℤ) : ((n * 2 ^ (63 - f) : ℕ) : ℚ) * 2 ^ i = n * 2 ^ (i + (63 - f)) := by
  rw [Nat.cast_mul, Nat.cast_pow, Nat.cast_ofNat, ← zpow_natCast, mul_assoc, ← zpow_add₀ (by norm_num)]
  congr 2
  omega

/-- The number of what is packed from fields. -/
theorem realQ_packReal (neg : Bool) {field sig : Nat} (hf : field < 2 ^ 15) (hs : sig < 2 ^ 64) :
    realQ (packReal neg field sig) = (if neg then -1 else 1) * sig * 2 ^ (((max field 1 : ℕ) : ℤ) - 16446) := by
  rw [realQ, realNeg_packReal neg hf hs, realField_packReal neg hf hs, realSig_packReal neg hf hs]

/-- The three fields of a short or long real, its number. -/
theorem memQ_mod (e f u : Nat) : memQ e f (u % 2 ^ (e + f + 1)) = (if u / 2 ^ (e + f) % 2 = 1 then (-1 : ℚ) else 1)
    * ((u % 2 ^ f + if u / 2 ^ f % 2 ^ e = 0 then 0 else 2 ^ f : ℕ) : ℚ)
    * 2 ^ (((max (u / 2 ^ f % 2 ^ e) 1 : ℕ) : ℤ) - ((2 ^ (e - 1) - 1 + f : ℕ) : ℤ)) := by
  have sign : u % 2 ^ (e + f + 1) / 2 ^ (e + f) % 2 = u / 2 ^ (e + f) % 2 := by
    rw [Nat.pow_succ, Nat.mod_mul_right_div_self, Nat.mod_mod]
  have field : u % 2 ^ (e + f + 1) / 2 ^ f % 2 ^ e = u / 2 ^ f % 2 ^ e := by
    rw [show e + f + 1 = f + (e + 1) by omega, pow_add, Nat.mod_mul_right_div_self, Nat.mod_mod_of_dvd _ (pow_dvd_pow 2 (by omega))]
  have frac : u % 2 ^ (e + f + 1) % 2 ^ f = u % 2 ^ f := Nat.mod_mod_of_dvd _ (pow_dvd_pow 2 (by omega))
  unfold memQ
  rw [sign, field, frac]

/-- FLD of a short or long real. -/
theorem fromReal_spec {e f : Nat} (h : IsRealFormat e f) (d : TempReal) :
    let o := fromReal e f d
    let field := d.toNat / 2 ^ f % 2 ^ e
    let frac := d.toNat % 2 ^ f
    realNeg o.v = decide (d.toNat / 2 ^ (e + f) % 2 = 1)
      ∧ (field ≠ 2 ^ e - 1 → realQ o.v = memQ e f (d.toNat % 2 ^ (e + f + 1))
        ∧ realClass o.v = (if field ≠ 0 then .normal else if frac = 0 then .zero else .unnormal) ∧ o.den = decide (field = 0 ∧ frac ≠ 0))
      ∧ (field = 2 ^ e - 1 → realField o.v = 0x7FFF ∧ realSig o.v = 2 ^ 63 + frac * 2 ^ (63 - f) ∧ o.den = false) := by
  obtain ⟨half2, half10⟩ := h.half_bounds
  have pow := h.pow_eq
  have fieldLt : d.toNat / 2 ^ f % 2 ^ e < 2 ^ e := Nat.mod_lt _ (by positivity)
  have fracLt : d.toNat % 2 ^ f < 2 ^ f := Nat.mod_lt _ (by positivity)
  have fraction := h.fraction
  rw [memQ_mod, fromReal]
  dsimp only
  generalize hneg : decide (d.toNat / 2 ^ (e + f) % 2 = 1) = neg
  have signEq : (if d.toNat / 2 ^ (e + f) % 2 = 1 then (-1 : ℚ) else 1) = if neg then -1 else 1 := by simp [← hneg]
  rw [signEq]
  generalize d.toNat / 2 ^ f % 2 ^ e = field at fieldLt ⊢
  generalize d.toNat % 2 ^ f = frac at fracLt ⊢
  have placed := h.frac_lt fracLt
  have placedZero : frac * 2 ^ (63 - f) = 0 ↔ frac = 0 := by simp
  have unit : 2 ^ 63 = 2 ^ f * 2 ^ (63 - f) := by rw [← pow_add, Nat.add_sub_cancel' (by omega)]
  by_cases special : field = 2 ^ e - 1
  · have hs : 2 ^ 63 + frac * 2 ^ (63 - f) < 2 ^ 64 := by omega
    rw [if_pos special]
    exact ⟨realNeg_packReal neg (by decide) hs, fun no => absurd special no,
      fun _ => ⟨realField_packReal neg (by decide) hs, realSig_packReal neg (by decide) hs, rfl⟩⟩
  rw [if_neg special]
  refine (fun key => ⟨key.1, fun _ => key.2, fun no => absurd no special⟩ : _ ∧ _ → _) ?_
  by_cases nonzero : field ≠ 0
  · have hf : field + (16383 - (2 ^ (e - 1) - 1)) < 2 ^ 15 := by omega
    have hs : 2 ^ 63 + frac * 2 ^ (63 - f) < 2 ^ 64 := by omega
    have normal : realClass (packReal neg (field + (16383 - (2 ^ (e - 1) - 1))) (2 ^ 63 + frac * 2 ^ (63 - f))) = .normal := by
      rw [realClass_normal, realField_packReal neg hf hs, realSig_packReal neg hf hs]
      omega
    rw [if_pos nonzero, if_pos nonzero, if_neg nonzero]
    refine ⟨realNeg_packReal neg hf hs, ?_, normal, by simp [nonzero]⟩
    rw [realQ_packReal neg hf hs, unit, ← Nat.add_mul, mul_assoc, cast_placed (by omega), ← mul_assoc, Nat.add_comm frac]
    congr 2
    omega
  obtain rfl : field = 0 := not_not.1 nonzero
  rw [if_neg nonzero, if_neg nonzero]
  by_cases zero : frac = 0
  · subst zero
    have isZero : realClass (npxZero neg) = .zero := by
      rw [realClass_zero, npxZero, realField_packReal neg (by decide) (by decide), realSig_packReal neg (by decide) (by decide)]
      exact ⟨rfl, rfl⟩
    rw [if_pos (placedZero.2 rfl), if_pos rfl]
    exact ⟨realNeg_packReal neg (by decide) (by decide), by simp [realQ_of_zero isZero], isZero, rfl⟩
  · have hf : 1 + (16383 - (2 ^ (e - 1) - 1)) < 2 ^ 15 := by omega
    have hs : frac * 2 ^ (63 - f) < 2 ^ 64 := by omega
    have unnormal : realClass (packReal neg (1 + (16383 - (2 ^ (e - 1) - 1))) (frac * 2 ^ (63 - f))) = .unnormal := by
      rw [realClass_unnormal, realField_packReal neg hf hs, realSig_packReal neg hf hs]
      omega
    rw [if_neg (mt placedZero.1 zero), if_neg zero]
    refine ⟨realNeg_packReal neg hf hs, ?_, unnormal, by simp [zero]⟩
    rw [realQ_packReal neg hf hs, mul_assoc, cast_placed (by omega), ← mul_assoc, if_pos rfl, Nat.add_zero]
    congr 2
    omega

/-! ## The instructions -/

/-- The operand of a load, and what the instruction pushes. -/
theorem npxLoads_instructions {s : State} (h : s.NpxReady) : ∀ p ∈ npxMemoryForms, ∀ f, p.2.2 = .load f → ∀ rm, rm.wellFormedMem = true →
    Gives (exec (p.1 rm) s) fun t => NpxOnly s t ∧ ∃ fr,
      let d : TempReal := BitVec.ofNat 80 (s.npxOperand f.bytes rm)
      let o := loadOperand fr f d
      NpxPushes s.npx t.npx (if o.den then 2 else 0) (if f = .real80 then d else o.v) := by
  intro p hp f load rm mem
  have numeric : p.2.2.numeric = true := by rw [load]; rfl
  refine h.gives_memory (P := fun m => ∃ fr, let o := loadOperand fr f (BitVec.ofNat 80 (s.npxOperand f.bytes rm))
    NpxPushes s.npx m (if o.den then 2 else 0) (if f = .real80 then BitVec.ofNat 80 (s.npxOperand f.bytes rm) else o.v)) p hp rm mem numeric
    fun j free => ?_
  rw [load]
  refine ⟨free.real, npxPushes_runs ?_⟩
  simp only [Npx.numeric, Npx.load, NpxOp.loads]
  rfl

/-- Settles O51. -/
theorem npxLoads : Obligations.NpxLoads := by
  unfold Obligations.NpxLoads
  refine ⟨fun bits hbits d => ?_, fun fr d => ⟨rfl, rfl, rfl, regOperand_den d, fun digits => ?_, fun p hp => ?_⟩,
    fun s h => npxLoads_instructions h⟩
  · obtain ⟨zero, nonzero⟩ := fromInt_spec bits hbits d
    exact ⟨zero, fun ne => ⟨(nonzero ne).normal, (nonzero ne).sign, (nonzero ne).low, (nonzero ne).high, (nonzero ne).sig⟩⟩
  · obtain ⟨cls, sign, number⟩ := fromBcd_spec fr d digits
    exact ⟨cls, sign, rfl, number⟩
  · simp only [List.mem_cons, List.not_mem_nil, or_false] at hp
    obtain rfl | rfl := hp
    · exact fromReal_spec isRealFormat_short d
    · exact fromReal_spec isRealFormat_long d

end Sys2Proof.Machine

/-! SUPPORT. Rounding (47_npx_8087_state.md R322, R332): what dropping the low bits of a magnitude gives; the multiple of a power of 2 that an
exact value rounds to; a value that rounds as another does. -/

namespace Sys2Proof.Machine

/-! ## Dropping bits -/

/-- Is a magnitude with the quotient `q` and the remainder `r` by 2^d rounded up? -/
def roundsUp (rc : Rounding) (neg : Bool) (q r d : Nat) : Bool :=
  match rc with
  | .nearest => decide (2 ^ d < 2 * r) || (2 * r == 2 ^ d && q % 2 == 1)
  | .down => neg
  | .up => !neg
  | .chop => false

theorem roundDrop_eq (rc : Rounding) (neg : Bool) (m d : Nat) :
    roundDrop rc neg m d = (m / 2 ^ d + if m % 2 ^ d ≠ 0 ∧ roundsUp rc neg (m / 2 ^ d) (m % 2 ^ d) d = true then 1 else 0, m % 2 ^ d != 0) := by
  rw [← Nat.shiftRight_eq_div_pow]
  refine Prod.ext ?_ rfl
  change (if m % 2 ^ d ≠ 0 ∧ roundsUp rc neg (m >>> d) (m % 2 ^ d) d = true then m >>> d + 1 else m >>> d) = _
  split <;> rfl

/-- What rounding to a multiple of 2^d leaves: the multiple, by how much it differs, and on which side it is. -/
structure IsDropped (rc : Rounding) (neg : Bool) (m n u : Nat) (lost : Bool) : Prop where
  exact : lost = false ↔ n * u = m
  below : n * u < m + u
  above : m < n * u + u
  mode : match rc with
    | .nearest => 2 * (n * u) ≤ 2 * m + u ∧ 2 * m ≤ 2 * (n * u) + u ∧ (2 * (n * u) = 2 * m + u ∨ 2 * m = 2 * (n * u) + u → n % 2 = 0)
    | .down => if neg then m ≤ n * u else n * u ≤ m
    | .up => if neg then n * u ≤ m else m ≤ n * u
    | .chop => n * u ≤ m

theorem isDropped_roundDrop (rc : Rounding) (neg : Bool) (m d : Nat) :
    IsDropped rc neg m (roundDrop rc neg m d).1 (2 ^ d) (roundDrop rc neg m d).2 := by
  rw [roundDrop_eq]
  have rest : m % 2 ^ d < 2 ^ d := Nat.mod_lt _ (by positivity)
  have whole : m / 2 ^ d * 2 ^ d + m % 2 ^ d = m := Nat.div_add_mod' m (2 ^ d)
  generalize up : roundsUp rc neg (m / 2 ^ d) (m % 2 ^ d) d = c
  unfold roundsUp at up
  generalize m / 2 ^ d = q at whole up ⊢
  generalize m % 2 ^ d = r at rest whole up ⊢
  generalize 2 ^ d = u at rest whole up ⊢
  by_cases inc : r ≠ 0 ∧ c = true
  · rw [if_pos inc]
    have next : (q + 1) * u = q * u + u := Nat.succ_mul q u
    obtain ⟨pos, rfl⟩ := inc
    refine ⟨?_, by dsimp only; omega, by dsimp only; omega, ?_⟩
    · simp only [bne_eq_false_iff_eq]
      omega
    cases rc <;> dsimp only at up ⊢
    case nearest =>
      simp only [Bool.or_eq_true, decide_eq_true_eq, Bool.and_eq_true, beq_iff_eq] at up
      omega
    case down => rw [if_pos up]; omega
    case up => rw [if_neg (by simpa using up)]; omega
    case chop => cases up
  · rw [if_neg inc, Nat.add_zero]
    have down : r = 0 ∨ c = false := by
      rw [not_and_or, not_not, Bool.not_eq_true] at inc
      exact inc
    refine ⟨?_, by dsimp only; omega, by dsimp only; omega, ?_⟩
    · simp only [bne_eq_false_iff_eq]
      omega
    obtain rfl | rfl := down
    · cases rc <;> dsimp only
      case nearest => omega
      case down | up => split <;> omega
      case chop => omega
    cases rc <;> dsimp only at up ⊢
    case nearest =>
      simp only [Bool.or_eq_false_iff, decide_eq_false_iff_not, Bool.and_eq_false_iff, beq_eq_false_iff_ne] at up
      omega
    case down => rw [if_neg (by simp [up])]; omega
    case up => rw [if_pos (by simpa using up)]; omega
    case chop => omega

/-! ## Rounded numbers -/

/-- A sign as a factor. -/
def signQ (neg : Bool) : ℚ := if neg then -1 else 1

theorem abs_signQ_mul (neg : Bool) (q : ℚ) : |signQ neg * q| = |q| := by cases neg <;> simp [signQ]

/-- The multiple of a unit that a magnitude rounds to, with its sign. -/
theorem IsDropped.isRounded {rc : Rounding} {neg lost : Bool} {m n u : Nat} (h : IsDropped rc neg m n u lost) {c : ℚ} (pos : 0 < c) :
    IsRounded rc (u * c) (signQ neg * (m * c)) (signQ neg * (n * (u * c))) := by
  obtain ⟨-, below, above, mode⟩ := h
  have below : (n * u * c : ℚ) < m * c + u * c := by rw [← add_mul]; gcongr; exact_mod_cast below
  have above : (m * c : ℚ) < n * u * c + u * c := by rw [← add_mul]; gcongr; exact_mod_cast above
  have distance : |signQ neg * (n * (u * c)) - signQ neg * (m * c)| = |n * u * c - m * c| := by
    rw [← mul_sub, abs_signQ_mul, mul_assoc]
  refine ⟨?_, if neg then -n else n, ?_, ?_⟩
  · rw [distance, abs_lt]
    constructor <;> linarith
  · cases neg <;> simp [signQ]
  cases rc <;> dsimp only at mode ⊢
  case nearest =>
    obtain ⟨low, high, tie⟩ := mode
    have low : (2 * (n * u * c) : ℚ) ≤ 2 * (m * c) + u * c := by
      have : (2 * (n * u) : ℚ) ≤ 2 * m + u := by exact_mod_cast low
      nlinarith
    have high : (2 * (m * c) : ℚ) ≤ 2 * (n * u * c) + u * c := by
      have : (2 * m : ℚ) ≤ 2 * (n * u) + u := by exact_mod_cast high
      nlinarith
    rw [distance]
    refine ⟨?_, fun even => ?_⟩
    · have : |n * u * c - m * c| ≤ u * c / 2 := abs_le.2 ⟨by linarith, by linarith⟩
      linarith
    · have half : |n * u * c - m * c| = u * c / 2 := by linarith
      have dist := (abs_eq (by positivity)).1 half
      have n_even : n % 2 = 0 := tie <| dist.imp
        (fun h => by
          have : (2 * (n * u) : ℚ) * c = (2 * m + u) * c := by linarith
          exact_mod_cast mul_right_cancel₀ pos.ne' this)
        (fun h => by
          have : (2 * m : ℚ) * c = (2 * (n * u) + u) * c := by linarith
          exact_mod_cast mul_right_cancel₀ pos.ne' this)
      split <;> omega
  case down =>
    cases neg
    · have : (n * u : ℚ) ≤ m := by exact_mod_cast mode
      simp only [signQ, Bool.false_eq_true, if_false]
      nlinarith
    · have : (m : ℚ) ≤ n * u := by exact_mod_cast mode
      simp only [signQ, if_true]
      nlinarith
  case up =>
    cases neg
    · have : (m : ℚ) ≤ n * u := by exact_mod_cast mode
      simp only [signQ, Bool.false_eq_true, if_false]
      nlinarith
    · have : (n * u : ℚ) ≤ m := by exact_mod_cast mode
      simp only [signQ, if_true]
      nlinarith
  case chop =>
    have : (n * u : ℚ) ≤ m := by exact_mod_cast mode
    rw [abs_signQ_mul, abs_signQ_mul, abs_of_nonneg (by positivity), abs_of_nonneg (by positivity)]
    nlinarith

/-- A multiple of the unit is rounded to itself. -/
theorem isRounded_self (rc : Rounding) {u : ℚ} (pos : 0 < u) (k : ℤ) : IsRounded rc u (k * u) (k * u) := by
  refine ⟨by simpa using pos, k, rfl, ?_⟩
  cases rc
  case nearest =>
    refine ⟨by simpa using pos.le, fun tie => ?_⟩
    simp at tie
    exact absurd tie.symm pos.ne'
  case down | up | chop => exact le_rfl

/-! ## Numbers that round alike -/

/-- Two numbers are on the same side of every multiple of `u`. -/
def SameSide (u q q' : ℚ) : Prop := ∀ k : ℤ, (k * u ≤ q ↔ k * u ≤ q') ∧ (q ≤ k * u ↔ q' ≤ k * u)

namespace SameSide

variable {u q q' : ℚ}

theorem refl (u q : ℚ) : SameSide u q q := fun _ => ⟨Iff.rfl, Iff.rfl⟩

variable (h : SameSide u q q')
include h

theorem mul_lt (k : ℤ) : k * u < q ↔ k * u < q' := by rw [← not_le, ← not_le, (h k).2]
theorem lt_mul (k : ℤ) : q < k * u ↔ q' < k * u := by rw [← not_le, ← not_le, (h k).1]
theorem eq_mul (k : ℤ) : q = k * u ↔ q' = k * u := by rw [le_antisymm_iff, le_antisymm_iff, (h k).1, (h k).2]

/-- Of a multiple of `u` as well. -/
theorem mul_unit (j : ℤ) : SameSide (j * u) q q' := fun k => by
  rw [← mul_assoc, ← Int.cast_mul]
  exact h (k * j)

theorem abs : SameSide u |q| |q'| := fun k => by
  have zero := h 0
  rw [Int.cast_zero, zero_mul] at zero
  have opposite := h (-k)
  rw [Int.cast_neg, neg_mul] at opposite
  by_cases sign : 0 ≤ q
  · rw [abs_of_nonneg sign, abs_of_nonneg (zero.1.1 sign)]
    exact h k
  · have nonpos : q ≤ 0 := (not_le.1 sign).le
    rw [abs_of_nonpos nonpos, abs_of_nonpos (zero.2.1 nonpos), le_neg, neg_le, le_neg (a := k * u), neg_le (b := k * u)]
    exact ⟨opposite.2, opposite.1⟩

end SameSide

/-- A number on the same side of every multiple of half the unit rounds alike. -/
theorem IsRounded.of_sameSide {rc : Rounding} {u q q' r : ℚ} (rounded : IsRounded rc u q r) (h : SameSide (u / 2) q q') :
    IsRounded rc u q' r := by
  obtain ⟨near, k, rfl, mode⟩ := rounded
  have at_ (j : ℤ) : ((2 * k + j : ℤ) : ℚ) * (u / 2) = k * u + j * (u / 2) := by push_cast; ring
  have low := h.mul_lt (2 * k + (-2))
  have high := h.lt_mul (2 * k + 2)
  have whole : SameSide u q q' := by
    have := h.mul_unit 2
    rwa [Int.cast_ofNat, mul_div_cancel₀ _ two_ne_zero] at this
  rw [at_] at low high
  rw [abs_lt] at near
  refine ⟨abs_lt.2 ⟨?_, ?_⟩, k, rfl, ?_⟩
  · have := high.1 (by push_cast; linarith)
    push_cast at this
    linarith
  · have := low.1 (by push_cast; linarith)
    push_cast at this
    linarith
  cases rc <;> dsimp only at mode ⊢
  case nearest =>
    have below := h (2 * k + (-1))
    have above := h (2 * k + 1)
    have tieBelow := h.eq_mul (2 * k + (-1))
    have tieAbove := h.eq_mul (2 * k + 1)
    rw [at_] at below above tieBelow tieAbove
    push_cast at below above tieBelow tieAbove
    have within (x : ℚ) : 2 * |k * u - x| ≤ u ↔ k * u + -1 * (u / 2) ≤ x ∧ x ≤ k * u + 1 * (u / 2) := by
      rw [← le_div_iff₀' (by norm_num), abs_le]
      constructor <;> rintro ⟨l, r⟩ <;> constructor <;> linarith
    have tie (x : ℚ) (pos : 0 ≤ u) : 2 * |k * u - x| = u ↔ x = k * u + -1 * (u / 2) ∨ x = k * u + 1 * (u / 2) := by
      rw [mul_comm, ← eq_div_iff (by norm_num), abs_eq (by linarith)]
      refine or_congr ?_ ?_ <;> constructor <;> intro e <;> linarith
    have pos : 0 ≤ u := by linarith
    rw [within, below.1, above.2, ← within] at mode
    rw [tie q pos, tieBelow, tieAbove, ← tie q' pos] at mode
    exact mode
  case down => exact (whole k).1.1 mode
  case up => exact (whole k).2.1 mode
  case chop =>
    have pos : 0 ≤ u := by linarith
    rw [abs_mul, abs_of_nonneg pos, ← Int.cast_abs] at mode ⊢
    exact (whole.abs |k|).1.1 mode

end Sys2Proof.Machine

/-! SUPPORT. The rounded number an exact value delivers to a register (47_npx_8087_state.md R335, R338 to R340). -/

namespace Sys2Proof.Machine

/-! ## Exact values that stand for a number -/

/-- The exact value `x` rounds as the number `q` does, to 64 bits or fewer. -/
structure Exact.StandsFor (x : Exact) (q : ℚ) : Prop where
  nonzero : x.mant ≠ 0
  sign : x.neg = true ↔ q < 0
  log : Int.log 2 |q| = x.exponent
  side : ∀ lsb, x.exponent - 63 ≤ lsb → SameSide (2 ^ (lsb - 1)) x.toQ q

theorem Exact.standsFor_self {x : Exact} (h : x.mant ≠ 0) : x.StandsFor x.toQ :=
  ⟨h, (Exact.toQ_lt_zero h).symm, x.log_toQ h, fun _ _ => SameSide.refl _ _⟩

theorem Exact.toQ_signQ (x : Exact) : x.toQ = signQ x.neg * (x.mant * 2 ^ x.exp) := by rw [Exact.toQ_eq, mul_assoc]; rfl

/-- The rounded exact value. -/
def Exact.rounded (rc : Rounding) (x : Exact) (lsb : ℤ) : ℚ := signQ x.neg * ((x.round rc lsb).1 * 2 ^ lsb)

theorem Exact.isRounded_round (rc : Rounding) (x : Exact) (lsb : ℤ) :
    IsRounded rc (2 ^ lsb) x.toQ (x.rounded rc lsb) ∧ ((x.round rc lsb).2 = true ↔ x.rounded rc lsb ≠ x.toQ) := by
  rw [Exact.rounded, Exact.round]
  split
  next low =>
    have same : signQ x.neg * ((x.mant <<< (x.exp - lsb).toNat : ℕ) * 2 ^ lsb) = x.toQ := by
      rw [Exact.toQ_signQ, Nat.shiftLeft_eq, Exact.zpow_shift low]
      push_cast
      ring
    have multiple : x.toQ = ((if x.neg then -1 else 1) * ((x.mant <<< (x.exp - lsb).toNat : ℕ) : ℤ) : ℤ) * (2 : ℚ) ^ lsb := by
      rw [← same]
      generalize x.mant <<< (x.exp - lsb).toNat = n
      cases x.neg <;> simp [signQ]
    dsimp only
    rw [same]
    refine ⟨?_, by simp⟩
    rw [multiple]
    exact isRounded_self rc (two_zpow_pos lsb) _
  next high =>
    have dropped := isDropped_roundDrop rc x.neg x.mant (lsb - x.exp).toNat
    have pos := two_zpow_pos x.exp
    have unit : (2 : ℚ) ^ lsb = (2 ^ (lsb - x.exp).toNat : ℕ) * 2 ^ x.exp := by
      rw [Exact.zpow_shift (show x.exp ≤ lsb by omega)]
      push_cast
      rfl
    have same : (roundDrop rc x.neg x.mant (lsb - x.exp).toNat).2 = false ↔
        signQ x.neg * ((roundDrop rc x.neg x.mant (lsb - x.exp).toNat).1 * 2 ^ lsb) = x.toQ := by
      have factor : signQ x.neg ≠ 0 := by cases x.neg <;> simp [signQ]
      rw [dropped.exact, Exact.toQ_signQ, unit, mul_right_inj' factor, ← mul_assoc, mul_left_inj' pos.ne']
      norm_cast
    refine ⟨?_, ?_⟩
    · have rounded := dropped.isRounded pos
      rwa [← unit, ← Exact.toQ_signQ] at rounded
    · rw [← Bool.not_eq_false, same]

/-- It is the number rounded. -/
theorem Exact.StandsFor.round {x : Exact} {q : ℚ} (h : x.StandsFor q) (rc : Rounding) {lsb : ℤ} (le : x.exponent - 63 ≤ lsb) :
    IsRounded rc (2 ^ lsb) q (x.rounded rc lsb) ∧ ((x.round rc lsb).2 = true ↔ x.rounded rc lsb ≠ q) := by
  obtain ⟨rounded, lost⟩ := Exact.isRounded_round rc x lsb
  have half : (2 : ℚ) ^ lsb / 2 = 2 ^ (lsb - 1) := by rw [zpow_sub_one₀ two_ne_zero, div_eq_mul_inv]
  have side := h.side lsb le
  refine ⟨rounded.of_sameSide (half ▸ side), ?_⟩
  obtain ⟨-, k, multiple, -⟩ := rounded
  have twice : (k : ℚ) * 2 ^ lsb = (2 * k : ℤ) * 2 ^ (lsb - 1) := by
    rw [← half]
    push_cast
    ring
  rw [lost, multiple, twice, ne_comm, ne_comm (b := q), ne_eq, ne_eq, side.eq_mul]

section
variable {x : Exact} {q : ℚ} (h : x.StandsFor q)
include h

theorem Exact.StandsFor.ne_zero : q ≠ 0 := by
  have side := (h.side _ le_rfl).eq_mul 0
  rw [Int.cast_zero, zero_mul, Exact.toQ_eq_zero] at side
  exact mt side.2 h.nonzero

theorem Exact.StandsFor.le_abs : 2 ^ x.exponent ≤ |q| := by
  have := Int.zpow_log_le_self (b := 2) (by decide) (abs_pos.2 h.ne_zero)
  rw [h.log] at this
  exact_mod_cast this

theorem Exact.StandsFor.abs_lt : |q| < 2 ^ (x.exponent + 1) := by
  have := Int.lt_zpow_succ_log_self (b := 2) (by decide) |q|
  rw [h.log] at this
  exact_mod_cast this

theorem Exact.StandsFor.abs_lt_iff (e : ℤ) : |q| < 2 ^ e ↔ x.exponent < e := by
  constructor
  · intro lt
    exact (zpow_lt_zpow_iff_right₀ (by norm_num : (1 : ℚ) < 2)).1 (h.le_abs.trans_lt lt)
  · intro lt
    exact h.abs_lt.trans_le (zpow_le_zpow_right₀ (by norm_num) (by omega))

end

/-! ## The rounded magnitude -/

theorem Exact.abs_rounded (rc : Rounding) (x : Exact) (lsb : ℤ) : |x.rounded rc lsb| = (x.round rc lsb).1 * 2 ^ lsb := by
  have := two_zpow_pos lsb
  rw [Exact.rounded, abs_signQ_mul, abs_of_nonneg (by positivity)]

/-- Rounding does not pass a multiple of the unit. -/
theorem IsRounded.le_of_le {rc : Rounding} {u q r : ℚ} (h : IsRounded rc u q r) {n : Nat} (abs : |r| = n * u) (pos : 0 < u) {N : Nat}
    (le : N * u ≤ |q|) : N ≤ n := by
  have near : |q| - |r| < u := (abs_sub_abs_le_abs_sub q r).trans_lt (by rw [abs_sub_comm]; exact h.1)
  have : (N : ℚ) * u < (n + 1) * u := by linarith
  exact Nat.lt_succ_iff.1 (by exact_mod_cast lt_of_mul_lt_mul_right this pos.le)

theorem IsRounded.le_of_lt {rc : Rounding} {u q r : ℚ} (h : IsRounded rc u q r) {n : Nat} (abs : |r| = n * u) (pos : 0 < u) {N : Nat}
    (lt : |q| < N * u) : n ≤ N := by
  have near : |r| - |q| < u := (abs_sub_abs_le_abs_sub r q).trans_lt h.1
  have : (n : ℚ) * u < (N + 1) * u := by linarith
  exact Nat.lt_succ_iff.1 (by exact_mod_cast lt_of_mul_lt_mul_right this pos.le)

/-- A number of `p` bits, rounded to `p` bits, has `p` bits, or is the next power of 2. -/
theorem Exact.StandsFor.round_bounds {x : Exact} {q : ℚ} (h : x.StandsFor q) (rc : Rounding) {k : Nat} (le : k ≤ 63) :
    2 ^ k ≤ (x.round rc (x.exponent - k)).1 ∧ (x.round rc (x.exponent - k)).1 ≤ 2 ^ (k + 1) := by
  have rounded := (h.round rc (show x.exponent - 63 ≤ x.exponent - k by omega)).1
  have pos := two_zpow_pos (x.exponent - k)
  have scaled (i : Nat) : ((2 ^ i : ℕ) : ℚ) * 2 ^ (x.exponent - k) = 2 ^ (x.exponent - k + i) := by
    rw [Nat.cast_pow, Nat.cast_ofNat, ← zpow_natCast, ← zpow_add₀ two_ne_zero, Int.add_comm]
  refine ⟨rounded.le_of_le (Exact.abs_rounded rc x _) pos ?_, rounded.le_of_lt (Exact.abs_rounded rc x _) pos ?_⟩
  · rw [scaled, Int.sub_add_cancel]
    exact h.le_abs
  · rw [scaled, show x.exponent - k + (k + 1 : ℕ) = x.exponent + 1 by push_cast; ring]
    exact h.abs_lt

/-! ## Normal results, R335 -/

/-- A significand of 64 bits. -/
def IsSignificand (sig : Nat) : Prop := 2 ^ 63 ≤ sig ∧ sig < 2 ^ 64

/-- A magnitude of `p` bits, the carry to the next power of 2 included, as a significand with its exponent. -/
theorem significand_of_magnitude {p n : Nat} (hp : 1 ≤ p) (hp' : p ≤ 64) (low : 2 ^ (p - 1) ≤ n) (high : n ≤ 2 ^ p) (e : ℤ) :
    IsSignificand (if n = 2 ^ p then 2 ^ 63 else n <<< (64 - p))
      ∧ (n : ℚ) * 2 ^ (e - (p - 1 : ℕ))
        = ((if n = 2 ^ p then 2 ^ 63 else n <<< (64 - p) : ℕ) : ℚ) * 2 ^ (e + (if n = 2 ^ p then 1 else 0) - 63) := by
  split
  next carry =>
    subst carry
    refine ⟨⟨le_rfl, by decide⟩, ?_⟩
    rw [Nat.cast_pow, Nat.cast_pow, Nat.cast_ofNat, ← zpow_natCast, ← zpow_natCast, ← zpow_add₀ two_ne_zero, ← zpow_add₀ two_ne_zero]
    congr 1
    omega
  next fits =>
    rw [Nat.shiftLeft_eq]
    refine ⟨⟨?_, ?_⟩, ?_⟩
    · calc 2 ^ 63 = 2 ^ (p - 1) * 2 ^ (64 - p) := by rw [← pow_add]; congr 1; omega
        _ ≤ n * 2 ^ (64 - p) := Nat.mul_le_mul_right _ low
    · calc n * 2 ^ (64 - p) < 2 ^ p * 2 ^ (64 - p) := Nat.mul_lt_mul_of_pos_right (lt_of_le_of_ne high fits) (by positivity)
        _ = 2 ^ 64 := by rw [← pow_add]; congr 1; omega
    · push_cast
      rw [← zpow_natCast, mul_assoc, ← zpow_add₀ two_ne_zero]
      congr 2
      omega

/-- A significand with its exponent as a normal temporary real. -/
theorem realClass_packReal_significand (neg : Bool) {e : ℤ} {sig : Nat} (hs : IsSignificand sig) (low : -16383 < e) (high : e ≤ 16383) :
    realClass (packReal neg (e + 16383).toNat sig) = .normal
      ∧ realQ (packReal neg (e + 16383).toNat sig) = signQ neg * (sig * 2 ^ (e - 63)) := by
  have hf : (e + 16383).toNat < 2 ^ 15 := by omega
  refine ⟨?_, ?_⟩
  · rw [realClass_normal, realField_packReal neg hf hs.2, realSig_packReal neg hf hs.2]
    exact ⟨by omega, by omega, hs.1⟩
  · rw [realQ_packReal neg hf hs.2, mul_assoc, show ((max (e + 16383).toNat 1 : ℕ) : ℤ) - 16446 = e - 63 by omega]
    rfl

/-- The exponent of a significand. -/
theorem IsSignificand.le_iff {sig : Nat} (hs : IsSignificand sig) (i e : ℤ) : (2 : ℚ) ^ (i + 1) ≤ sig * 2 ^ (e - 63) ↔ i < e := by
  have log : Int.log 2 ((sig : ℚ) * 2 ^ (e - 63)) = e := by
    have pos := two_zpow_pos (e - 63)
    have unit (k : ℕ) : ((2 ^ k : ℕ) : ℚ) * 2 ^ (e - 63) = 2 ^ (e - 63 + k) := by
      rw [Nat.cast_pow, Nat.cast_ofNat, ← zpow_natCast, ← zpow_add₀ two_ne_zero, Int.add_comm]
    apply Exact.log_eq
    · have := unit 63
      rw [Nat.cast_ofNat, Int.sub_add_cancel] at this
      rw [← this]
      gcongr
      exact hs.1
    · have := unit 64
      rw [Nat.cast_ofNat, show e - 63 + 64 = e + 1 by ring] at this
      rw [← this]
      gcongr
      exact hs.2
  have pos : (0 : ℚ) < sig * 2 ^ (e - 63) := by
    have := two_zpow_pos (e - 63)
    have : 0 < sig := lt_of_lt_of_le (by decide) hs.1
    positivity
  have := Int.zpow_le_iff_le_log (b := 2) (x := i + 1) (by decide) pos
  rw [log, Int.add_one_le_iff] at this
  exact_mod_cast this

/-! ## Delivery, R338 to R340 -/

theorem precision_eq (cw : Word) : precision cw = if cw.getLsbD 8 then 64 else if cw.getLsbD 9 then 53 else 24 := by
  unfold precision
  cases cw.getLsbD 8 <;> cases cw.getLsbD 9 <;> rfl

theorem precision_bounds (cw : Word) : 1 ≤ precision cw ∧ precision cw ≤ 64 := by
  unfold precision
  split <;> decide

/-- One exception is masked by its bit of CW. -/
theorem isMasked_twoPow (cw : Word) {k : Nat} (hk : k < 6) : isMasked cw (BitVec.twoPow 6 k) = cw.getLsbD k := by
  have raised (i : Nat) : (BitVec.twoPow 6 k).getLsbD i = true ↔ i = k := by
    rw [BitVec.getLsbD_twoPow]
    simp [hk, eq_comm]
  have trap := unmasked_ne_zero cw (BitVec.twoPow 6 k)
  simp only [raised, ne_eq] at trap
  rw [isMasked, Bool.eq_iff_iff, beq_iff_eq, ← not_iff_not, trap, Bool.not_eq_true]
  exact ⟨fun ⟨i, _, same, mask⟩ => same ▸ mask, fun mask => ⟨k, hk, rfl, mask⟩⟩

theorem isMasked_exO (cw : Word) : isMasked cw exO = cw.getLsbD 3 := isMasked_twoPow cw (k := 3) (by decide)
theorem isMasked_exU (cw : Word) : isMasked cw exU = cw.getLsbD 4 := isMasked_twoPow cw (k := 4) (by decide)

/-- The precision exception of a delivery. -/
theorem when_exP {c : Bool} {P : Prop} [Decidable P] (h : c = true ↔ P) : when c exP = inexact (decide P) := by
  rw [show c = decide P by rw [Bool.eq_iff_iff, decide_eq_true_iff, h]]
  rfl

/-- A masked underflow: the number denormalized. -/
theorem denormalize_spec {x : Exact} {q : ℚ} (h : x.StandsFor q) (rc : Rounding) (small : x.exponent < -16382) :
    realNeg (denormalize rc x).1 = x.neg ∧ realField (denormalize rc x).1 ≤ 1
      ∧ IsRounded rc (2 ^ (-16445 : ℤ)) q (realQ (denormalize rc x).1) ∧ ((denormalize rc x).2 = true ↔ realQ (denormalize rc x).1 ≠ q) := by
  obtain ⟨rounded, lost⟩ := h.round rc (lsb := -16382 - 63) (by omega)
  have bound : (x.round rc (-16382 - 63)).1 ≤ 2 ^ 63 := by
    refine rounded.le_of_lt (Exact.abs_rounded rc x _) (two_zpow_pos _) ?_
    rw [Nat.cast_pow, Nat.cast_ofNat, ← zpow_natCast, ← zpow_add₀ two_ne_zero]
    exact (h.abs_lt_iff _).2 (by omega)
  rw [Exact.rounded] at rounded lost
  rw [denormalize]
  dsimp only
  generalize (x.round rc (-16382 - 63)).1 = n at rounded lost bound ⊢
  have hf : (if n < 2 ^ 63 then 0 else 1) ≤ 1 := by split <;> decide
  generalize (if n < 2 ^ 63 then 0 else 1) = field at hf ⊢
  have hs : n < 2 ^ 64 := by omega
  have number : realQ (packReal x.neg field n) = signQ x.neg * (n * 2 ^ (-16382 - 63 : ℤ)) := by
    rw [realQ_packReal x.neg (by omega) hs, mul_assoc, max_eq_right hf]
    rfl
  refine ⟨realNeg_packReal x.neg (by omega) hs, ?_, ?_, ?_⟩
  · rw [realField_packReal x.neg (by omega) hs]
    exact hf
  · rw [number]
    exact rounded
  · rw [number]
    exact lost

/-- Does a masked overflow stop at the largest number? -/
theorem overflowToInf_eq {x : Exact} {q : ℚ} (h : x.StandsFor q) (rc : Rounding) {α : Type} (a b : α) :
    (if overflowToInf rc x.neg = true then a else b) = if rc = .down ∧ 0 < q ∨ rc = .up ∧ q < 0 then b else a := by
  have neg := h.sign
  have pos : x.neg = false ↔ 0 < q := by
    rw [← Bool.not_eq_true, neg, not_lt, le_iff_lt_or_eq, or_iff_left h.ne_zero.symm]
  simp only [← neg, ← pos]
  cases rc <;> cases x.neg <;> rfl

theorem overflowFlags_eq (rc : Rounding) : overflowFlags rc = if rc = .down ∨ rc = .up then 0x20 else 0x28 := by cases rc <;> rfl

/-- A number rounded to a significand and its exponent is delivered. -/
theorem delivers_of_significand {cw : Word} {fr : TempReal} {p : Nat} {x : Exact} {q r : ℚ} {e : ℤ} {sig : Nat} {lost : Bool}
    (h : x.StandsFor q) (hs : IsSignificand sig) (rounded : IsRounded (rounding cw) (lastPlace p q) q r)
    (number : r = signQ x.neg * (sig * 2 ^ (e - 63))) (hlost : lost = true ↔ r ≠ q) (he : x.exponent ≤ e ∧ e ≤ x.exponent + 1)
    (range : -40958 ≤ x.exponent ∧ x.exponent ≤ 40958) :
    DeliversNumber cw p q (deliver cw fr x e sig lost (x.exponent < -16382) (2 ^ 64 - 1)) := by
  have neg : decide (q < 0) = x.neg := by rw [Bool.eq_iff_iff, decide_eq_true_iff, h.sign]
  have large : 2 ^ (16384 : ℤ) ≤ |r| ↔ 16383 < e := by
    have := two_zpow_pos (e - 63)
    rw [number, abs_signQ_mul, abs_of_nonneg (by positivity)]
    exact hs.le_iff 16383 e
  unfold DeliversNumber
  dsimp only
  rw [neg, deliver]
  dsimp only
  by_cases overflow : 16383 < e
  · rw [if_pos overflow, isMasked_exO]
    by_cases mask : cw.getLsbD 3 = true
    · rw [if_pos mask]
      refine ⟨rfl, r, rounded, ?_⟩
      rw [if_pos (large.2 overflow), if_pos mask]
      exact ⟨overflowToInf_eq h (rounding cw) _ _, overflowFlags_eq _⟩
    · rw [if_neg mask]
      refine ⟨rfl, r, rounded, ?_⟩
      rw [if_pos (large.2 overflow), if_neg mask, adjusted, if_pos (by omega)]
      obtain ⟨cls, value⟩ := realClass_packReal_significand x.neg hs (e := e - 24576) (by omega) (by omega)
      refine ⟨cls, ?_, by rw [when_exP hlost]; rfl⟩
      rw [value, number, mul_assoc, mul_assoc, ← zpow_add₀ two_ne_zero]
      congr 3
      ring
  rw [if_neg overflow]
  by_cases small : x.exponent < -16382
  · rw [if_pos (decide_eq_true small), isMasked_exU]
    by_cases mask : cw.getLsbD 4 = true
    · rw [if_pos mask]
      obtain ⟨sign, field, value, lost'⟩ := denormalize_spec h (rounding cw) small
      refine ⟨rfl, r, rounded, ?_⟩
      rw [if_neg (mt large.1 overflow), if_pos ((h.abs_lt_iff _).2 small), if_pos mask]
      refine ⟨sign, field, value, ?_⟩
      rw [when_exP (P := r ≠ q ∨ realQ (denormalize (rounding cw) x).1 ≠ q) (by rw [Bool.or_eq_true, hlost, lost'])]
      rfl
    · rw [if_neg mask]
      refine ⟨rfl, r, rounded, ?_⟩
      rw [if_neg (mt large.1 overflow), if_pos ((h.abs_lt_iff _).2 small), if_neg mask, adjusted, if_pos (by omega)]
      obtain ⟨cls, value⟩ := realClass_packReal_significand x.neg hs (e := e + 24576) (by omega) (by omega)
      refine ⟨cls, ?_, by rw [when_exP hlost]; rfl⟩
      rw [value, number, mul_assoc, mul_assoc, ← zpow_add₀ two_ne_zero]
      congr 3
      ring
  · rw [if_neg (by simpa using small)]
    obtain ⟨cls, value⟩ := realClass_packReal_significand x.neg hs (e := e) (by omega) (by omega)
    refine ⟨rfl, r, rounded, ?_⟩
    rw [if_neg (mt large.1 overflow), if_neg (mt (h.abs_lt_iff _).1 small)]
    exact ⟨cls, by rw [value, number], when_exP hlost⟩

theorem normalResult_eq (cw : Word) (fr : TempReal) (p : Nat) (x : Exact) :
    let n := x.round (rounding cw) (x.exponent - (p - 1 : ℕ))
    normalResult cw fr p x = deliver cw fr x (x.exponent + if n.1 = 2 ^ p then 1 else 0) (if n.1 = 2 ^ p then 2 ^ 63 else n.1 <<< (64 - p))
      n.2 (x.exponent < -16382) (2 ^ 64 - 1) := rfl

/-- The result of the generic arithmetic is the number rounded to `p` bits. -/
theorem normalResult_delivers {cw : Word} {fr : TempReal} {p : Nat} {x : Exact} {q : ℚ} (hp : 1 ≤ p ∧ p ≤ 64) (h : x.StandsFor q)
    (range : -40958 ≤ x.exponent ∧ x.exponent ≤ 40958) : DeliversNumber cw p q (normalResult cw fr p x) := by
  have place : lastPlace p q = 2 ^ (x.exponent - (p - 1 : ℕ)) := by
    rw [lastPlace, h.log]
    congr 1
    omega
  obtain ⟨rounded, lost⟩ := h.round (rounding cw) (show x.exponent - 63 ≤ x.exponent - (p - 1 : ℕ) by omega)
  obtain ⟨low, high⟩ := h.round_bounds (rounding cw) (show p - 1 ≤ 63 by omega)
  rw [Nat.sub_add_cancel hp.1] at high
  obtain ⟨significand, number⟩ := significand_of_magnitude hp.1 hp.2 low high x.exponent
  rw [← place] at rounded
  rw [normalResult_eq]
  exact delivers_of_significand h significand rounded (by rw [Exact.rounded, number]) lost ⟨by split <;> omega, by split <;> omega⟩ range

end Sys2Proof.Machine

/-! SUPPORT. The quotient to more bits than are kept, its lowest bit saying that more follow, rounds as the exact one
(47_npx_8087_state.md R332, R335). -/

namespace Sys2Proof.Machine

theorem SameSide.neg {u q q' : ℚ} (h : SameSide u q q') : SameSide u (-q) (-q') := fun k => by
  have opposite := h (-k)
  rw [Int.cast_neg, neg_mul] at opposite
  rw [le_neg, neg_le, le_neg (a := k * u), neg_le (b := k * u)]
  exact ⟨opposite.2, opposite.1⟩

theorem SameSide.signed {u q q' : ℚ} (h : SameSide u q q') (neg : Bool) : SameSide u (signQ neg * q) (signQ neg * q') := by
  cases neg
  · simpa [signQ] using h
  · simpa [signQ] using h.neg

theorem SameSide.scaled {u q q' c : ℚ} (h : SameSide u q q') (pos : 0 < c) : SameSide (u * c) (q * c) (q' * c) := fun k => by
  rw [← mul_assoc, mul_le_mul_iff_left₀ pos, mul_le_mul_iff_left₀ pos, mul_le_mul_iff_left₀ pos, mul_le_mul_iff_left₀ pos]
  exact h k

/-- An odd number and any number between its even neighbours. -/
theorem sameSide_odd (n : Nat) {z : ℚ} (low : 2 * n < z) (high : z < 2 * n + 2) : SameSide 2 ((2 * n + 1 : ℕ) : ℚ) z := fun k => by
  have half (a : ℤ) : (k : ℚ) * 2 ≤ a ↔ k * 2 ≤ a := by rw [← Int.cast_ofNat, ← Int.cast_mul, Int.cast_le]
  have half' (a : ℤ) : (a : ℚ) ≤ k * 2 ↔ a ≤ k * 2 := by rw [← Int.cast_ofNat (n := 2), ← Int.cast_mul, Int.cast_le]
  have eq : ((2 * n + 1 : ℕ) : ℚ) = ((2 * n + 1 : ℤ) : ℚ) := by push_cast; rfl
  rw [eq, half, half']
  obtain le | gt := le_or_gt k n
  · have le' : (k : ℚ) ≤ n := by exact_mod_cast le
    refine ⟨iff_of_true (by omega) (by linarith), iff_of_false (by omega) (by linarith)⟩
  · have gt' : (n : ℚ) + 1 ≤ k := by exact_mod_cast gt
    refine ⟨iff_of_false (by omega) (by linarith), iff_of_true (by omega) (by linarith)⟩

/-- A magnitude of more than 65 bits whose lowest bit says that more follow stands for the number with all of them. -/
theorem standsFor_sticky {x : Exact} {n : Nat} {z : ℚ} (mant : x.mant = 2 * n + 1) (large : 2 ^ 64 ≤ n) (low : 2 * n < z)
    (high : z < 2 * n + 2) : x.StandsFor (signQ x.neg * (z * 2 ^ x.exp)) := by
  have nonzero : x.mant ≠ 0 := by omega
  have pos : 0 < z := lt_of_le_of_lt (by positivity) low
  have unit := two_zpow_pos x.exp
  have bits : 65 ≤ x.mant.log2 := (Nat.le_log2 nonzero).2 (by omega)
  have even : 2 ^ x.mant.log2 = 2 * 2 ^ (x.mant.log2 - 1) := by rw [← Nat.pow_succ']; congr 1; omega
  refine ⟨nonzero, ?_, ?_, fun lsb hl => ?_⟩
  · have : 0 < z * 2 ^ x.exp := by positivity
    cases x.neg
    · simp [signQ, this.le]
    · simp [signQ, this]
  · have below : ((2 ^ x.mant.log2 : ℕ) : ℚ) ≤ z := by
      have : 2 ^ x.mant.log2 ≤ 2 * n := by have := Nat.log2_self_le nonzero; omega
      have : ((2 ^ x.mant.log2 : ℕ) : ℚ) ≤ ((2 * n : ℕ) : ℚ) := by exact_mod_cast this
      push_cast at this low ⊢
      linarith
    have above : z < ((2 ^ (x.mant.log2 + 1) : ℕ) : ℚ) := by
      have : 2 * n + 2 ≤ 2 ^ (x.mant.log2 + 1) := by have := Nat.lt_log2_self (n := x.mant); omega
      have : ((2 * n + 2 : ℕ) : ℚ) ≤ ((2 ^ (x.mant.log2 + 1) : ℕ) : ℚ) := by exact_mod_cast this
      push_cast at this ⊢
      linarith
    rw [abs_signQ_mul, abs_of_pos (by positivity), Exact.exponent]
    apply Exact.log_eq
    · rw [zpow_add₀ two_ne_zero, mul_comm, zpow_natCast]
      gcongr
      exact_mod_cast below
    · rw [add_assoc, zpow_add₀ two_ne_zero, mul_comm _ ((2 : ℚ) ^ ((x.mant.log2 : ℤ) + 1))]
      gcongr
      exact_mod_cast above
  · have side := ((sameSide_odd n low high).scaled unit).signed x.neg
    rw [← mant, ← Exact.toQ_signQ] at side
    have multiple : (2 : ℚ) ^ (lsb - 1) = ((2 ^ (lsb - 1 - (x.exp + 1)).toNat : ℤ) : ℚ) * (2 * 2 ^ x.exp) := by
      rw [Exact.exponent] at hl
      rw [Exact.zpow_shift (show x.exp + 1 ≤ lsb - 1 by omega), zpow_add_one₀ two_ne_zero]
      push_cast
      ring
    rw [multiple]
    exact side.mul_unit _

theorem signQ_xor (a b : Bool) : signQ (a != b) = signQ a * signQ b := by cases a <;> cases b <;> simp [signQ]

/-- The quotient of two numbers, in the model's units. -/
theorem Exact.toQ_div_toQ (x y : Exact) (hy : y.mant ≠ 0) :
    x.toQ / y.toQ = signQ (x.neg != y.neg) * (2 * (x.mant * 2 ^ 130 / y.mant) * 2 ^ (x.exp - y.exp - 131)) := by
  have den : (y.mant : ℚ) ≠ 0 := by exact_mod_cast hy
  have unit := (two_zpow_pos y.exp).ne'
  have power : (2 : ℚ) ^ (x.exp - y.exp - 131) = 2 ^ x.exp / 2 ^ y.exp / (2 * 2 ^ 130) := by
    rw [zpow_sub₀ two_ne_zero, zpow_sub₀ two_ne_zero]
    norm_num
  rw [Exact.toQ_signQ, Exact.toQ_signQ, signQ_xor, power]
  have sign : signQ y.neg ≠ 0 ∧ signQ y.neg * signQ y.neg = 1 := by cases y.neg <;> simp [signQ]
  field_simp
  rw [div_eq_iff sign.1, mul_assoc, sign.2, mul_one]

/-- It stands for the exact quotient. -/
theorem Exact.standsFor_div {x y : Exact} (hx : x.mant ≠ 0) (hy : y.mant ≠ 0) (small : y.mant < 2 ^ 64) :
    (x.div y).StandsFor (x.toQ / y.toQ) := by
  have den : (0 : ℚ) < y.mant := by exact_mod_cast Nat.pos_of_ne_zero hy
  have whole : y.mant * ((x.mant <<< 130) / y.mant) + (x.mant <<< 130) % y.mant = x.mant * 2 ^ 130 := by
    rw [Nat.div_add_mod, Nat.shiftLeft_eq]
  have rest : (x.mant <<< 130) % y.mant < y.mant := Nat.mod_lt _ (Nat.pos_of_ne_zero hy)
  have large : 2 ^ 64 ≤ (x.mant <<< 130) / y.mant := by
    rw [Nat.le_div_iff_mul_le (Nat.pos_of_ne_zero hy), Nat.shiftLeft_eq]
    calc 2 ^ 64 * y.mant ≤ 2 ^ 64 * 2 ^ 64 := Nat.mul_le_mul_left _ small.le
      _ ≤ 1 * 2 ^ 130 := by decide
      _ ≤ x.mant * 2 ^ 130 := Nat.mul_le_mul_right _ (Nat.pos_of_ne_zero hx)
  have parts : x.div y = ⟨x.neg != y.neg, 2 * ((x.mant <<< 130) / y.mant) + if (x.mant <<< 130) % y.mant = 0 then 0 else 1, x.exp - y.exp - 131⟩ :=
    rfl
  rw [Exact.toQ_div_toQ x y hy, parts]
  generalize (x.mant <<< 130) / y.mant = n at whole large ⊢
  generalize (x.mant <<< 130) % y.mant = r at whole rest ⊢
  have quotient : (x.mant * 2 ^ 130 / y.mant : ℚ) = n + r / y.mant := by
    rw [eq_comm, eq_div_iff den.ne', add_mul, div_mul_cancel₀ _ den.ne', mul_comm]
    exact_mod_cast whole
  rw [quotient]
  by_cases exact : r = 0
  · rw [exact, if_pos rfl, Nat.cast_zero, zero_div, Nat.add_zero, add_zero]
    have self := Exact.standsFor_self (x := ⟨x.neg != y.neg, 2 * n, x.exp - y.exp - 131⟩) (by dsimp only; omega)
    rw [Exact.toQ_signQ] at self
    dsimp only at self
    rwa [Nat.cast_mul, Nat.cast_ofNat] at self
  · have pos : (0 : ℚ) < r / y.mant := by
      have : (0 : ℚ) < r := by exact_mod_cast Nat.pos_of_ne_zero exact
      positivity
    have lt : (r / y.mant : ℚ) < 1 := by
      rw [div_lt_one den]
      exact_mod_cast rest
    rw [if_neg exact]
    exact standsFor_sticky (x := ⟨x.neg != y.neg, 2 * n + 1, x.exp - y.exp - 131⟩) rfl large (by linarith) (by linarith)

end Sys2Proof.Machine

/-! O47. Rounding, and what the arithmetic of the 8087 answers (47_npx_8087_state.md R322, R332 to R345). -/

namespace Sys2Proof.Machine

/-! ## From the core of an operation to its answer -/

section
variable {cw : Word} {fr : TempReal} {op : NpxArith} {int : Bool} {d s : NpxOperand}

/-- A NaN is the answer, or the larger of two (R344). -/
theorem arith_nan (masked : unmasked cw (when (d.den || s.den) exD) = 0) (nan : realClass d.v = .nan ∨ realClass s.v = .nan) :
    arith cw fr op int d s = ⟨pickNan d.v s.v, exI, 0⟩ := by
  unfold arith
  dsimp only
  rw [if_neg (not_not.2 masked), if_pos nan]

variable (masked : unmasked cw (when (d.den || s.den) exD) = 0) (hd : realClass d.v ≠ .nan) (hs : realClass s.v ≠ .nan)
include masked hd hs

theorem arith_invalid (h : coreArith cw op d s = .invalid) : arith cw fr op int d s = ⟨npxIndef, exI, 0⟩ := by
  unfold arith
  dsimp only
  rw [if_neg (not_not.2 masked), if_neg (not_or.2 ⟨hd, hs⟩), h]

theorem arith_zeroDivide {neg : Bool} (h : coreArith cw op d s = .zeroDivide neg) : arith cw fr op int d s = ⟨npxInf neg, exZ, 0⟩ := by
  unfold arith
  dsimp only
  rw [if_neg (not_not.2 masked), if_neg (not_or.2 ⟨hd, hs⟩), h]

theorem arith_special {v : TempReal} (h : coreArith cw op d s = .special v) :
    arith cw fr op int d s = ⟨v, when (d.den || s.den) exD, 0⟩ := by
  unfold arith
  dsimp only
  rw [if_neg (not_not.2 masked), if_neg (not_or.2 ⟨hd, hs⟩), h]

theorem arith_pseudoZero {neg lost : Bool} (h : coreArith cw op d s = .pseudoZero neg lost) :
    ∃ f, 1 ≤ f ∧ f ≤ 0x7FFE ∧ arith cw fr op int d s = ⟨packReal neg f 0, when (d.den || s.den) exD, when lost exP⟩ := by
  refine ⟨1 + Config.unnormalShift d.v s.v % 0x7FFE, by omega, by omega, ?_⟩
  unfold arith
  dsimp only
  rw [if_neg (not_not.2 masked), if_neg (not_or.2 ⟨hd, hs⟩), h]

theorem arith_normal {x : Exact} (h : coreArith cw op d s = .normal x) :
    arith cw fr op int d s = { normalResult cw fr (precision cw) x with before := when (d.den || s.den) exD } := by
  unfold arith
  dsimp only
  rw [if_neg (not_not.2 masked), if_neg (not_or.2 ⟨hd, hs⟩), h]

/-- An operation that is not invalid raises before it what its operands raise. -/
theorem arith_before (invalid : coreArith cw op d s ≠ .invalid) (zeroDivide : ∀ neg, coreArith cw op d s ≠ .zeroDivide neg) :
    (arith cw fr op int d s).before = when (d.den || s.den) exD := by
  unfold arith
  dsimp only
  rw [if_neg (not_not.2 masked), if_neg (not_or.2 ⟨hd, hs⟩)]
  generalize coreArith cw op d s = core at invalid zeroDivide
  cases core
  case invalid => exact absurd rfl invalid
  case zeroDivide neg => exact absurd rfl (zeroDivide neg)
  all_goals rfl

end

/-! ## Finite operands -/

/-- A number of the arithmetic proper: a normal or a zero. -/
def IsFinite (v : TempReal) : Prop := realClass v = .normal ∨ realClass v = .zero

theorem IsFinite.ne_nan {v : TempReal} (h : IsFinite v) : realClass v ≠ .nan := by obtain h | h := h <;> simp [h]
theorem IsFinite.ne_infinity {v : TempReal} (h : IsFinite v) : realClass v ≠ .infinity := by obtain h | h := h <;> simp [h]
theorem IsFinite.ne_unnormal {v : TempReal} (h : IsFinite v) : realClass v ≠ .unnormal := by obtain h | h := h <;> simp [h]

theorem realQ_ne_zero_of_normal {v : TempReal} (h : realClass v = .normal) : realQ v ≠ 0 :=
  mt (realQ_eq_zero v).1 (realSig_ne_zero_of_normal h)

theorem IsFinite.realQ_ne_zero {v : TempReal} (h : IsFinite v) : realQ v ≠ 0 ↔ realClass v = .normal := by
  obtain h | h := h
  · exact iff_of_true (realQ_ne_zero_of_normal h) h
  · exact iff_of_false (not_not.2 (realQ_of_zero h)) (by simp [h])

theorem IsFinite.realQ_eq_zero {v : TempReal} (h : IsFinite v) : realQ v = 0 ↔ realClass v = .zero := by
  obtain h | h := h
  · exact iff_of_false (realQ_ne_zero_of_normal h) (by simp [h])
  · exact iff_of_true (realQ_of_zero h) h

/-- The range of the normal numbers. -/
theorem abs_realQ_bounds {v : TempReal} (h : realClass v = .normal) : 2 ^ (-16382 : ℤ) ≤ |realQ v| ∧ |realQ v| < 2 ^ (16384 : ℤ) := by
  obtain ⟨field, top, sig⟩ := realClass_normal.1 h
  have less := realField_lt v
  have one : (1 : ℚ) < 2 := by norm_num
  have log : (realSig v).log2 = 63 :=
    (Nat.log2_eq_iff (by omega)).2 ⟨sig, realSig_lt v⟩
  have exponent : (realValue v).exponent = (realField v : ℤ) - 16383 := by
    rw [Exact.exponent, realValue]
    dsimp only
    omega
  rw [← toQ_realValue]
  constructor
  · exact (zpow_le_zpow_right₀ one.le (by omega)).trans ((realValue v).zpow_exponent_le (by rw [realValue]; exact realSig_ne_zero_of_normal h))
  · exact (realValue v).lt_zpow_exponent.trans_le (zpow_le_zpow_right₀ one.le (by omega))

theorem realValue_exp_bounds (v : TempReal) : -16445 ≤ (realValue v).exp := by
  rw [realValue]
  dsimp only
  omega

/-- The value of a normal is that number. -/
theorem standsFor_realValue {v : TempReal} (h : realClass v = .normal) : (realValue v).StandsFor (realQ v) := by
  rw [← toQ_realValue]
  exact Exact.standsFor_self (realSig_ne_zero_of_normal h)

/-- The exponents the deliveries of the arithmetic see. -/
theorem Exact.StandsFor.range {x : Exact} {q : ℚ} (h : x.StandsFor q) (low : 2 ^ (-40958 : ℤ) ≤ |q|) (high : |q| < 2 ^ (40959 : ℤ)) :
    -40958 ≤ x.exponent ∧ x.exponent ≤ 40958 := by
  have := (h.abs_lt_iff 40959).1 high
  have := mt (h.abs_lt_iff (-40958)).2 (not_lt.2 low)
  omega

/-- The answer to an operation on numbers: its core is an exact value that stands for the result. -/
theorem delivers_of_core {cw : Word} {fr : TempReal} {op : NpxArith} {int : Bool} {d s : TempReal} (hd : realClass d ≠ .nan)
    (hs : realClass s ≠ .nan) {x : Exact} {q : ℚ} (core : coreArith cw op ⟨d, false⟩ ⟨s, false⟩ = .normal x) (h : x.StandsFor q)
    (range : -40958 ≤ x.exponent ∧ x.exponent ≤ 40958) :
    DeliversNumber cw (precision cw) q (arith cw fr op int ⟨d, false⟩ ⟨s, false⟩) := by
  have delivers := normalResult_delivers (cw := cw) (fr := fr) (precision_bounds cw) h range
  rw [arith_normal (unmasked_zero cw) hd hs core]
  exact ⟨rfl, delivers.2⟩

/-! ## Sums -/

/-- The sign of an operand changed or kept. -/
def withSign (neg : Bool) (v : TempReal) : TempReal := packReal neg (realField v) (realSig v)

theorem realNeg_withSign (neg : Bool) (v : TempReal) : realNeg (withSign neg v) = neg := realNeg_packReal neg (realField_lt v) (realSig_lt v)

theorem withSign_self (v : TempReal) : withSign (realNeg v) v = v := packReal_self v

theorem realClass_withSign (neg : Bool) (v : TempReal) : realClass (withSign neg v) = realClass v := by
  unfold realClass withSign
  rw [realField_packReal neg (realField_lt v) (realSig_lt v), realSig_packReal neg (realField_lt v) (realSig_lt v)]

theorem realQ_withSign (neg : Bool) (v : TempReal) : realQ (withSign neg v) = (if neg = realNeg v then 1 else -1) * realQ v := by
  rw [withSign, realQ_packReal neg (realField_lt v) (realSig_lt v), realQ]
  cases neg <;> cases realNeg v <;> simp

theorem zeroSign_eq (cw : Word) : zeroSign cw = decide (rounding cw = .down) := by
  unfold zeroSign
  cases rounding cw <;> rfl

/-- An operation comes to the number `q`, or if that is 0 to a zero with the sign `neg`. -/
def NpxCore.IsNumber (c : NpxCore) (q : ℚ) (neg : Bool) : Prop :=
  if q ≠ 0 then ∃ x, c = .normal x ∧ x.StandsFor q ∧ -40958 ≤ x.exponent ∧ x.exponent ≤ 40958 else c = .special (npxZero neg)

/-- An operand kept as it is. -/
theorem isNumber_keepOperand {v : TempReal} (h : realClass v = .normal) (neg : Bool) : (keepOperand v).IsNumber (realQ v) neg := by
  obtain ⟨low, high⟩ := abs_realQ_bounds h
  have one : (1 : ℚ) ≤ 2 := by norm_num
  have value := standsFor_realValue h
  rw [NpxCore.IsNumber, if_pos (realQ_ne_zero_of_normal h), keepOperand, if_neg (by simp [h])]
  exact ⟨_, rfl, value, value.range ((zpow_le_zpow_right₀ one (by decide)).trans low) (high.trans_le (zpow_le_zpow_right₀ one (by decide)))⟩

theorem isZeroish_of_zero {v : TempReal} (h : realClass v = .zero) : isZeroish v = true := by rw [isZeroish, h]; rfl
theorem isZeroish_of_normal {v : TempReal} (h : realClass v = .normal) : isZeroish v = false := by rw [isZeroish, h]; rfl

theorem le_exp_add (x y : Exact) {e : ℤ} (hx : e ≤ x.exp) (hy : e ≤ y.exp) : e ≤ (x.add y).exp := by
  unfold Exact.add
  split
  · exact hx
  · exact hy

/-- The sum of two normals. -/
theorem isNumber_add {a b : TempReal} (ha : realClass a = .normal) (hb : realClass b = .normal) (cw : Word) :
    (coreAdd cw a b).IsNumber (realQ a + realQ b) (zeroSign cw) := by
  have mant := Exact.toQ_eq_zero ((realValue a).add (realValue b))
  rw [Exact.toQ_add, toQ_realValue, toQ_realValue] at mant
  unfold coreAdd NpxCore.IsNumber
  simp only [ha, hb, isZeroish_of_normal, reduceCtorEq, false_and, if_false, Bool.false_eq_true]
  split
  next nonzero =>
    have stands := Exact.standsFor_self (mt mant.2 nonzero)
    rw [Exact.toQ_add, toQ_realValue, toQ_realValue] at stands
    have low := le_exp_add _ _ (realValue_exp_bounds a) (realValue_exp_bounds b)
    have high : |realQ a + realQ b| < 2 ^ (16385 : ℤ) := by
      have := abs_add_le (realQ a) (realQ b)
      have := (abs_realQ_bounds ha).2
      have := (abs_realQ_bounds hb).2
      rw [show (16385 : ℤ) = 16384 + 1 by norm_num, zpow_add_one₀ two_ne_zero]
      linarith
    have below := (stands.abs_lt_iff 16385).1 high
    refine ⟨_, ?_, stands, ?_, by omega⟩
    · rw [if_neg (mt mant.2 nonzero)]
      cases (realValue a).absCompare (realValue b) <;> rfl
    · rw [Exact.exponent]
      omega
  next zero => rw [if_pos (mant.1 (not_not.1 zero))]

/-- The sum of two finite numbers. -/
theorem isNumber_coreAdd {a b : TempReal} (ha : IsFinite a) (hb : IsFinite b) (cw : Word) : (coreAdd cw a b).IsNumber (realQ a + realQ b)
    (if realClass a = .zero ∧ realClass b = .zero ∧ realNeg a = realNeg b then realNeg b else zeroSign cw) := by
  obtain normalA | zeroA := ha <;> obtain normalB | zeroB := hb
  · rw [if_neg (by simp [normalA])]
    exact isNumber_add normalA normalB cw
  · have core : coreAdd cw a b = keepOperand a := by
      unfold coreAdd
      simp [normalA, zeroB, isZeroish_of_normal]
    rw [core, realQ_of_zero zeroB, add_zero]
    exact isNumber_keepOperand normalA _
  · have core : coreAdd cw a b = keepOperand b := by
      unfold coreAdd
      simp [zeroA, normalB, isZeroish_of_normal]
    rw [core, realQ_of_zero zeroA, zero_add]
    exact isNumber_keepOperand normalB _
  · rw [realQ_of_zero zeroA, realQ_of_zero zeroB, NpxCore.IsNumber, if_neg (by simp)]
    unfold coreAdd
    simp only [zeroA, zeroB, isZeroish_of_zero, reduceCtorEq, and_self, true_and, if_false, if_true]
    congr 2
    split
    next same => rw [same]
    next => rfl

/-! ## Products and quotients -/

/-- The product of two finite numbers. -/
theorem isNumber_coreMul {a b : TempReal} (ha : IsFinite a) (hb : IsFinite b) :
    (coreMul a b).IsNumber (realQ a * realQ b) (realNeg a != realNeg b) := by
  have infinity : ¬(realClass a = .infinity ∨ realClass b = .infinity) := not_or.2 ⟨ha.ne_infinity, hb.ne_infinity⟩
  have zero : realQ a * realQ b = 0 ↔ realClass a = .zero ∨ realClass b = .zero := by rw [mul_eq_zero, ha.realQ_eq_zero, hb.realQ_eq_zero]
  unfold coreMul NpxCore.IsNumber
  dsimp only
  rw [if_neg infinity]
  split
  next nonzero =>
    have mant : ((realValue a).mul (realValue b)).mant ≠ 0 := by
      rw [ne_eq, ← Exact.toQ_eq_zero, Exact.toQ_mul, toQ_realValue, toQ_realValue]
      exact nonzero
    have stands := Exact.standsFor_self mant
    rw [Exact.toQ_mul, toQ_realValue, toQ_realValue] at stands
    have normalA : realClass a = .normal := ha.resolve_right fun h => nonzero (zero.2 (.inl h))
    have normalB : realClass b = .normal := hb.resolve_right fun h => nonzero (zero.2 (.inr h))
    obtain ⟨lowA, highA⟩ := abs_realQ_bounds normalA
    obtain ⟨lowB, highB⟩ := abs_realQ_bounds normalB
    refine ⟨_, ?_, stands, stands.range ?_ ?_⟩
    · simp [normalA, normalB, mant]
    · rw [abs_mul]
      calc (2 : ℚ) ^ (-40958 : ℤ) ≤ 2 ^ (-16382 + -16382 : ℤ) := zpow_le_zpow_right₀ (by norm_num) (by decide)
        _ = 2 ^ (-16382 : ℤ) * 2 ^ (-16382 : ℤ) := zpow_add₀ two_ne_zero _ _
        _ ≤ |realQ a| * |realQ b| := mul_le_mul lowA lowB (two_zpow_pos _).le (abs_nonneg _)
    · rw [abs_mul]
      calc |realQ a| * |realQ b| < 2 ^ (16384 : ℤ) * 2 ^ (16384 : ℤ) := mul_lt_mul'' highA highB (abs_nonneg _) (abs_nonneg _)
        _ = 2 ^ (16384 + 16384 : ℤ) := (zpow_add₀ two_ne_zero _ _).symm
        _ ≤ 2 ^ (40959 : ℤ) := zpow_le_zpow_right₀ (by norm_num) (by decide)
  next isZero => rw [if_pos (zero.1 (not_not.1 isZero))]

/-- The quotient of two finite numbers by one that is not 0. -/
theorem isNumber_coreDiv {a b : TempReal} (ha : IsFinite a) (hb : realClass b = .normal) :
    (coreDiv ⟨a, false⟩ ⟨b, false⟩).IsNumber (realQ a / realQ b) (realNeg a != realNeg b) := by
  have nonzeroB := realQ_ne_zero_of_normal hb
  unfold coreDiv NpxCore.IsNumber
  simp only [hb, ha.ne_infinity, ha.ne_unnormal, reduceCtorEq, or_false, and_false, if_false, Bool.false_eq_true]
  obtain normalA | zeroA := ha
  · have nonzeroA := realQ_ne_zero_of_normal normalA
    have stands := Exact.standsFor_div (x := realValue a) (y := realValue b) (realSig_ne_zero_of_normal normalA)
      (realSig_ne_zero_of_normal hb) (realSig_lt b)
    rw [toQ_realValue, toQ_realValue] at stands
    obtain ⟨lowA, highA⟩ := abs_realQ_bounds normalA
    obtain ⟨lowB, highB⟩ := abs_realQ_bounds hb
    have posB : 0 < |realQ b| := abs_pos.2 nonzeroB
    rw [if_pos (div_ne_zero nonzeroA nonzeroB), if_neg (by simp [normalA]), if_neg (realSig_ne_zero_of_normal normalA)]
    refine ⟨_, rfl, stands, stands.range ?_ ?_⟩
    · rw [abs_div, le_div_iff₀ posB]
      calc (2 : ℚ) ^ (-40958 : ℤ) * |realQ b| ≤ 2 ^ (-40958 : ℤ) * 2 ^ (16384 : ℤ) := by gcongr
        _ = 2 ^ (-40958 + 16384 : ℤ) := (zpow_add₀ two_ne_zero _ _).symm
        _ ≤ 2 ^ (-16382 : ℤ) := zpow_le_zpow_right₀ (by norm_num) (by decide)
        _ ≤ |realQ a| := lowA
    · rw [abs_div, div_lt_iff₀ posB]
      calc |realQ a| < 2 ^ (16384 : ℤ) := highA
        _ ≤ 2 ^ (40959 + -16382 : ℤ) := zpow_le_zpow_right₀ (by norm_num) (by decide)
        _ = 2 ^ (40959 : ℤ) * 2 ^ (-16382 : ℤ) := zpow_add₀ two_ne_zero _ _
        _ ≤ 2 ^ (40959 : ℤ) * |realQ b| := by gcongr
  · rw [realQ_of_zero zeroA, zero_div, if_neg (not_not.2 rfl), if_pos zeroA]

/-- The answer to an operation that comes to a number. -/
theorem arith_isNumber {cw : Word} {fr : TempReal} {op : NpxArith} {int : Bool} {d s : TempReal} (hd : realClass d ≠ .nan)
    (hs : realClass s ≠ .nan) {q : ℚ} {neg : Bool} (h : (coreArith cw op ⟨d, false⟩ ⟨s, false⟩).IsNumber q neg) :
    if q ≠ 0 then DeliversNumber cw (precision cw) q (arith cw fr op int ⟨d, false⟩ ⟨s, false⟩)
    else arith cw fr op int ⟨d, false⟩ ⟨s, false⟩ = ⟨npxZero neg, 0, 0⟩ := by
  unfold NpxCore.IsNumber at h
  split
  next nonzero =>
    rw [if_pos nonzero] at h
    obtain ⟨x, core, stands, range⟩ := h
    exact delivers_of_core hd hs core stands range
  next zero =>
    rw [if_neg zero] at h
    exact arith_special (unmasked_zero cw) hd hs h

end Sys2Proof.Machine

/-! O47, continued: special operands, and the obligation. -/

namespace Sys2Proof.Machine

/-! ## Sums of infinities, R343 -/

section
variable {a b : TempReal} (cw : Word)

theorem coreAdd_infinity_left (ha : realClass a = .infinity) (hb : realClass b ≠ .infinity) : coreAdd cw a b = .special (npxInf (realNeg a)) := by
  unfold coreAdd
  dsimp only
  rw [if_neg (fun h => hb h.2), if_pos ha]

theorem coreAdd_infinity_right (ha : realClass a ≠ .infinity) (hb : realClass b = .infinity) : coreAdd cw a b = .special (npxInf (realNeg b)) := by
  unfold coreAdd
  dsimp only
  rw [if_neg (fun h => ha h.1), if_neg ha, if_pos hb]

theorem coreAdd_infinities (ha : realClass a = .infinity) (hb : realClass b = .infinity) : coreAdd cw a b =
    if affine cw = true ∧ realNeg a = realNeg b then .special (npxInf (realNeg a)) else .invalid := by
  unfold coreAdd
  dsimp only
  rw [if_pos ⟨ha, hb⟩]

/-- Without infinities a sum is not invalid. -/
theorem coreAdd_valid (ha : realClass a ≠ .infinity) (hb : realClass b ≠ .infinity) :
    coreAdd cw a b ≠ .invalid ∧ ∀ neg, coreAdd cw a b ≠ .zeroDivide neg := by
  have kept (v : TempReal) : keepOperand v ≠ .invalid ∧ ∀ neg, keepOperand v ≠ .zeroDivide neg := by
    unfold keepOperand
    split <;> simp
  unfold coreAdd
  dsimp only
  rw [if_neg (fun h => ha h.1), if_neg ha, if_neg hb]
  split
  · split <;> simp
  split
  · exact kept b
  split
  · exact kept a
  split
  · simp
  cases (realValue a).absCompare (realValue b) <;> dsimp only <;> split <;> simp

end

/-- The sum that one of three operations forms. -/
theorem coreArith_sums (cw : Word) (d s : NpxOperand) :
    coreArith cw .add d s = coreAdd cw d.v (withSign (realNeg s.v) s.v) ∧ coreArith cw .sub d s = coreAdd cw d.v (withSign (!realNeg s.v) s.v)
      ∧ coreArith cw .subr d s = coreAdd cw s.v (withSign (!realNeg d.v) d.v) := by
  rw [withSign_self]
  exact ⟨rfl, rfl, rfl⟩

section
variable {cw : Word} {fr : TempReal} {op : NpxArith} {int : Bool} {d s : TempReal}

/-- The sum of two finite numbers, the second with a sign of its own. -/
theorem arith_sum (hd : IsFinite d) (hs : IsFinite s) {x y : TempReal} (hx : IsFinite x) (hy : IsFinite y) {yNeg : Bool}
    (core : coreArith cw op ⟨d, false⟩ ⟨s, false⟩ = coreAdd cw x (withSign yNeg y)) :
    let q := realQ x + (if yNeg = realNeg y then 1 else -1) * realQ y
    if q ≠ 0 then DeliversNumber cw (precision cw) q (arith cw fr op int ⟨d, false⟩ ⟨s, false⟩)
    else arith cw fr op int ⟨d, false⟩ ⟨s, false⟩
      = ⟨npxZero (if realClass x = .zero ∧ realClass y = .zero ∧ realNeg x = yNeg then yNeg else decide (rounding cw = .down)), 0, 0⟩ := by
  have hy' : IsFinite (withSign yNeg y) := by
    rw [IsFinite, realClass_withSign]
    exact hy
  have number := isNumber_coreAdd hx hy' cw
  rw [← core, realQ_withSign, realClass_withSign, realNeg_withSign, zeroSign_eq] at number
  exact arith_isNumber hd.ne_nan hs.ne_nan number

/-- A sum with an infinity: the core is the sum of two operands with these signs. -/
structure IsSumOf (cw : Word) (op : NpxArith) (d s : TempReal) (dNeg sNeg : Bool) : Prop where
  left : realClass d = .infinity → realClass s ≠ .infinity → coreArith cw op ⟨d, false⟩ ⟨s, false⟩ = .special (npxInf dNeg)
  right : realClass d ≠ .infinity → realClass s = .infinity → coreArith cw op ⟨d, false⟩ ⟨s, false⟩ = .special (npxInf sNeg)
  both : realClass d = .infinity → realClass s = .infinity →
    coreArith cw op ⟨d, false⟩ ⟨s, false⟩ = if affine cw = true ∧ dNeg = sNeg then .special (npxInf dNeg) else .invalid

theorem isSumOf_sums (cw : Word) (d s : TempReal) :
    ∀ p ∈ [(NpxArith.add, realNeg d, realNeg s), (.sub, realNeg d, !realNeg s), (.subr, !realNeg d, realNeg s)],
      IsSumOf cw p.1 d s p.2.1 p.2.2 := by
  have cls := realClass_withSign
  have neg := realNeg_withSign
  obtain ⟨add, sub, subr⟩ := coreArith_sums cw ⟨d, false⟩ ⟨s, false⟩
  dsimp only at add sub subr
  have straight {op : NpxArith} {sNeg : Bool} (core : coreArith cw op ⟨d, false⟩ ⟨s, false⟩ = coreAdd cw d (withSign sNeg s)) :
      IsSumOf cw op d s (realNeg d) sNeg := by
    constructor <;> intro hd hs <;> rw [core]
    · exact coreAdd_infinity_left cw hd (by rwa [cls])
    · rw [coreAdd_infinity_right cw hd (by rwa [cls]), neg]
    · rw [coreAdd_infinities cw hd (by rwa [cls]), neg]
  intro p hp
  simp only [List.mem_cons, List.not_mem_nil, or_false] at hp
  obtain rfl | rfl | rfl := hp
  · exact straight add
  · exact straight sub
  · constructor <;> intro hd hs <;> refine subr.trans ?_
    · rw [coreAdd_infinity_right cw hs ((cls _ d).trans hd), neg]
    · exact coreAdd_infinity_left cw hs (by rwa [cls])
    · rw [coreAdd_infinities cw hs ((cls _ d).trans hd), neg]
      by_cases same : realNeg s = !realNeg d
      · rw [same]
      · rw [if_neg (fun h => same h.2), if_neg (fun h => same h.2.symm)]

/-! ## Quotients -/

/-- The dividend `x` and the divisor `y` of one of the two divisions. -/
structure IsQuotientOf (cw : Word) (op : NpxArith) (d s x y : TempReal) : Prop where
  core : coreArith cw op ⟨d, false⟩ ⟨s, false⟩ = coreDiv ⟨x, false⟩ ⟨y, false⟩
  signs : (realNeg d != realNeg s) = (realNeg x != realNeg y)
  nan : realClass x ≠ .nan → realClass y ≠ .nan → realClass d ≠ .nan ∧ realClass s ≠ .nan

theorem isQuotientOf_div (cw : Word) (d s : TempReal) : IsQuotientOf cw .div d s d s := ⟨rfl, rfl, fun hx hy => ⟨hx, hy⟩⟩
theorem isQuotientOf_divr (cw : Word) (d s : TempReal) : IsQuotientOf cw .divr d s s d := ⟨rfl, bne_comm, fun hx hy => ⟨hy, hx⟩⟩

section
variable {x y : TempReal} (h : IsQuotientOf cw op d s x y)
include h

theorem IsQuotientOf.invalid (hx : realClass x ≠ .nan) (hy : realClass y ≠ .nan) (core : coreDiv ⟨x, false⟩ ⟨y, false⟩ = .invalid) :
    arith cw fr op int ⟨d, false⟩ ⟨s, false⟩ = ⟨npxIndef, 1, 0⟩ :=
  arith_invalid (unmasked_zero cw) (h.nan hx hy).1 (h.nan hx hy).2 (h.core.trans core)

theorem IsQuotientOf.special (hx : realClass x ≠ .nan) (hy : realClass y ≠ .nan) {v : TempReal}
    (core : coreDiv ⟨x, false⟩ ⟨y, false⟩ = .special v) : arith cw fr op int ⟨d, false⟩ ⟨s, false⟩ = ⟨v, 0, 0⟩ :=
  arith_special (unmasked_zero cw) (h.nan hx hy).1 (h.nan hx hy).2 (h.core.trans core)

/-- The answer to a division. -/
theorem IsQuotientOf.answers :
    let ans := arith cw fr op int ⟨d, false⟩ ⟨s, false⟩
    let signs := realNeg d != realNeg s
    (IsFinite x → IsFinite y →
      if realQ y ≠ 0 then
        (if realQ x ≠ 0 then DeliversNumber cw (precision cw) (realQ x / realQ y) ans else ans = ⟨npxZero signs, 0, 0⟩)
      else if realQ x ≠ 0 then ans = ⟨npxInf signs, 4, 0⟩ else ans = ⟨npxIndef, 1, 0⟩)
    ∧ (realClass x = .infinity → realClass y = .infinity → ans = ⟨npxIndef, 1, 0⟩)
    ∧ (realClass x = .infinity → IsFinite y → ans = ⟨npxInf signs, 0, 0⟩)
    ∧ (IsFinite x → realClass y = .infinity → ans = ⟨npxZero signs, 0, 0⟩)
    ∧ (realClass x ≠ .nan → realClass y = .unnormal → ans = ⟨npxIndef, 1, 0⟩) := by
  intro ans signs
  rw [show signs = (realNeg x != realNeg y) from h.signs]
  refine ⟨fun hx hy => ?_, fun hx hy => ?_, fun hx hy => ?_, fun hx hy => ?_, fun hx hy => ?_⟩
  · obtain ⟨hd, hs⟩ := h.nan hx.ne_nan hy.ne_nan
    split
    next nonzero =>
      have number := arith_isNumber (fr := fr) (int := int) hd hs (h.core ▸ isNumber_coreDiv hx (hy.realQ_ne_zero.1 nonzero))
      simp only [ne_eq, div_eq_zero_iff, nonzero, or_false] at number
      exact number
    next zero =>
      have zeroY := hy.realQ_eq_zero.1 (not_not.1 zero)
      split
      next nonzero =>
        refine arith_zeroDivide (unmasked_zero cw) hd hs (h.core.trans ?_)
        unfold coreDiv
        simp [zeroY, hx.realQ_ne_zero.1 nonzero]
      next zero' =>
        refine h.invalid hx.ne_nan hy.ne_nan ?_
        unfold coreDiv
        simp [zeroY, hx.realQ_eq_zero.1 (not_not.1 zero')]
  · refine h.invalid (by simp [hx]) (by simp [hy]) ?_
    unfold coreDiv
    simp [hx, hy]
  · refine h.special (by simp [hx]) hy.ne_nan ?_
    unfold coreDiv
    simp [hx, hy.ne_infinity, hy.ne_unnormal]
  · refine h.special hx.ne_nan (by simp [hy]) ?_
    unfold coreDiv
    simp [hy, hx.ne_infinity]
  · refine h.invalid hx (by simp [hy]) ?_
    unfold coreDiv
    simp [hy]

end

/-! ## Products -/

theorem arith_mul_infinity (h : realClass d = .infinity ∨ realClass s = .infinity) (hd : realClass d ≠ .nan) (hs : realClass s ≠ .nan) :
    arith cw fr .mul int ⟨d, false⟩ ⟨s, false⟩
      = if realClass d = .zero ∨ realClass s = .zero then ⟨npxIndef, 1, 0⟩ else ⟨npxInf (realNeg d != realNeg s), 0, 0⟩ := by
  have core : coreArith cw .mul ⟨d, false⟩ ⟨s, false⟩ =
      if realClass d = .zero ∨ realClass s = .zero then .invalid else .special (npxInf (realNeg d != realNeg s)) := by
    rw [coreArith, coreMul]
    exact if_pos h
  split
  next zero => exact arith_invalid (unmasked_zero cw) hd hs (core.trans (if_pos zero))
  next nonzero => exact arith_special (unmasked_zero cw) hd hs (core.trans (if_neg nonzero))

/-- The answer is a pseudo-zero. -/
def IsPseudoZero (cw : Word) (fr : TempReal) (int : Bool) (d s : TempReal) (e : BitVec 6) : Prop :=
  ∃ f, 1 ≤ f ∧ f ≤ 0x7FFE ∧ arith cw fr .mul int ⟨d, false⟩ ⟨s, false⟩ = ⟨packReal (realNeg d != realNeg s) f 0, 0, e⟩

/-- A significand of so many leading zero bits. -/
theorem le_leadingZeroBits_of_lt {v : TempReal} (nonzero : realSig v ≠ 0) {j : Nat} (lt : realSig v < 2 ^ (64 - j)) :
    j ≤ leadingZeroBits v := by
  have few : j ≤ 63 := by
    by_contra many
    rw [Nat.sub_eq_zero_of_le (by omega), pow_zero] at lt
    omega
  exact (le_leadingZeroBits v j few nonzero).2 lt

theorem isPseudoZero_unnormals {j k : Nat} (hd : realClass d = .unnormal) (hs : realClass s = .unnormal) (nonzeroD : realSig d ≠ 0)
    (nonzeroS : realSig s ≠ 0) (ltD : realSig d < 2 ^ (64 - j)) (ltS : realSig s < 2 ^ (64 - k)) (lt : 64 < j + k) :
    IsPseudoZero cw fr int d s 0x20 := by
  have bits : 64 < leadingZeroBits d + leadingZeroBits s := by
    have := le_leadingZeroBits_of_lt nonzeroD ltD
    have := le_leadingZeroBits_of_lt nonzeroS ltS
    omega
  have mant : ((realValue d).mul (realValue s)).mant ≠ 0 := Nat.mul_ne_zero nonzeroD nonzeroS
  refine arith_pseudoZero (lost := true) (unmasked_zero cw) (by simp [hd]) (by simp [hs]) ?_
  rw [coreArith, coreMul]
  simp [hd, hs, mant, bits]

theorem isPseudoZero_pseudoZero (h : realSig d = 0 ∨ realSig s = 0) (hd : realClass d ∈ [.normal, .unnormal])
    (hs : realClass s ∈ [.normal, .unnormal]) : IsPseudoZero cw fr int d s 0 := by
  have mant : ((realValue d).mul (realValue s)).mant = 0 := Nat.mul_eq_zero.2 h
  have ne {v : TempReal} (hv : realClass v ∈ [.normal, .unnormal]) : realClass v ≠ .nan ∧ realClass v ≠ .infinity ∧ realClass v ≠ .zero := by
    simp only [List.mem_cons, List.not_mem_nil, or_false] at hv
    obtain hv | hv := hv <;> simp [hv]
  refine arith_pseudoZero (lost := false) (unmasked_zero cw) (ne hd).1 (ne hs).1 ?_
  rw [coreArith, coreMul]
  simp [(ne hd).2, (ne hs).2, mant]

/-! ## NaNs and denormals -/

theorem pickNan_left (hd : realClass d = .nan) (h : realClass s ≠ .nan ∨ realMag s < realMag d) : pickNan d s = d := by
  unfold pickNan
  rw [if_neg (not_not.2 hd)]
  split
  next => rfl
  next nan => rw [if_pos (h.resolve_left nan)]

theorem pickNan_right (hs : realClass s = .nan) (h : realClass d ≠ .nan ∨ realMag d < realMag s) : pickNan d s = s := by
  unfold pickNan
  split
  next => rfl
  next nan =>
    have less := h.resolve_left nan
    rw [if_neg (not_not.2 hs), if_neg (by omega), if_pos less]

/-- A denormal operand raises D before the operation; a denormal divisor is invalid. -/
theorem arith_denormal {a b : NpxOperand} (h : a.den = true ∨ b.den = true) :
    (cw.getLsbD 1 = false → (arith cw fr op int a b).before = 2)
      ∧ (cw.getLsbD 1 = true → realClass a.v ≠ .nan → realClass b.v ≠ .nan →
        (op = .div ∧ b.den = true ∨ op = .divr ∧ a.den = true → arith cw fr op int a b = ⟨npxIndef, 1, 0⟩)
          ∧ (op ≠ .div → op ≠ .divr → realClass a.v ≠ .infinity → realClass b.v ≠ .infinity → (arith cw fr op int a b).before = 2)) := by
  have den : (a.den || b.den) = true := by simpa using h
  refine ⟨fun mask => ?_, fun mask ha hb => ?_⟩
  · unfold arith
    dsimp only
    rw [if_pos ((unmasked_exD cw _).2 ⟨den, mask⟩), den]
    rfl
  · have masked : unmasked cw (when (a.den || b.den) exD) = 0 := by
      by_contra trap
      exact Bool.false_ne_true (((unmasked_exD cw _).1 trap).2.symm.trans mask)
    refine ⟨fun divisor => arith_invalid masked ha hb ?_, fun notDiv notDivr infA infB => ?_⟩
    · obtain ⟨rfl, divisor⟩ | ⟨rfl, divisor⟩ := divisor <;> rw [coreArith, coreDiv] <;> exact if_pos (.inl divisor)
    · obtain ⟨add, sub, subr⟩ := coreArith_sums cw a b
      have valid : coreArith cw op a b ≠ .invalid ∧ ∀ neg, coreArith cw op a b ≠ .zeroDivide neg := by
        cases op
        case div => exact absurd rfl notDiv
        case divr => exact absurd rfl notDivr
        case mul =>
          rw [coreArith, coreMul]
          simp only [infA, infB, or_self, if_false]
          split_ifs <;> simp
        case add => rw [add]; exact coreAdd_valid cw infA (by rwa [realClass_withSign])
        case sub => rw [sub]; exact coreAdd_valid cw infA (by rwa [realClass_withSign])
        case subr => rw [subr]; exact coreAdd_valid cw infB (by rwa [realClass_withSign])
      rw [arith_before masked ha hb valid.1 valid.2, den]
      rfl

end

/-- The two bits of RC. -/
theorem rounding_eq (cw : Word) :
    rounding cw = if cw.getLsbD 11 then (if cw.getLsbD 10 then .chop else .up) else if cw.getLsbD 10 then .down else .nearest := by
  unfold rounding
  cases cw.getLsbD 11 <;> cases cw.getLsbD 10 <;> rfl

/-- Settles O47. -/
theorem npxArithmeticResults : Obligations.NpxArithmeticResults := by
  unfold Obligations.NpxArithmeticResults
  refine ⟨fun neg m d => ?_, fun cw fr int d s => ?_⟩
  · have dropped (rc : Rounding) := isDropped_roundDrop rc neg m d
    obtain ⟨low, high, tie⟩ := (dropped .nearest).mode
    exact ⟨fun rc => ⟨(dropped rc).exact, (dropped rc).below, (dropped rc).above⟩, low, high, tie, (dropped .chop).mode, (dropped .down).mode,
      (dropped .up).mode, rounding_eq⟩
  · rw [← precision_eq cw]
    intro p ans finite signs exactZero sum quotient
    obtain ⟨add, sub, subr⟩ := coreArith_sums cw ⟨d, false⟩ ⟨s, false⟩
    refine ⟨fun hd hs => ⟨arith_sum hd hs hd hs add, arith_sum hd hs hd hs sub, arith_sum hd hs hs hd subr, ?_⟩,
      (isQuotientOf_div cw d s).answers, (isQuotientOf_divr cw d s).answers, fun q hq => ?_, arith_mul_infinity, ?_, fun op => ⟨?_, ?_⟩,
      fun op a b h => arith_denormal h⟩
    · exact arith_isNumber (IsFinite.ne_nan hd) (IsFinite.ne_nan hs) (isNumber_coreMul hd hs)
    · have sums := isSumOf_sums cw d s q hq
      refine ⟨fun hd hs => ?_, fun hd hs => ?_, fun hd hs => ?_⟩
      · exact arith_special (unmasked_zero cw) (by simp [hd]) (IsFinite.ne_nan (v := s) hs) (sums.left hd (IsFinite.ne_infinity hs))
      · exact arith_special (unmasked_zero cw) (IsFinite.ne_nan (v := d) hd) (by simp [hs]) (sums.right (IsFinite.ne_infinity hd) hs)
      · have core := sums.both hd hs
        split
        next same => exact arith_special (unmasked_zero cw) (by simp [hd]) (by simp [hs]) (core.trans (if_pos same))
        next differ => exact arith_invalid (unmasked_zero cw) (by simp [hd]) (by simp [hs]) (core.trans (if_neg differ))
    · refine ⟨fun j k hd hs => isPseudoZero_unnormals hd hs, ?_⟩
      rintro (⟨hd, zero, hs⟩ | ⟨hs, zero, hd⟩)
      · exact isPseudoZero_pseudoZero (.inl zero) (by simp [hd]) hs
      · exact isPseudoZero_pseudoZero (.inr zero) hd (by simp [hs])
    · intro hd h
      exact (arith_nan (unmasked_zero cw) (.inl hd)).trans (by rw [pickNan_left hd h]; rfl)
    · intro hs h
      exact (arith_nan (unmasked_zero cw) (.inr hs)).trans (by rw [pickNan_right hs h]; rfl)

end Sys2Proof.Machine

/-! O52. The conversions of the 8087's stores (47_npx_8087_state.md R338, R339; 48_npx_8087_instructions.md R352, R356, R359). -/

namespace Sys2Proof.Machine

/-! ## The fields of a short or long real -/

theorem packMem_div (e f : Nat) (neg : Bool) (field frac : Nat) : packMem e f neg field frac / 2 ^ f = neg.toNat * 2 ^ e + field := by
  have rest : frac % 2 ^ f < 2 ^ f := Nat.mod_lt _ (by positivity)
  rw [packMem, pow_add, ← mul_assoc, ← Nat.add_mul, Nat.mul_comm _ (2 ^ f), Nat.mul_add_div (by positivity), Nat.div_eq_of_lt rest, Nat.add_zero]

theorem packMem_mod (e f : Nat) (neg : Bool) (field frac : Nat) : packMem e f neg field frac % 2 ^ f = frac % 2 ^ f := by
  rw [packMem, pow_add, ← mul_assoc, ← Nat.add_mul, Nat.mul_comm _ (2 ^ f), Nat.mul_add_mod, Nat.mod_mod]

section
variable {e f field : Nat} (neg : Bool) (hf : field < 2 ^ e) (frac : Nat)
include hf

theorem packMem_field : packMem e f neg field frac / 2 ^ f % 2 ^ e = field := by
  rw [packMem_div, Nat.mul_comm, Nat.mul_add_mod, Nat.mod_eq_of_lt hf]

theorem packMem_sign : packMem e f neg field frac / 2 ^ (e + f) = neg.toNat := by
  rw [Nat.add_comm, pow_add, ← Nat.div_div_eq_div_mul, packMem_div, Nat.mul_comm, Nat.mul_add_div (by positivity), Nat.div_eq_of_lt hf,
    Nat.add_zero]

theorem packMem_lt : packMem e f neg field frac < 2 ^ (e + f + 1) := by
  rw [Nat.pow_succ', ← Nat.div_lt_iff_lt_mul (by positivity), packMem_sign neg hf]
  exact Bool.toNat_lt neg

/-- The number of a packed real. -/
theorem memQ_packMem : memQ e f (packMem e f neg field frac) = signQ neg * ((frac % 2 ^ f + if field = 0 then 0 else 2 ^ f : ℕ) : ℚ)
    * 2 ^ (((max field 1 : ℕ) : ℤ) - ((2 ^ (e - 1) - 1 + f : ℕ) : ℤ)) := by
  unfold memQ
  rw [packMem_field neg hf, packMem_sign neg hf, packMem_mod]
  cases neg <;> simp [signQ]

end

/-! ## Rounding to a short or long real, R352 -/

theorem roundStore_eq (cw : Word) (e f : Nat) (x : Exact) :
    let rc := rounding cw
    let bias : Nat := 2 ^ (e - 1) - 1
    let n := x.round rc (x.exponent - f)
    let ex : ℤ := x.exponent + if n.1 = 2 ^ (f + 1) then 1 else 0
    let d := x.round rc (1 - (bias : ℤ) - f)
    let largest := if overflowToInf rc x.neg then packMem e f x.neg (2 ^ e - 1) 0 else packMem e f x.neg (2 ^ e - 2) (2 ^ f - 1)
    let small := packMem e f x.neg (if d.1 < 2 ^ f then 0 else 1) d.1
    roundStore cw e f x =
      if (bias : ℤ) < ex then
        if isMasked cw exO then ⟨largest, 0, overflowFlags rc⟩ else ⟨largest, exO ||| when n.2 exP, 0⟩
      else if x.exponent < 1 - (bias : ℤ) then
        if isMasked cw exU then ⟨small, exU, when (n.2 || d.2) exP⟩ else ⟨small, exU ||| when n.2 exP, 0⟩
      else ⟨packMem e f x.neg (ex + bias).toNat n.1, 0, when n.2 exP⟩ := rfl

/-- The largest magnitude, or infinity, of a masked overflow. -/
theorem packMem_largest (e f : Nat) (neg : Bool) (he : 2 ≤ 2 ^ e) : packMem e f neg (2 ^ e - 1) 0 = neg.toNat * 2 ^ (e + f) + (2 ^ e - 1) * 2 ^ f
    ∧ packMem e f neg (2 ^ e - 2) (2 ^ f - 1) = neg.toNat * 2 ^ (e + f) + ((2 ^ e - 1) * 2 ^ f - 1) := by
  have pos : 0 < 2 ^ f := by positivity
  have step : (2 ^ e - 1) * 2 ^ f = (2 ^ e - 2) * 2 ^ f + 2 ^ f := by
    rw [← Nat.succ_mul]
    congr 1
    omega
  rw [packMem, packMem, Nat.zero_mod, Nat.add_zero, Nat.mod_eq_of_lt (by omega), step]
  exact ⟨rfl, by omega⟩

/-- What a store of the number `q` to a real memory format answers (R338, R339, R352). -/
def StoresNumber (cw : Word) (e f : Nat) (neg : Bool) (q : ℚ) (a : StoreAnswer) : Prop :=
  let bias : Nat := 2 ^ (e - 1) - 1
  let rc := rounding cw
  let sign : Nat := neg.toNat * 2 ^ (e + f)
  a.value < 2 ^ (e + f + 1) ∧ a.value / 2 ^ (e + f) = neg.toNat ∧ ∃ r, IsRounded rc (lastPlace (f + 1) q) q r ∧
    if 2 ^ ((bias + 1 : Nat) : ℤ) ≤ |r| then
      if cw.getLsbD 3 then
        a = ⟨sign + (if rc = .down ∧ 0 < q ∨ rc = .up ∧ q < 0 then (2 ^ e - 1) * 2 ^ f - 1 else (2 ^ e - 1) * 2 ^ f), 0,
          if rc = .down ∨ rc = .up then 0x20 else 0x28⟩
      else a.before = 0x08 ||| inexact (r ≠ q)
    else if |q| < 2 ^ (1 - (bias : ℤ)) then
      if cw.getLsbD 4 then
        IsRounded rc (2 ^ (1 - (bias : ℤ) - f)) q (memQ e f a.value) ∧ a.before = 0x10 ∧ a.after = inexact (r ≠ q ∨ memQ e f a.value ≠ q)
      else a.before = 0x10 ||| inexact (r ≠ q)
    else memQ e f a.value = r ∧ a.before = 0 ∧ a.after = inexact (r ≠ q)

/-- A magnitude below the smallest normal, denormalized or carried to it. -/
theorem memQ_packMem_small {e f n : Nat} (neg : Bool) (he : 2 ≤ 2 ^ e) (hn : n ≤ 2 ^ f) :
    memQ e f (packMem e f neg (if n < 2 ^ f then 0 else 1) n) = signQ neg * (n * 2 ^ (1 - ((2 ^ (e - 1) - 1 : ℕ) : ℤ) - f)) := by
  have power : (((max (if n < 2 ^ f then 0 else 1) 1 : ℕ) : ℤ) - ((2 ^ (e - 1) - 1 + f : ℕ) : ℤ)) = 1 - ((2 ^ (e - 1) - 1 : ℕ) : ℤ) - f := by
    split <;> omega
  rw [memQ_packMem neg (by split <;> omega), power, mul_assoc]
  congr 3
  split
  next lt => rw [if_pos rfl, Nat.mod_eq_of_lt lt, Nat.add_zero]
  next ge => rw [if_neg one_ne_zero, show n = 2 ^ f by omega, Nat.mod_self, Nat.zero_add]

/-- A magnitude of the bits of the format, the carry to the next power of 2 included. -/
theorem memQ_packMem_normal {e f n : Nat} (neg : Bool) {field : Nat} (hf : field < 2 ^ e) (pos : 1 ≤ field) (low : 2 ^ f ≤ n)
    (high : n ≤ 2 ^ (f + 1)) {i : ℤ}
    (hi : (field : ℤ) = i + (if n = 2 ^ (f + 1) then 1 else 0) + ((2 ^ (e - 1) - 1 : ℕ) : ℤ)) :
    memQ e f (packMem e f neg field n) = signQ neg * (n * 2 ^ (i - f)) := by
  have double : 2 ^ (f + 1) = 2 * 2 ^ f := Nat.pow_succ'
  rw [memQ_packMem neg hf, if_neg (by omega), mul_assoc, max_eq_left pos, hi]
  congr 1
  split
  next carry =>
    rw [show n % 2 ^ f + 2 ^ f = 2 ^ f by rw [carry, double, Nat.mul_mod_left, Nat.zero_add], carry, Nat.cast_pow, Nat.cast_pow, Nat.cast_ofNat,
      ← zpow_natCast, ← zpow_natCast, ← zpow_add₀ two_ne_zero, ← zpow_add₀ two_ne_zero]
    congr 1
    push_cast
    ring
  next fits =>
    have fraction : n % 2 ^ f + 2 ^ f = n := by
      rw [Nat.mod_eq_sub_mod low, Nat.mod_eq_of_lt (by omega)]
      omega
    rw [fraction]
    congr 2
    push_cast
    ring

/-- The rounded store of a number. -/
theorem storesNumber_roundStore {cw : Word} {e f : Nat} (h : IsRealFormat e f) {x : Exact} {q : ℚ} (hx : x.StandsFor q) :
    StoresNumber cw e f x.neg q (roundStore cw e f x) := by
  obtain ⟨half2, half10⟩ := h.half_bounds
  have pow := h.pow_eq
  have fraction := h.fraction
  have place : lastPlace (f + 1) q = 2 ^ (x.exponent - f) := by
    rw [lastPlace, hx.log]
    congr 1
    push_cast
    ring
  obtain ⟨rounded, lost⟩ := hx.round (rounding cw) (show x.exponent - 63 ≤ x.exponent - f by omega)
  obtain ⟨low, high⟩ := hx.round_bounds (rounding cw) (show f ≤ 63 by omega)
  have magnitude := Exact.abs_rounded (rounding cw) x (x.exponent - f)
  obtain ⟨significand, number⟩ := significand_of_magnitude (p := f + 1) (by omega) (by omega) low high x.exponent
  have large := significand.le_iff ((2 ^ (e - 1) - 1 : ℕ) : ℤ) (x.exponent + if (x.round (rounding cw) (x.exponent - f)).1 = 2 ^ (f + 1) then 1 else 0)
  rw [← number, Nat.add_sub_cancel, ← magnitude] at large
  rw [← place] at rounded
  have toR : x.rounded (rounding cw) (x.exponent - f) = signQ x.neg * ((x.round (rounding cw) (x.exponent - f)).1 * 2 ^ (x.exponent - f)) := rfl
  obtain ⟨infinity, largest⟩ := packMem_largest e f x.neg (by omega)
  rw [roundStore_eq, isMasked_exO, isMasked_exU]
  generalize x.rounded (rounding cw) (x.exponent - f) = r at rounded lost large toR
  generalize x.round (rounding cw) (x.exponent - f) = n at lost low high large toR ⊢
  have fits {field : Nat} (hf : field < 2 ^ e) (frac : Nat) : packMem e f x.neg field frac < 2 ^ (e + f + 1)
      ∧ packMem e f x.neg field frac / 2 ^ (e + f) = x.neg.toNat := ⟨packMem_lt x.neg hf frac, packMem_sign x.neg hf frac⟩
  by_cases overflow : ((2 ^ (e - 1) - 1 : ℕ) : ℤ) < x.exponent + if n.1 = 2 ^ (f + 1) then 1 else 0
  · have isLarge := large.2 overflow
    have bounds : ∀ c : Bool, (if c = true then packMem e f x.neg (2 ^ e - 1) 0 else packMem e f x.neg (2 ^ e - 2) (2 ^ f - 1)) < 2 ^ (e + f + 1)
        ∧ (if c = true then packMem e f x.neg (2 ^ e - 1) 0 else packMem e f x.neg (2 ^ e - 2) (2 ^ f - 1)) / 2 ^ (e + f) = x.neg.toNat := by
      intro c
      split
      · exact fits (by omega) _
      · exact fits (by omega) _
    rw [if_pos overflow]
    by_cases mask : cw.getLsbD 3 = true
    · rw [if_pos mask]
      refine ⟨(bounds _).1, (bounds _).2, r, rounded, ?_⟩
      rw [if_pos (by exact_mod_cast isLarge), if_pos mask, overflowToInf_eq hx, overflowFlags_eq, infinity, largest, apply_ite (_ + ·)]
    · rw [if_neg mask]
      refine ⟨(bounds _).1, (bounds _).2, r, rounded, ?_⟩
      rw [if_pos (by exact_mod_cast isLarge), if_neg mask, when_exP lost]
      rfl
  have notLarge := mt large.1 overflow
  rw [if_neg overflow]
  by_cases small : x.exponent < 1 - ((2 ^ (e - 1) - 1 : ℕ) : ℤ)
  · obtain ⟨rounded', lost'⟩ := hx.round (rounding cw) (show x.exponent - 63 ≤ 1 - ((2 ^ (e - 1) - 1 : ℕ) : ℤ) - f by omega)
    have bound : (x.round (rounding cw) (1 - ((2 ^ (e - 1) - 1 : ℕ) : ℤ) - f)).1 ≤ 2 ^ f := by
      refine rounded'.le_of_lt (Exact.abs_rounded _ x _) (two_zpow_pos _) ?_
      rw [Nat.cast_pow, Nat.cast_ofNat, ← zpow_natCast, ← zpow_add₀ two_ne_zero]
      exact (hx.abs_lt_iff _).2 (by omega)
    have value := memQ_packMem_small (e := e) x.neg (by omega) bound
    rw [Exact.rounded, ← value] at rounded' lost'
    rw [if_pos small]
    generalize x.round (rounding cw) (1 - ((2 ^ (e - 1) - 1 : ℕ) : ℤ) - f) = d at bound value rounded' lost' ⊢
    have hf : (if d.1 < 2 ^ f then 0 else 1) < 2 ^ e := by split <;> omega
    by_cases mask : cw.getLsbD 4 = true
    · rw [if_pos mask]
      refine ⟨(fits hf _).1, (fits hf _).2, r, rounded, ?_⟩
      rw [if_neg (by exact_mod_cast notLarge), if_pos ((hx.abs_lt_iff _).2 small), if_pos mask]
      exact ⟨rounded', rfl, when_exP (by rw [Bool.or_eq_true, lost, lost'])⟩
    · rw [if_neg mask]
      refine ⟨(fits hf _).1, (fits hf _).2, r, rounded, ?_⟩
      rw [if_neg (by exact_mod_cast notLarge), if_pos ((hx.abs_lt_iff _).2 small), if_neg mask, when_exP lost]
      rfl
  · rw [if_neg small]
    have range : 0 ≤ (if n.1 = 2 ^ (f + 1) then (1 : ℤ) else 0) := by split <;> decide
    generalize hex : x.exponent + (if n.1 = 2 ^ (f + 1) then (1 : ℤ) else 0) = ex at overflow
    have hf : (ex + ((2 ^ (e - 1) - 1 : ℕ) : ℤ)).toNat < 2 ^ e := by omega
    refine ⟨(fits hf _).1, (fits hf _).2, r, rounded, ?_⟩
    rw [if_neg (by exact_mod_cast notLarge), if_neg (mt (hx.abs_lt_iff _).1 small)]
    refine ⟨?_, rfl, when_exP lost⟩
    rw [toR]
    refine memQ_packMem_normal x.neg hf (by omega) low high ?_
    rw [hex]
    omega

end Sys2Proof.Machine

/-! O52, continued: the conversions by class and format. -/

namespace Sys2Proof.Machine

theorem isRealFormat_of_mem {p : Nat × Nat} (hp : p ∈ [(8, 23), (11, 52)]) : IsRealFormat p.1 p.2 := by
  simp only [List.mem_cons, List.not_mem_nil, or_false] at hp
  obtain rfl | rfl := hp
  · exact isRealFormat_short
  · exact isRealFormat_long

theorem memIndef_eq : ∀ p ∈ [(8, 23), (11, 52)], memIndef p.1 p.2 = (2 ^ (p.1 + 1) - 1) * 2 ^ p.2 + 2 ^ (p.2 - 1) := by decide

/-! ## Short and long reals -/

theorem standsFor_realValue_of_sig {v : TempReal} (h : realSig v ≠ 0) : (realValue v).StandsFor (realQ v) := by
  rw [← toQ_realValue]
  exact Exact.standsFor_self h

section
variable (cw : Word) {e f : Nat} {v : TempReal}

theorem storeReal_zero (h : realClass v = .zero) : storeReal cw e f v = ⟨(realNeg v).toNat * 2 ^ (e + f), 0, 0⟩ := by
  rw [storeReal, h]
  simp [packMem]

theorem storeReal_infinity (hf : f ≤ 62) (h : realClass v = .infinity) :
    storeReal cw e f v = ⟨(realNeg v).toNat * 2 ^ (e + f) + (2 ^ e - 1) * 2 ^ f, 0, 0⟩ := by
  have fraction : realSig v / 2 ^ (63 - f) % 2 ^ f = 0 := by
    rw [(realClass_infinity.1 h).2, Nat.pow_div (by omega) (by decide), show 63 - (63 - f) = f by omega, Nat.mod_self]
  rw [storeReal, h]
  simp [packMem, fraction]

theorem storeReal_nan (h : realClass v = .nan) : storeReal cw e f v
    = ⟨(realNeg v).toNat * 2 ^ (e + f) + (2 ^ e - 1) * 2 ^ f + realSig v / 2 ^ (63 - f) % 2 ^ f, 0, 0⟩ := by
  rw [storeReal, h]
  rfl

theorem storeReal_denormal (h : realClass v = .denormal) :
    storeReal cw e f v = ⟨(realNeg v).toNat * 2 ^ (e + f) + realSig v / 2 ^ (63 - f) % 2 ^ f, 0, 0⟩ := by
  rw [storeReal, h]
  simp [packMem]

theorem storeReal_pseudoZero (h : realClass v = .unnormal) (zero : realSig v = 0) :
    storeReal cw e f v = ⟨(realNeg v).toNat * 2 ^ (e + f), 0x10, 0⟩ := by
  rw [storeReal, h]
  dsimp only
  rw [if_pos (show (realValue v).mant = 0 from zero)]
  simp [packMem, realValue, exU]

/-- An unnormal in the range of the normals of the format is invalid. -/
theorem storeReal_unnormal_large (h : realClass v = .unnormal) (large : 2 ^ (1 - ((2 ^ (e - 1) - 1 : ℕ) : ℤ)) ≤ |realQ v|) :
    storeReal cw e f v = ⟨memIndef e f, 1, 0⟩ := by
  have nonzero : realSig v ≠ 0 := by
    intro zero
    rw [(realQ_eq_zero v).2 zero, abs_zero] at large
    exact absurd (two_zpow_pos _) (not_lt.2 large)
  have exponent := mt ((standsFor_realValue_of_sig nonzero).abs_lt_iff _).2 (not_lt.2 large)
  rw [storeReal, h]
  dsimp only
  rw [if_neg (show (realValue v).mant ≠ 0 from nonzero), if_pos (not_lt.1 exponent)]
  rfl

/-- A number is rounded. -/
theorem storesNumber_storeReal (format : IsRealFormat e f)
    (h : realClass v = .normal ∨ realClass v = .unnormal ∧ realSig v ≠ 0 ∧ |realQ v| < 2 ^ (1 - ((2 ^ (e - 1) - 1 : ℕ) : ℤ))) :
    StoresNumber cw e f (realNeg v) (realQ v) (storeReal cw e f v) := by
  obtain normal | ⟨unnormal, nonzero, small⟩ := h
  · rw [storeReal, normal]
    exact storesNumber_roundStore format (standsFor_realValue normal)
  · have stands := standsFor_realValue_of_sig nonzero
    have exponent := (stands.abs_lt_iff _).1 small
    rw [storeReal, unnormal]
    dsimp only
    rw [if_neg (show (realValue v).mant ≠ 0 from nonzero), if_neg (not_le.2 exponent)]
    exact storesNumber_roundStore format stands

end

/-! ## Integers, R356 -/

/-- The two's complement of a magnitude in range. -/
theorem toInt_ofNat_signed {bits m : Nat} (hb : 1 ≤ bits) (neg : Bool)
    (range : m < 2 ^ (bits - 1) ∨ m = 2 ^ (bits - 1) ∧ neg = true) :
    (BitVec.ofNat bits (if neg = true then (2 ^ bits - m) % 2 ^ bits else m)).toInt = (if neg = true then -(m : ℤ) else m) := by
  have double : 2 ^ bits = 2 * 2 ^ (bits - 1) := by rw [← Nat.pow_succ', Nat.succ_eq_add_one, Nat.sub_add_cancel hb]
  rw [BitVec.toInt_eq_toNat_cond, BitVec.toNat_ofNat, double]
  generalize 2 ^ (bits - 1) = half at range
  cases neg
  · simp only [Bool.false_eq_true, and_false, or_false] at range
    rw [if_neg Bool.false_ne_true, if_neg Bool.false_ne_true, Nat.mod_eq_of_lt (by omega), if_pos (by omega)]
  · rw [if_pos rfl, if_pos rfl, Nat.mod_mod]
    by_cases zero : m = 0
    · rw [zero, Nat.sub_zero, Nat.mod_self]
      split <;> omega
    · rw [Nat.mod_eq_of_lt (by omega), if_neg (by omega)]
      omega

/-- What a store of an integer answers. -/
theorem storeInt_normal {bits : Nat} (hb : 1 ≤ bits) (cw : Word) {v : TempReal} (h : realClass v = .normal) :
    let a := storeInt cw bits v
    ∃ k : ℤ, IsRounded (rounding cw) 1 (realQ v) k ∧
      if -2 ^ (bits - 1) ≤ k ∧ k < 2 ^ (bits - 1) then
        a.value < 2 ^ bits ∧ (BitVec.ofNat bits a.value).toInt = k ∧ a.before = 0 ∧ a.after = inexact (k ≠ realQ v)
      else a = ⟨2 ^ (bits - 1), 1, 0⟩ := by
  have half : (2 : ℤ) ^ (bits - 1) = ((2 ^ (bits - 1) : ℕ) : ℤ) := by push_cast; rfl
  have less : 2 ^ (bits - 1) < 2 ^ bits := Nat.pow_lt_pow_right (by decide) (by omega)
  obtain ⟨rounded, lost⟩ := (realValue v).isRounded_round (rounding cw) 0
  rw [Exact.rounded, toQ_realValue, zpow_zero, mul_one] at rounded lost
  have number (m : ℕ) : signQ (realValue v).neg * (m : ℚ) = ((if realNeg v = true then -(m : ℤ) else m : ℤ) : ℚ) := by
    show signQ (realNeg v) * (m : ℚ) = _
    cases realNeg v <;> simp [signQ]
  rw [number] at rounded lost
  rw [storeInt, h, half]
  dsimp only
  rw [roundInt]
  generalize (realValue v).round (rounding cw) 0 = n at rounded lost ⊢
  refine ⟨_, rounded, ?_⟩
  have range : (-((2 ^ (bits - 1) : ℕ) : ℤ) ≤ (if realNeg v = true then -(n.1 : ℤ) else n.1)
      ∧ (if realNeg v = true then -(n.1 : ℤ) else n.1) < ((2 ^ (bits - 1) : ℕ) : ℤ)) ↔
      n.1 < 2 ^ (bits - 1) ∨ n.1 = 2 ^ (bits - 1) ∧ realNeg v = true := by
    have := Nat.two_pow_pos (bits - 1)
    cases realNeg v <;> simp <;> omega
  by_cases inRange : n.1 < 2 ^ (bits - 1) ∨ n.1 = 2 ^ (bits - 1) ∧ realNeg v = true
  · rw [if_pos inRange, if_pos (range.2 inRange)]
    refine ⟨?_, toInt_ofNat_signed hb _ inRange, rfl, when_exP lost⟩
    dsimp only
    split
    · exact Nat.mod_lt _ (by positivity)
    · omega
  · rw [if_neg inRange, if_neg (mt range.1 inRange)]
    rfl

/-! ## Packed decimals, R359 -/

/-- The digits of a packed decimal. -/
theorem toBcd_digit (m : Nat) {k i : Nat} (hi : i < k) : toBcd m k / 16 ^ i % 16 = m / 10 ^ i % 10 := by
  induction k generalizing m i with
  | zero => omega
  | succ k ih =>
    cases i with
    | zero =>
      rw [toBcd]
      omega
    | succ i =>
      have first : (m % 10 + 16 * toBcd (m / 10) k) / 16 = toBcd (m / 10) k := by omega
      rw [toBcd, Nat.pow_succ', Nat.pow_succ', ← Nat.div_div_eq_div_mul, ← Nat.div_div_eq_div_mul, first, ih _ (by omega)]

theorem toBcd_lt (m k : Nat) : toBcd m k < 16 ^ k := by
  induction k generalizing m with
  | zero => simp [toBcd]
  | succ k ih =>
    have := ih (m / 10)
    rw [toBcd, Nat.pow_succ]
    omega

/-- The integers around a number `q + r / u`. -/
theorem abs_sub_eq_div (k q r : Nat) {u : Nat} (pos : 0 < u) :
    abs ((k : ℚ) - ((q * u + r : ℕ) : ℚ) / u) = abs (((k * u : ℕ) : ℤ) - (q * u + r : ℕ) : ℤ) / u := by
  have pos' : (0 : ℚ) < u := by exact_mod_cast pos
  rw [Int.cast_abs, Int.cast_sub, ← abs_of_pos pos', ← abs_div, abs_of_pos pos', sub_div]
  congr 2
  push_cast
  field_simp

/-- The nearer integer when the fraction is at most 1/4 or at least 3/4, and one of the two neighbours. -/
def IsNearer (q r u m : Nat) : Prop := (m = q ∧ (r = 0 ∨ 4 * r < 3 * u)) ∨ (m = q + 1 ∧ u < 4 * r)

theorem IsNearer.spec {q r u m : Nat} (h : IsNearer q r u m) (hr : r < u) :
    abs ((m : ℚ) - ((q * u + r : ℕ) : ℚ) / u) < 1 ∧ ∀ k : Nat, 4 * abs ((k : ℚ) - ((q * u + r : ℕ) : ℚ) / u) ≤ 1 → m = k := by
  have pos : 0 < u := by omega
  have pos' : (0 : ℚ) < u := by exact_mod_cast pos
  have next : (q + 1) * u = q * u + u := Nat.succ_mul q u
  refine ⟨?_, fun k near => ?_⟩
  · rw [abs_sub_eq_div m q r pos, div_lt_one pos']
    have : |((m * u : ℕ) : ℤ) - (q * u + r : ℕ)| < u := by
      rw [abs_lt]
      obtain ⟨rfl, -⟩ | ⟨rfl, up⟩ := h <;> omega
    exact_mod_cast this
  · rw [abs_sub_eq_div k q r pos, ← mul_div_assoc, div_le_one pos'] at near
    have near : 4 * |((k * u : ℕ) : ℤ) - (q * u + r : ℕ)| ≤ u := by exact_mod_cast near
    obtain ⟨low, high⟩ := abs_le.1 (show |((k * u : ℕ) : ℤ) - (q * u + r : ℕ)| ≤ u / 4 by omega)
    obtain lt | rfl | rfl | gt : k < q ∨ k = q ∨ k = q + 1 ∨ q + 2 ≤ k := by omega
    · have : (k + 1) * u ≤ q * u := Nat.mul_le_mul_right _ lt
      rw [Nat.succ_mul] at this
      omega
    · obtain ⟨rfl, -⟩ | ⟨rfl, up⟩ := h <;> omega
    · obtain ⟨rfl, down⟩ | ⟨rfl, -⟩ := h <;> omega
    · have : (q + 2) * u ≤ k * u := Nat.mul_le_mul_right _ gt
      rw [Nat.succ_mul, next] at this
      omega

/-- The integer that FBSTP stores: the number is within 1 of it, and of no other integer within 1/4. -/
theorem fbstpRound_spec (v : TempReal) :
    abs ((fbstpRound v : ℚ) - |realQ v|) < 1 ∧ ∀ k : Nat, 4 * abs ((k : ℚ) - |realQ v|) ≤ 1 → fbstpRound v = k := by
  rw [← toQ_realValue, Exact.abs_toQ, fbstpRound]
  generalize realValue v = x
  dsimp only
  split
  next whole =>
    have number : (x.mant : ℚ) * 2 ^ x.exp = ((x.mant <<< x.exp.toNat * 1 + 0 : ℕ) : ℚ) / (1 : ℕ) := by
      rw [Nat.mul_one, Nat.add_zero, Nat.shiftLeft_eq, Exact.zpow_shift whole]
      simp
    rw [number]
    exact IsNearer.spec (.inl ⟨rfl, .inl rfl⟩) Nat.one_pos
  next fraction =>
    have number : (x.mant : ℚ) * 2 ^ x.exp
        = ((x.mant >>> (-x.exp).toNat * 2 ^ (-x.exp).toNat + x.mant % 2 ^ (-x.exp).toNat : ℕ) : ℚ) / (2 ^ (-x.exp).toNat : ℕ) := by
      rw [Nat.shiftRight_eq_div_pow, Nat.div_add_mod', Nat.cast_pow, Nat.cast_ofNat, ← zpow_natCast, Int.toNat_of_nonneg (by omega), zpow_neg,
        div_inv_eq_mul]
    have rest : x.mant % 2 ^ (-x.exp).toNat < 2 ^ (-x.exp).toNat := Nat.mod_lt _ (by positivity)
    rw [number]
    refine IsNearer.spec ?_ rest
    unfold IsNearer
    generalize 2 ^ (-x.exp).toNat = u at rest
    split_ifs <;> omega

theorem bcdIndef_div (fr : TempReal) : bcdIndef fr / 2 ^ 64 = 0xFFFF := by
  rw [bcdIndef]
  omega

/-- What a store of a packed decimal answers to a number. -/
theorem storeBcd_number (fr : TempReal) {v : TempReal} (h : realClass v = .zero ∨ realClass v = .normal) :
    let a := storeBcd fr v
    ∃ m : Nat, abs ((m : ℚ) - |realQ v|) < 1 ∧ (∀ k : Nat, 4 * abs ((k : ℚ) - |realQ v|) ≤ 1 → m = k) ∧
      if m < 10 ^ 18 then a.before = 0 ∧ a.after = 0 ∧ a.value / 2 ^ 72 = (realNeg v).toNat * 128
        ∧ ∀ k < 18, a.value / 16 ^ k % 16 = m / 10 ^ k % 10
      else a.before = 1 ∧ a.after = 0 ∧ a.value / 2 ^ 64 = 0xFFFF := by
  have packed (m : Nat) : ((realNeg v).toNat * 2 ^ 79 + toBcd m 18) / 2 ^ 72 = (realNeg v).toNat * 128
      ∧ ∀ k < 18, ((realNeg v).toNat * 2 ^ 79 + toBcd m 18) / 16 ^ k % 16 = m / 10 ^ k % 10 := by
    have lt := toBcd_lt m 18
    refine ⟨by omega, fun k hk => ?_⟩
    have place : (realNeg v).toNat * 2 ^ 79 = 16 ^ k * (16 * ((realNeg v).toNat * 8 * 16 ^ (18 - k))) := by
      have : 16 ^ k * 16 ^ (18 - k) = 2 ^ 72 := by
        rw [← pow_add, Nat.add_sub_cancel' (by omega)]
        rfl
      calc (realNeg v).toNat * 2 ^ 79 = (realNeg v).toNat * 128 * 2 ^ 72 := by ring
        _ = _ := by rw [← this]; ring
    rw [place, Nat.mul_add_div (by positivity), Nat.mul_add_mod, toBcd_digit m hk]
  obtain zero | normal := h
  · rw [storeBcd, zero, realQ_of_zero zero]
    refine ⟨0, by simp, fun k near => ?_, ?_⟩
    · rw [abs_zero, sub_zero, abs_of_nonneg (by positivity)] at near
      have : 4 * k ≤ 1 := by exact_mod_cast near
      omega
    · have digits := packed 0
      rw [show toBcd 0 18 = 0 from rfl, Nat.add_zero] at digits
      rw [if_pos (by decide)]
      exact ⟨rfl, rfl, digits⟩
  · obtain ⟨near, unique⟩ := fbstpRound_spec v
    refine ⟨fbstpRound v, near, unique, ?_⟩
    rw [storeBcd, normal]
    dsimp only
    split
    · exact ⟨rfl, rfl, packed _⟩
    · exact ⟨rfl, rfl, bcdIndef_div fr⟩

end Sys2Proof.Machine

/-! O52, the obligation: what the storing instructions leave. -/

namespace Sys2Proof.Machine

/-- What a store of ST(0) answers: the indefinite for an empty register. -/
def Npx.storeAnswer (n : Npx) (fr : TempReal) (f : NpxFmt) : StoreAnswer :=
  if n.isEmpty 0 then ⟨fmtIndef fr f, 1, 0⟩ else Machine.storeAnswer n.cw fr f (n.st 0)

theorem Npx.storeAnswer_begin (n : Npx) (j : NpxJob) (fr : TempReal) (f : NpxFmt) : (n.begin j).storeAnswer fr f = n.storeAnswer fr f := by
  unfold Npx.storeAnswer
  rw [Npx.isEmpty_begin, Npx.begin_cw, Npx.st_begin]

@[simp] theorem Npx.r_freeCc (free : NpxFree) (n : Npx) : (n.freeCc free).r = n.r := rfl
@[simp] theorem Npx.tw_freeCc (free : NpxFree) (n : Npx) : (n.freeCc free).tw = n.tw := rfl
@[simp] theorem Npx.r_popIf (c : Bool) (n : Npx) : (n.popIf c).r = n.r := by cases c <;> rfl

theorem npxRun_store {j : NpxJob} {f : NpxFmt} {pop : Bool} (alone : j.raced = false) (op : j.op = .store f pop) (s : State) :
    npxRun j s = npxStore f pop false (j.addr.getD 0) (drawNpx s).1 { s with fresh := s.fresh + 5 } := by
  unfold npxRun
  rw [alone, op]
  dsimp only
  rw [if_neg Bool.false_ne_true, drawNpx_snd]

/-- A store that an unmasked exception stops, and one that goes on. -/
theorem npxStore_plain {s : State} (h : s.PlainMemory) (f : NpxFmt) (pop : Bool) (a : Phys) (free : NpxFree) :
    let ans := s.npx.storeAnswer free.real f
    npxStore f pop false a free s =
      if unmasked s.npx.cw ans.before ≠ 0 then s.setNpx (Npx.finish (s.npx.freeCc free, ans.before))
      else { s with
        npx := Npx.finish ((s.npx.popIf pop).freeCc free, ans.before ||| ans.after), mem := s.mem.store f.bytes a ans.value } := by
  rw [npxStore, npxPut, if_neg Bool.false_ne_true, npxWrite_plain h]
  rfl

theorem NpxFmt.bytes_le (f : NpxFmt) : f.bytes ≤ 10 := by cases f <;> decide

/-- A store of ST(0) that answers `a`, to the address `at_`: an unmasked exception found before it leaves memory and stack as they were. -/
def State.NpxStoresTo (s t : State) (f : NpxFmt) (pop : Bool) (at_ : Phys) (a : StoreAnswer) : Prop :=
  if unmasked s.npx.cw a.before ≠ 0 then NpxOnly s t ∧ NpxReplies s.npx t.npx a.before ∧ NpxStackKept s.npx t.npx
  else Stored (bytesFrom f.bytes at_) (a.value % 2 ^ (8 * f.bytes)) s { t with npx := s.npx, fresh := s.fresh }
    ∧ NpxReplies s.npx t.npx (a.before ||| a.after) ∧ t.npx.r = s.npx.r ∧ t.npx.top = s.npx.top + (if pop then 1 else 0)
    ∧ ∀ k, t.npx.tag k = if pop ∧ k = s.npx.top then 3 else s.npx.tag k

/-- A store stopped, or done in ordinary memory. -/
theorem npxStoresTo_npxStore {s : State} (ordinary : s.Ordinary) (j : NpxJob) (f : NpxFmt) (pop : Bool) (at_ : Phys) (free : NpxFree) :
    s.NpxStoresTo (npxStore f pop false at_ free { s with npx := s.npx.begin j, fresh := s.fresh + 5 }) f pop at_ (s.npx.storeAnswer free.real f) := by
  have plain := npxStore_plain (ordinary.1.begin j (s.fresh + 5)) f pop at_ free
  dsimp only at plain
  rw [Npx.storeAnswer_begin, Npx.begin_cw] at plain
  rw [plain]
  unfold State.NpxStoresTo
  generalize s.npx.storeAnswer free.real f = a
  by_cases trap : unmasked s.npx.cw a.before ≠ 0
  · rw [if_pos trap, if_pos trap]
    refine ⟨rfl, npxReplies_begin (npxReplies_finish ((Npx.Works.refl _).then_freeCc free) _), ?_, ?_, ?_⟩ <;> simp [State.setNpx]
  · rw [if_neg trap, if_neg trap]
    refine ⟨⟨rfl, ?_, fun b outside _ => Memory.read_store_other _ _ outside⟩,
      npxReplies_begin (npxReplies_finish (((Npx.Works.refl _).then_popIf pop).then_freeCc free) _), ?_, ?_, ?_⟩
    · have few := f.bytes_le
      have number := Memory.number_store ordinary.2 (k := f.bytes) (by omega) at_ a.value
      rw [show 256 = 2 ^ 8 from rfl, ← pow_mul] at number
      exact number
    all_goals simp

/-- What the storing instructions leave. -/
theorem npxStores_instructions {s : State} (h : s.NpxReady) (ordinary : s.Ordinary) :
    ∀ p ∈ npxMemoryForms, ∀ f pop, p.2.2 = .store f pop → ∀ rm, rm.wellFormedMem = true →
    Gives (exec (p.1 rm) s) fun t => ∃ fr, s.NpxStoresTo t f pop (phys (eaSeg s rm) (eaOff s rm)) (s.npx.storeAnswer fr f) := by
  intro p hp f pop op rm mem
  obtain ⟨stopped, overlap, idle⟩ := h
  have start := exec_npxMemoryForms_starts stopped p hp rm mem (.inl idle)
  rw [npxStart_atOnce (.inl overlap)] at start
  generalize hj : s.escJob _ _ _ _ = j at start
  have alone : j.raced = false := by rw [← hj]; rfl
  have store : j.op = .store f pop := by rw [← hj]; exact op
  have addr : j.addr.getD 0 = phys (eaSeg s rm) (eaOff s rm) := by rw [← hj]; rfl
  rw [npxRun_store alone store, addr] at start
  exact ⟨_, start, _, npxStoresTo_npxStore ordinary j f pop _ _⟩

/-- Settles O52. -/
theorem npxStores : Obligations.NpxStores := by
  unfold Obligations.NpxStores
  refine ⟨fun p hp cw v => ?_, fun p hp cw v => ?_, fun bits hbits cw v => ?_, fun fr v => ⟨fun notZero notNormal => ?_, storeBcd_number fr⟩,
    fun cw fr v => ⟨rfl, rfl, bcdIndef_div fr⟩, fun s h ordinary => npxStores_instructions h ordinary⟩
  · have format := isRealFormat_of_mem hp
    refine ⟨storeReal_zero cw, storeReal_infinity cw format.fraction, storeReal_nan cw, fun unnormal large => ?_, storeReal_pseudoZero cw,
      storeReal_denormal cw⟩
    rw [storeReal_unnormal_large cw unnormal large, memIndef_eq p hp]
  · exact storesNumber_storeReal cw (isRealFormat_of_mem hp)
  · have pos : 1 ≤ bits := by
      simp only [List.mem_cons, List.not_mem_nil, or_false] at hbits
      omega
    refine ⟨fun zero => ?_, fun notZero notNormal => ?_, storeInt_normal pos cw⟩
    · rw [storeInt, zero]
    · rw [storeInt]
      cases cls : realClass v
      case zero => exact absurd cls notZero
      case normal => exact absurd cls notNormal
      all_goals rfl
  · rw [storeBcd]
    cases cls : realClass v
    case zero => exact absurd cls notZero
    case normal => exact absurd cls notNormal
    all_goals exact ⟨rfl, rfl, bcdIndef_div fr⟩

end Sys2Proof.Machine
